-- ==== Sys2Proof/Word.lean ====
section
/-! DEFINITION. The machine's words (R13, R46): bit vectors of the widths the manual uses, and the two
extensions it names, `sext` and `zext`. -/
namespace Sys2Proof

/-- A 64-bit register value (R20). -/
abbrev Word := BitVec 64
/-- A 32-bit word: a control word, a lane, a constant (R19). -/
abbrev Word32 := BitVec 32
/-- One byte of memory (R13). -/
abbrev Byte := BitVec 8
/-- A 512-bit vector register or line (R20). -/
abbrev Line := BitVec 512

/-- `sext(x)` to 64 bits (chapter 04). -/
abbrev sext {n : Nat} (x : BitVec n) : Word := x.signExtend 64
/-- `zext(x)` to 64 bits (chapter 04). -/
abbrev zext {n : Nat} (x : BitVec n) : Word := x.setWidth 64

/-- Bits `[hi:lo]` of a number (R14). -/
abbrev bitsOf (hi lo w : Nat) : Nat := w / 2 ^ lo % 2 ^ (hi - lo + 1)

/-- Bit `i` of a number as a truth value (R14). -/
abbrev bitOf (i w : Nat) : Bool := w / 2 ^ i % 2 == 1

end Sys2Proof

namespace Sys2Proof.Machine

/-- A value of a floating format, or an exact real on its way to one: a NaN, an infinity, or
(−1)^neg × m × 2^e (R41). -/
inductive FVal where
  | nan
  | inf (neg : Bool)
  | fin (neg : Bool) (m : Nat) (e : Int)
  deriving DecidableEq, Repr

end Sys2Proof.Machine
end

