-- ==== Sys2Proof/Syntax.lean ====
section
/-! DEFINITION. The steps of the part: one constructor of `Instr` for every row of the opcode table. The first 88 are
the control words of R69 and R70, whose operands are the fields of the word as the table gives them; the others are the
part's events, whose operands name what they happen to (a tile, a queue, a packet) or, for what comes from outside the
package, what arrives. -/
namespace Sys2Proof

/-- A control sequencer: a tile's CSQ by physical tile number (R7), or a keeper sequencer by 2 × die + index (R308). -/
inductive SeqId where
  | tile (t : Nat)
  | keeper (k : Nat)
  deriving DecidableEq, Repr

/-- A queue of commands: the matrix queue, C0 or C1 (R181). -/
inductive CmdUnit where
  | m | c0 | c1
  deriving DecidableEq, Repr

/-- A packet accepted from a user-mode queue: its VD, its queue and its index (R274). -/
structure PktId where
  vd : Nat
  q : Nat
  idx : Nat
  deriving DecidableEq, Repr

/-- A soft error in tile storage (R375). -/
inductive StorageError where
  | corrected                       -- any storage, single error
  | scratchpad (line : Nat)         -- uncorrectable, in scratchpad
  | other                           -- uncorrectable, in any other storage
  deriving DecidableEq, Repr

/-- The operations of a message descriptor (R390). -/
inductive MsgOp where
  | write | readReq | readRsp | atomic | atomRsp | poisonNote
  deriving DecidableEq, Repr

/-- A message's descriptor and the bytes it carries, as sealed (R390). -/
structure Message where
  op : MsgOp
  fn : Nat := 0          -- R71 code in [3:0], [4] 64-bit, [5] SA
  keyId : Nat := 0
  world : Nat := 0
  len : Nat := 0
  pa : Nat := 0
  status : Nat := 0      -- [7:0] fault code, [63:8] poisoned-line bitmap
  origin : Nat := 0
  data : List Byte := []
  deriving DecidableEq, Repr

/-- What a leaf carries of a sealed message (R388 to R390): the sealed descriptor and the tag of its header, and its body. -/
structure Sealed where
  desc : List Byte := []
  tag : List Byte := []
  data : List Byte := []
  deriving DecidableEq, Repr

/-- A leaf as it arrives at a port (R390). -/
structure Leaf where
  src : Nat              -- SRCPKG of the header
  from_ : Nat            -- the UALink source
  lane : Nat
  resync : Bool := false
  seq : Nat
  idx : Nat
  d : Nat                -- data leaves
  m : Nat                -- guard leaves
  cls : Nat := 0
  rsp : Bool := false
  epoch : Nat := 0
  zeros : Bool := true   -- the header's zero fields are zero
  poisoned : Bool := false
  body : Sealed
  deriving DecidableEq, Repr

/-- A control leaf (R397); `no` is the leaf number of its first copy, `macOk` says whether its MAC passes (log 124), and `poisoned` whether
a switch on its way has marked it (R384). -/
structure ControlLeaf where
  src : Nat
  no : Nat := 0
  lane : Nat
  seq : Nat
  rsp : Bool := false
  bitmap : Nat := 0      -- RETX: good indices held
  n : Nat := 0           -- RETX: leaves still needed
  status : Nat := 0      -- ACK: fault code and poison bitmap
  macOk : Bool := true
  poisoned : Bool := false
  deriving DecidableEq, Repr

/-- A message of the mooring (R427): the sender, its nonce, the key material it carries, its certificate chain, measurement
blocks and signature, and what the receiver's checks of these or of the confirmation find. -/
structure MoorMsg where
  peer : Nat
  nonce : Nat := 0
  keyBytes : Nat := 0
  rest : List Byte := []
  checksPass : Bool := true
  deriving DecidableEq, Repr

/-- An SPDM request with the function it comes on: its bytes, header and all (R425). -/
structure SpdmReq where
  fn : Nat
  bytes : List Byte := []
  deriving DecidableEq, Repr

/-- What a CHALLENGE or GET_MEASUREMENTS holds beside slot or index: its nonce and context; the summary a challenge asks for, or
the attributes of a measurement and the slot that is to sign it (R425). -/
structure SpdmAsk where
  nonce : Nat := 0
  context : Nat := 0
  kind : Nat := 0
  slot : Nat := 0
  deriving DecidableEq, Repr

/-- A request on a virtual function's memory BAR (R432). -/
structure ApReq where
  vf : Nat
  off : Nat
  len : Nat := 8
  data : List Byte := []
  fn : Nat := 0          -- AtomicOp: 0 FetchAdd, 1 Swap, 2 CAS
  cmp : Nat := 0
  ide : Bool := false    -- carried on the function's IDE stream
  tag : Nat := 0
  arrived : Bool := true -- false: translated, now taking its value at its home
  deriving DecidableEq, Repr

/-- The completion of an ATS translation request (R353). -/
inductive AtsResult where
  | denied
  | granted (page : Nat) (r w a : Bool)
  deriving DecidableEq, Repr

/-- What resets the package (R439). -/
inductive ResetCause where
  | perst | pfFlr | temperature
  deriving DecidableEq, Repr

/-- What a bring-up stage finds (R438). -/
structure BootResult where
  ok : Bool := true
  deadDies : List Nat := []
  fitted : Nat := 0xFFF         -- fitted stacks
  gbPerStack : Nat := 47        -- GB per stack that programs may use
  tierL : Nat := 0              -- bytes
  expanders : Nat := 0          -- linked expanders
  gibX : List Nat := []         -- GiB of each expander
  ports : Nat := 0              -- trained UALink ports
  image : List Byte := []       -- stage 4: the keeper microcode
  deriving DecidableEq, Repr

/-- The steps of the part, one constructor for each row of the opcode table. -/
inductive Instr where
  /-- ADD, R100. -/
  | add (d : BitVec 6) (a : BitVec 6) (b : BitVec 6)
  /-- SUB, R100. -/
  | sub (d : BitVec 6) (a : BitVec 6) (b : BitVec 6)
  /-- AND, R100. -/
  | and (d : BitVec 6) (a : BitVec 6) (b : BitVec 6)
  /-- OR, R100. -/
  | or (d : BitVec 6) (a : BitVec 6) (b : BitVec 6)
  /-- XOR, R100. -/
  | xor (d : BitVec 6) (a : BitVec 6) (b : BitVec 6)
  /-- ANDN, R100. -/
  | andn (d : BitVec 6) (a : BitVec 6) (b : BitVec 6)
  /-- SHL, R100. -/
  | shl (d : BitVec 6) (a : BitVec 6) (b : BitVec 6)
  /-- SHR, R100. -/
  | shr (d : BitVec 6) (a : BitVec 6) (b : BitVec 6)
  /-- SRA, R100. -/
  | sra (d : BitVec 6) (a : BitVec 6) (b : BitVec 6)
  /-- MUL, R100. -/
  | mul (d : BitVec 6) (a : BitVec 6) (b : BitVec 6)
  /-- MULH, R100. -/
  | mulh (d : BitVec 6) (a : BitVec 6) (b : BitVec 6)
  /-- MULHU, R100. -/
  | mulhu (d : BitVec 6) (a : BitVec 6) (b : BitVec 6)
  /-- DIV, R101. -/
  | div (d : BitVec 6) (a : BitVec 6) (b : BitVec 6)
  /-- DIVU, R101. -/
  | divu (d : BitVec 6) (a : BitVec 6) (b : BitVec 6)
  /-- REM, R101. -/
  | rem (d : BitVec 6) (a : BitVec 6) (b : BitVec 6)
  /-- REMU, R101. -/
  | remu (d : BitVec 6) (a : BitVec 6) (b : BitVec 6)
  /-- MIN, R100. -/
  | min (d : BitVec 6) (a : BitVec 6) (b : BitVec 6)
  /-- MAX, R100. -/
  | max (d : BitVec 6) (a : BitVec 6) (b : BitVec 6)
  /-- SLT, R100. -/
  | slt (d : BitVec 6) (a : BitVec 6) (b : BitVec 6)
  /-- SLTU, R100. -/
  | sltu (d : BitVec 6) (a : BitVec 6) (b : BitVec 6)
  /-- SEQ, R100. -/
  | seq (d : BitVec 6) (a : BitVec 6) (b : BitVec 6)
  /-- CNTLZ, R100. -/
  | cntlz (d : BitVec 6) (a : BitVec 6)
  /-- CNTPOP, R100. -/
  | cntpop (d : BitVec 6) (a : BitVec 6)
  /-- ADDI, R102. -/
  | addi (d : BitVec 6) (a : BitVec 6) (i : BitVec 13)
  /-- ANDI, R102. -/
  | andi (d : BitVec 6) (a : BitVec 6) (i : BitVec 13)
  /-- ORI, R102. -/
  | ori (d : BitVec 6) (a : BitVec 6) (i : BitVec 13)
  /-- XORI, R102. -/
  | xori (d : BitVec 6) (a : BitVec 6) (i : BitVec 13)
  /-- SHLI, R102. -/
  | shli (d : BitVec 6) (a : BitVec 6) (s : BitVec 6)
  /-- SHRI, R102. -/
  | shri (d : BitVec 6) (a : BitVec 6) (s : BitVec 6)
  /-- SRAI, R102. -/
  | srai (d : BitVec 6) (a : BitVec 6) (s : BitVec 6)
  /-- SLTI, R102. -/
  | slti (d : BitVec 6) (a : BitVec 6) (i : BitVec 13)
  /-- EXTR, R103. -/
  | extr (d : BitVec 6) (a : BitVec 6) (l : BitVec 6) (p : BitVec 6)
  /-- EXTRZ, R103. -/
  | extrz (d : BitVec 6) (a : BitVec 6) (l : BitVec 6) (p : BitVec 6)
  /-- INSR, R103. -/
  | insr (d : BitVec 6) (a : BitVec 6) (l : BitVec 6) (p : BitVec 6)
  /-- LUI, R104. -/
  | lui (d : BitVec 6) (i : BitVec 19)
  /-- LCAT, R104. -/
  | lcat (d : BitVec 6) (i : BitVec 19)
  /-- BEQ, R105. -/
  | beq (a : BitVec 6) (b : BitVec 6) (o : BitVec 13)
  /-- BNE, R105. -/
  | bne (a : BitVec 6) (b : BitVec 6) (o : BitVec 13)
  /-- BLT, R105. -/
  | blt (a : BitVec 6) (b : BitVec 6) (o : BitVec 13)
  /-- BGE, R105. -/
  | bge (a : BitVec 6) (b : BitVec 6) (o : BitVec 13)
  /-- BLTU, R105. -/
  | bltu (a : BitVec 6) (b : BitVec 6) (o : BitVec 13)
  /-- BGEU, R105. -/
  | bgeu (a : BitVec 6) (b : BitVec 6) (o : BitVec 13)
  /-- J, R106. -/
  | j (o : BitVec 25)
  /-- JL, R106. -/
  | jl (o : BitVec 25)
  /-- JLR, R106. -/
  | jlr (d : BitVec 6) (a : BitVec 6) (i : BitVec 13)
  /-- LD_S8, R107. -/
  | ldS8 (d : BitVec 6) (a : BitVec 6) (i : BitVec 13)
  /-- LD_Z8, R107. -/
  | ldZ8 (d : BitVec 6) (a : BitVec 6) (i : BitVec 13)
  /-- LD_S16, R107. -/
  | ldS16 (d : BitVec 6) (a : BitVec 6) (i : BitVec 13)
  /-- LD_Z16, R107. -/
  | ldZ16 (d : BitVec 6) (a : BitVec 6) (i : BitVec 13)
  /-- LD_S32, R107. -/
  | ldS32 (d : BitVec 6) (a : BitVec 6) (i : BitVec 13)
  /-- LD_Z32, R107. -/
  | ldZ32 (d : BitVec 6) (a : BitVec 6) (i : BitVec 13)
  /-- LD_64, R107. -/
  | ld64 (d : BitVec 6) (a : BitVec 6) (i : BitVec 13)
  /-- ST_8, R107. -/
  | st8 (d : BitVec 6) (a : BitVec 6) (i : BitVec 13)
  /-- ST_16, R107. -/
  | st16 (d : BitVec 6) (a : BitVec 6) (i : BitVec 13)
  /-- ST_32, R107. -/
  | st32 (d : BitVec 6) (a : BitVec 6) (i : BitVec 13)
  /-- ST_64, R107. -/
  | st64 (d : BitVec 6) (a : BitVec 6) (i : BitVec 13)
  /-- AMO_32, R110. -/
  | amo32 (d : BitVec 6) (a : BitVec 6) (b : BitVec 6) (f : BitVec 4) (s : BitVec 3)
  /-- AMO_64, R110. -/
  | amo64 (d : BitVec 6) (a : BitVec 6) (b : BitVec 6) (f : BitVec 4) (s : BitVec 3)
  /-- AMOS_32, R112. -/
  | amos32 (d : BitVec 6) (a : BitVec 6) (b : BitVec 6) (f : BitVec 4) (s : BitVec 3)
  /-- AMOS_64, R112. -/
  | amos64 (d : BitVec 6) (a : BitVec 6) (b : BitVec 6) (f : BitVec 4) (s : BitVec 3)
  /-- CAS, R111. -/
  | cas (d : BitVec 6) (a : BitVec 6) (b : BitVec 6) (w : BitVec 1) (s : BitVec 3)
  /-- MARK, R114. -/
  | mark
  /-- QFENCE, R115. -/
  | qfence (q : BitVec 9)
  /-- PUSHT, R116. -/
  | pusht (a : BitVec 6) (e : BitVec 8) (c : BitVec 1) (l : BitVec 4)
  /-- PUSHM, R116. -/
  | pushm (a : BitVec 6) (k : BitVec 3) (c : BitVec 8)
  /-- PUSHO, R116. -/
  | pusho (d : BitVec 6) (t : BitVec 19)
  /-- PUSHB, R116. -/
  | pushb (t : BitVec 19)
  /-- PUSHV, R116. -/
  | pushv (a : BitVec 6) (s : BitVec 5)
  /-- SEMWAIT, R118. -/
  | semwait (c : BitVec 1) (t : BitVec 8) (s : BitVec 8)
  /-- SEMSIG, R119. -/
  | semsig (a : BitVec 6) (f : BitVec 1) (i : BitVec 4) (s : BitVec 8)
  /-- SEMRD, R121. -/
  | semrd (d : BitVec 6) (s : BitVec 8)
  /-- SEMINIT, R121. -/
  | seminit (a : BitVec 6) (s : BitVec 8)
  /-- SPAWN, R123. -/
  | spawn (a : BitVec 6) (b : BitVec 6)
  /-- UEND, R125. -/
  | uend
  /-- PARK, R126. -/
  | park
  /-- CBW, R127. -/
  | cbw (a : BitVec 6) (w : BitVec 12)
  /-- STRM, R128. -/
  | strm (a : BitVec 6) (d : BitVec 2) (p : BitVec 6)
  /-- TRAP, R130. -/
  | trap (c : BitVec 13)
  /-- ERET, R131. -/
  | eret
  /-- CSRR, R132. -/
  | csrr (d : BitVec 6) (c : BitVec 12)
  /-- CSRW, R132. -/
  | csrw (a : BitVec 6) (c : BitVec 12)
  /-- RDTIME, R133. -/
  | rdtime (d : BitVec 6)
  /-- WFE, R134. -/
  | wfe
  /-- TLBKILL, R136. -/
  | tlbkill (a : BitVec 6) (r : BitVec 1)
  /-- TLBSYNC, R137. -/
  | tlbsync
  /-- HALTB, R138. -/
  | haltb (a : BitVec 6)
  /-- KROT, R139. -/
  | krot (a : BitVec 6) (b : BitVec 6)
  /-- SCRUB, R140. -/
  | scrub (a : BitVec 6)
  /-- CSQ_ACCESS_RETURN, R99. -/
  | csqAccessReturn (q : SeqId) (id : Nat)
  /-- CSQ_STORE_PERFORM, R258. -/
  | csqStorePerform (q : SeqId) (id : Nat)
  /-- BUNDLE_ISSUE, R220. -/
  | bundleIssue (t : Nat)
  /-- SKIP_WALK, R224. -/
  | skipWalk (t : Nat)
  /-- BSQ_STALL, R227. -/
  | bsqStall (t : Nat)
  /-- BUNDLE_RETIRE, R231. -/
  | bundleRetire (t : Nat)
  /-- SLOT_RESULT_WRITE, R143. -/
  | slotResultWrite (t : Nat)
  /-- PROFILE4_INTERLOCK, R246. -/
  | profile4Interlock (t : Nat)
  /-- BSQ_FREEZE, R233. -/
  | bsqFreeze (t : Nat)
  /-- BSQ_RESUME, R234. -/
  | bsqResume (t : Nat)
  /-- STREAM_FETCH, R228. -/
  | streamFetch (t p : Nat)
  /-- STREAM_ELEMENT_READY, R228. -/
  | streamElementReady (t p : Nat)
  /-- STREAM_ELEMENT_WRITE, R229. -/
  | streamElementWrite (t p : Nat)
  /-- SLOT_STORE_PERFORM, R442. -/
  | slotStorePerform (t : Nat)
  /-- COMMAND_START, R183. -/
  | commandStart (t : Nat) (u : CmdUnit)
  /-- MMA_GROUP_ROUND, R314. -/
  | mmaGroupRound (t : Nat)
  /-- COMMAND_COMPLETE, R184. -/
  | commandComplete (t : Nat) (u : CmdUnit)
  /-- COPY_LINE_REQUEST, R206. -/
  | copyLineRequest (t : Nat) (u : CmdUnit)
  /-- COPY_LINE_PERFORM, R443. -/
  | copyLinePerform (t : Nat) (u : CmdUnit) (id : Nat)
  /-- INBOUND_LINE_VERIFY, R204. -/
  | inboundLineVerify (t : Nat) (u : CmdUnit) (id : Nat)
  /-- FAR_INCREMENT_ARRIVAL, R258. -/
  | farIncrementArrival (t sem inc src wtag : Nat)
  /-- UNIT_START, R238. -/
  | unitStart (t entry iter : Nat)
  /-- SPAWN_UNIT_START, R123. -/
  | spawnUnitStart (t entry : Nat)
  /-- HALT_BROADCAST_ARRIVAL, R138. -/
  | haltBroadcastArrival (t team : Nat)
  /-- WALK_COMPLETE, R349. -/
  | walkComplete (die id : Nat)
  /-- TLBKILL_COMPLETE, R136. -/
  | tlbkillComplete (id : Nat)
  /-- COMBINER_WRITEBACK, R270. -/
  | combinerWriteback (addr : Nat)
  /-- WATCHDOG, R372. -/
  | watchdog (t agent : Nat)
  /-- TILE_STORAGE_ERROR, R375. -/
  | tileStorageError (t : Nat) (e : StorageError)
  /-- NOTIFY, R282. -/
  | notify (vd q : Nat)
  /-- REFRESH, R282. -/
  | refresh (vd q : Nat)
  /-- NOP, R284. -/
  | nop (p : PktId)
  /-- LAUNCH, R284. -/
  | launch (p : PktId)
  /-- COPY, R306. -/
  | copy (p : PktId)
  /-- SIGNAL, R284. -/
  | signal (p : PktId)
  /-- WAITSIG, R285. -/
  | waitsig (p : PktId)
  /-- WAITSIG_POLL, R285. -/
  | waitsigPoll (p : PktId)
  /-- WAITSIG_TIMEOUT, R284. -/
  | waitsigTimeout (p : PktId)
  /-- CANCEL, R293. -/
  | cancel (p : PktId)
  /-- PHASE, R287. -/
  | phase (p : PktId)
  /-- CKPT, R407. -/
  | ckpt (p : PktId)
  /-- COMPLETION_REPORT, R278. -/
  | completionReport (p : PktId)
  /-- WAVE_START, R290. -/
  | waveStart (launch : Nat)
  /-- LAUNCH_COMPLETE, R290. -/
  | launchComplete (launch : Nat)
  /-- TILE_DRAIN_COMPLETE, R416. -/
  | tileDrainComplete (t : Nat)
  /-- POOL_ALLOC_RETRY, R292. -/
  | poolAllocRetry (vd : Nat)
  /-- PREEMPT_REQUEST, R303. -/
  | preemptRequest (vd : Nat)
  /-- VT_ADVANCE, R303. -/
  | vtAdvance
  /-- TOKEN_REFILL, R302. -/
  | tokenRefill
  /-- KPLACE, R311. -/
  | kplace (k : Nat) (v : Word)
  /-- KPREEMPT, R320. -/
  | kpreempt (k : Nat) (v : Word)
  /-- KRESUME, R328. -/
  | kresume (k : Nat) (v : Word)
  /-- KREJECT, R311. -/
  | kreject (k : Nat) (v : Word)
  /-- KREPORT, R311. -/
  | kreport (k : Nat) (v : Word)
  /-- KFREE, R311. -/
  | kfree (k : Nat) (v : Word)
  /-- CLAMP_ARRIVAL, R321. -/
  | clampArrival (t team : Nat)
  /-- SAVE, R324. -/
  | save (team : Nat)
  /-- DISCARD, R329. -/
  | discard (team : Nat)
  /-- CLAMPED_UNIT_END, R322. -/
  | clampedUnitEnd (t : Nat)
  /-- KEEPER_CONTAINMENT, R369. -/
  | keeperContainment (team : Nat)
  /-- DIE_RESET, R378. -/
  | dieReset (d : Nat)
  /-- MICROCODE_RELOAD, R310. -/
  | microcodeReload (image : List Byte)
  /-- VDCREATE, R299. -/
  | vdcreate (vd pa : Nat)
  /-- MIGREQ, R356. -/
  | migreq (pa : Nat) (pf : Bool)
  /-- MIGRATION_START, R358. -/
  | migrationStart (slot : Nat)
  /-- MIGRATION_LINE_COPY, R359. -/
  | migrationLineCopy (slot : Nat)
  /-- MIGRATION_COMPLETE, R361. -/
  | migrationComplete (slot : Nat)
  /-- MIGRATION_ABORT, R362. -/
  | migrationAbort (slot cause : Nat)
  /-- KROT_COMPLETE, R364. -/
  | krotComplete (id : Nat)
  /-- HOTNESS_PERIOD, R355. -/
  | hotnessPeriod
  /-- PRI_RESPONSE, R354. -/
  | priResponse (tag : Nat) (ok : Bool)
  /-- ATS_INVALIDATION, R353. -/
  | atsInvalidation (vd page : Nat)
  /-- POISON_NOTIFY_SEND, R377. -/
  | poisonNotifySend (pa : Nat)
  /-- FRTLOAD, R386. -/
  | frtload (first count : Nat)
  /-- MESSAGE_SEAL, R387. -/
  | messageSeal (id : Nat)
  /-- LEAF_ARRIVAL, R393. -/
  | leafArrival (port : Nat) (l : Leaf)
  /-- GUARD_DECODE, R394. -/
  | guardDecode (frame : Nat)
  /-- MESSAGE_DELIVER, R394. -/
  | messageDeliver (src lane : Nat) (rsp : Bool)
  /-- TFRAG_EXPIRY, R393. -/
  | tfragExpiry (frame : Nat)
  /-- TDRAIN_EXPIRY, R393. -/
  | tdrainExpiry (frame : Nat)
  /-- ACK, R394. -/
  | ack (c : ControlLeaf)
  /-- RETX, R395. -/
  | retx (c : ControlLeaf)
  /-- LOSS, R396. -/
  | loss (c : ControlLeaf)
  /-- ABANDON, R398. -/
  | abandon (c : ControlLeaf)
  /-- TACK_EXPIRY, R398. -/
  | tackExpiry (id : Nat)
  /-- POISONNOTE_RECEIVE, R377. -/
  | poisonnoteReceive (src pa : Nat)
  /-- PORT_TRAINING_CHANGE, R383. -/
  | portTrainingChange (port : Nat) (up : Bool)
  /-- WCREATE, R413. -/
  | wcreate (w : Nat)
  /-- WDESTROY, R414. -/
  | wdestroy (w : Nat)
  /-- KBIND, R410. -/
  | kbind (w : Nat)
  /-- KSCRUB, R414. -/
  | kscrub (i : Nat)
  /-- FGRANT, R415. -/
  | fgrant (pa count i : Nat)
  /-- PCMSET, R418. -/
  | pcmset (q mask : Nat)
  /-- MOOR, R427. -/
  | moor (peer : Nat)
  /-- SCT_BAD_COMMAND, R414. -/
  | sctBadCommand (code : Nat)
  /-- KEYID_FREED, R410. -/
  | keyidFreed (i : Nat)
  /-- MOOR1, R427. -/
  | moor1 (m : MoorMsg)
  /-- MOOR2, R427. -/
  | moor2 (m : MoorMsg)
  /-- MOOR3, R428. -/
  | moor3 (m : MoorMsg)
  /-- MOOR_TIMEOUT, R427. -/
  | moorTimeout (peer : Nat)
  /-- SETWK, R413. -/
  | setwk (fn : Nat) (body : List Byte)
  /-- GET_VERSION, R425. -/
  | getVersion (fn : Nat)
  /-- GET_CAPABILITIES, R425. -/
  | getCapabilities (r : SpdmReq)
  /-- NEGOTIATE_ALGORITHMS, R425. -/
  | negotiateAlgorithms (r : SpdmReq)
  /-- GET_DIGESTS, R425. -/
  | getDigests (fn : Nat)
  /-- GET_CERTIFICATE, R425. -/
  | getCertificate (fn slot off len : Nat)
  /-- CHALLENGE, R425. -/
  | challenge (fn slot : Nat) (ask : SpdmAsk)
  /-- GET_MEASUREMENTS, R426. -/
  | getMeasurements (fn index : Nat) (ask : SpdmAsk)
  /-- SPDM_UNSUPPORTED, R425. -/
  | spdmUnsupported (fn code : Nat)
  /-- LOCK_INTERFACE_REQUEST, R433. -/
  | lockInterfaceRequest (vf : Nat)
  /-- START_INTERFACE_REQUEST, R433. -/
  | startInterfaceRequest (vf : Nat)
  /-- STOP_INTERFACE_REQUEST, R433. -/
  | stopInterfaceRequest (vf : Nat)
  /-- GET_DEVICE_INTERFACE_REPORT, R433. -/
  | getDeviceInterfaceReport (vf : Nat)
  /-- TDISP_ERROR_EVENT, R433. -/
  | tdispErrorEvent (vf : Nat)
  /-- VF_FLR, R439. -/
  | vfFlr (vf : Nat)
  /-- APERTURE_READ, R432. -/
  | apertureRead (r : ApReq)
  /-- APERTURE_WRITE, R432. -/
  | apertureWrite (r : ApReq)
  /-- APERTURE_ATOMIC, R432. -/
  | apertureAtomic (r : ApReq)
  /-- CNOTIFY, R436. -/
  | cnotify (vf c : Nat)
  /-- CHUNK_COPY, R436. -/
  | chunkCopy (vf c : Nat)
  /-- BULK_CHUNK_BOUNDARY, R307. -/
  | bulkChunkBoundary (die engine : Nat)
  /-- MSIX_SEND, R434. -/
  | msixSend (vf v : Nat)
  /-- PACKAGE_RESET, R439. -/
  | packageReset (cause : ResetCause)
  /-- BRING_UP_STAGE, R438. -/
  | bringUpStage (r : BootResult)
  /-- SUPPLY_DROOP, R11. -/
  | supplyDroop (die stretch : Nat)
  /-- POWER_LIMIT_CONTROL, R440. -/
  | powerLimitControl (power stretch : Nat)
  /-- LINK_FAILURE, R297. -/
  | linkFailure (d e : Nat)
  /-- CXL_LINK_LOSS, R362. -/
  | cxlLinkLoss (e : Nat)
  /-- REGISTER_WRITE, R402. -/
  | registerWrite (fn off : Nat) (v : Word)
  /-- UNASSIGNED_CONTROL_WORD, R68. -/
  | unassignedControlWord (w : Word32)
  /-- ATS_COMPLETION, R353. -/
  | atsCompletion (tag : Nat) (r : AtsResult)
  /-- MSIX_UNMASK, R434. -/
  | msixUnmask (vf v : Nat)
  /-- EVENT_DELIVERED_BY_KEEPER, R134. -/
  | eventDeliveredByKeeper (t : Nat)
  /-- DIE_RESET_COMPLETE, R378. -/
  | dieResetComplete (d : Nat)
  deriving DecidableEq, Repr

end Sys2Proof
end

