-- ==== Sys2Proof/WellFormed.lean ====
section
/-! DEFINITION. Which control words are assigned (R67 to R70) and which instructions are well formed: a control
instruction keeps the limits R69 gives its fields, an unassigned word is one R69 gives to no instruction. Events have no
encoding and are not well formed. -/
namespace Sys2Proof

/-- The `op` field of a control word (R66). -/
abbrev opOf (w : Word32) : Nat := w.toNat / 2 ^ 25
/-- The `fn` field of an R-form word (R66). -/
abbrev fnOf (w : Word32) : Nat := w.toNat % 2 ^ 7

/-- The bits R70 requires zero in an ALU word of function `fn`; none where R70 assigns no function. -/
def aluMustBeZero (fn : Nat) : Option Word32 :=
  if fn = 0x15 ∨ fn = 0x16 then some 0x1F80#32 else if fn ≤ 0x16 then some 0#32 else none

/-- The bits the "Zero" column of R69 requires zero in a word of this `op`; none where R69 lists no such `op`. -/
def mustBeZero (op fn : Nat) : Option Word32 :=
  match op with
  | 0x01 => aluMustBeZero fn
  | 0x02 | 0x03 | 0x04 | 0x05 | 0x09 | 0x0D | 0x0E | 0x18 | 0x19 | 0x1A | 0x1B | 0x1C | 0x1D | 0x1E | 0x1F | 0x20 | 0x28 | 0x29 | 0x2A | 0x2B | 0x2C | 0x2D | 0x2E | 0x2F | 0x30 | 0x31 | 0x32 | 0x34 | 0x35 | 0x36 | 0x37 | 0x42 => some 0x0#32
  | 0x06 | 0x07 | 0x08 => some 0x1FC0#32
  | 0x0A | 0x0B | 0x0C => some 0x1000#32
  | 0x38 => some 0x70#32
  | 0x3A | 0x51 | 0x52 | 0x61 | 0x65 | 0x71 => some 0x1FFFFFF#32
  | 0x3B => some 0x1FFFE00#32
  | 0x40 | 0x43 | 0x49 => some 0x1F80000#32
  | 0x41 => some 0x1F81800#32
  | 0x44 => some 0x1F81FE0#32
  | 0x48 => some 0x1FE0000#32
  | 0x4A => some 0x7FF00#32
  | 0x4B | 0x54 => some 0x1F81F00#32
  | 0x50 | 0x73 => some 0x1F8007F#32
  | 0x53 | 0x63 => some 0x1F81000#32
  | 0x60 => some 0x1FFE000#32
  | 0x62 => some 0x7F000#32
  | 0x64 => some 0x7FFFF#32
  | 0x70 => some 0x1F81FFE#32
  | 0x72 | 0x74 => some 0x1F81FFF#32
  | _ => none

/-- R68, check 1, for the bits of the word alone: the op and fn are assigned and the fields R69 marks zero are zero. -/
def assigned (w : Word32) : Bool :=
  match mustBeZero (opOf w) (fnOf w) with
  | none => false
  | some m => w &&& m == 0#32

/-- A scope code R71 assigns. -/
abbrev scopeOk (s : BitVec 3) : Bool := s.toNat ≤ 4
/-- An atomic function code R71 assigns. -/
abbrev amoFnOk (f : BitVec 4) : Bool := f.toNat ≤ 8
/-- `pos + len ≤ 64` (R103), the field holding len − 1. -/
abbrev fieldOk (l p : BitVec 6) : Bool := p.toNat + l.toNat + 1 ≤ 64

/-- The sub-code limits of R69 and R71 that the bits outside the operands do not decide. -/
def subcodesOk : Instr → Bool
  | .extr _ _ l p | .extrz _ _ l p | .insr _ _ l p => fieldOk l p
  | .amo32 _ _ _ f s | .amo64 _ _ _ f s | .amos32 _ _ _ f s | .amos64 _ _ _ f s => amoFnOk f && scopeOk s
  | .cas _ _ _ _ s => scopeOk s
  | .pushm _ k _ => k != 0
  | .semwait c t _ => !(c == 1 && t == 0)
  | .semsig a f _ _ => f == 1 || a == 0
  | .strm _ d _ => d != 2
  | _ => true

/-- A control instruction, one of the first 88 rows of the table. -/
def isControl : Instr → Bool
  | .add _ _ _ | .sub _ _ _ | .and _ _ _ | .or _ _ _ | .xor _ _ _ | .andn _ _ _ | .shl _ _ _ | .shr _ _ _
  | .sra _ _ _ | .mul _ _ _ | .mulh _ _ _ | .mulhu _ _ _ | .div _ _ _ | .divu _ _ _ | .rem _ _ _
  | .remu _ _ _ | .min _ _ _ | .max _ _ _ | .slt _ _ _ | .sltu _ _ _ | .seq _ _ _ | .cntlz _ _ | .cntpop _ _
  | .addi _ _ _ | .andi _ _ _ | .ori _ _ _ | .xori _ _ _ | .shli _ _ _ | .shri _ _ _ | .srai _ _ _
  | .slti _ _ _ | .extr _ _ _ _ | .extrz _ _ _ _ | .insr _ _ _ _ | .lui _ _ | .lcat _ _ | .beq _ _ _
  | .bne _ _ _ | .blt _ _ _ | .bge _ _ _ | .bltu _ _ _ | .bgeu _ _ _ | .j _ | .jl _ | .jlr _ _ _
  | .ldS8 _ _ _ | .ldZ8 _ _ _ | .ldS16 _ _ _ | .ldZ16 _ _ _ | .ldS32 _ _ _ | .ldZ32 _ _ _ | .ld64 _ _ _
  | .st8 _ _ _ | .st16 _ _ _ | .st32 _ _ _ | .st64 _ _ _ | .amo32 _ _ _ _ _ | .amo64 _ _ _ _ _
  | .amos32 _ _ _ _ _ | .amos64 _ _ _ _ _ | .cas _ _ _ _ _ | .mark | .qfence _ | .pusht _ _ _ _
  | .pushm _ _ _ | .pusho _ _ | .pushb _ | .pushv _ _ | .semwait _ _ _ | .semsig _ _ _ _ | .semrd _ _
  | .seminit _ _ | .spawn _ _ | .uend | .park | .cbw _ _ | .strm _ _ _ | .trap _ | .eret | .csrr _ _
  | .csrw _ _ | .rdtime _ | .wfe | .tlbkill _ _ | .tlbsync | .haltb _ | .krot _ _ | .scrub _ => true
  | _ => false

/-- A well-formed instruction: a control instruction within its limits, or a word R69 assigns to none. -/
def wf : Instr → Bool
  | .unassignedControlWord w => !assigned w
  | i => isControl i && subcodesOk i

end Sys2Proof
end

