-- ==== Sys2Proof/Decode.lean ====
section
/-! DEFINITION. The control decoder and encoder (R66 to R71). `decode` is total: every word that R68 refuses for its
bits decodes to `unassignedControlWord`, whose meaning raises ILLEGAL_ENC. A word whose sub-code R69 or R71 refuses
decodes to its row, and the row's meaning raises the fault. -/
namespace Sys2Proof

/-- The ALU group of op 0x01 (R70). -/
def decodeAlu (w : Word32) : Instr :=
  match fnOf w with
  | 0x00 => .add (w.extractLsb' 19 6) (w.extractLsb' 13 6) (w.extractLsb' 7 6)
  | 0x01 => .sub (w.extractLsb' 19 6) (w.extractLsb' 13 6) (w.extractLsb' 7 6)
  | 0x02 => .and (w.extractLsb' 19 6) (w.extractLsb' 13 6) (w.extractLsb' 7 6)
  | 0x03 => .or (w.extractLsb' 19 6) (w.extractLsb' 13 6) (w.extractLsb' 7 6)
  | 0x04 => .xor (w.extractLsb' 19 6) (w.extractLsb' 13 6) (w.extractLsb' 7 6)
  | 0x05 => .andn (w.extractLsb' 19 6) (w.extractLsb' 13 6) (w.extractLsb' 7 6)
  | 0x06 => .shl (w.extractLsb' 19 6) (w.extractLsb' 13 6) (w.extractLsb' 7 6)
  | 0x07 => .shr (w.extractLsb' 19 6) (w.extractLsb' 13 6) (w.extractLsb' 7 6)
  | 0x08 => .sra (w.extractLsb' 19 6) (w.extractLsb' 13 6) (w.extractLsb' 7 6)
  | 0x09 => .mul (w.extractLsb' 19 6) (w.extractLsb' 13 6) (w.extractLsb' 7 6)
  | 0x0A => .mulh (w.extractLsb' 19 6) (w.extractLsb' 13 6) (w.extractLsb' 7 6)
  | 0x0B => .mulhu (w.extractLsb' 19 6) (w.extractLsb' 13 6) (w.extractLsb' 7 6)
  | 0x0C => .div (w.extractLsb' 19 6) (w.extractLsb' 13 6) (w.extractLsb' 7 6)
  | 0x0D => .divu (w.extractLsb' 19 6) (w.extractLsb' 13 6) (w.extractLsb' 7 6)
  | 0x0E => .rem (w.extractLsb' 19 6) (w.extractLsb' 13 6) (w.extractLsb' 7 6)
  | 0x0F => .remu (w.extractLsb' 19 6) (w.extractLsb' 13 6) (w.extractLsb' 7 6)
  | 0x10 => .min (w.extractLsb' 19 6) (w.extractLsb' 13 6) (w.extractLsb' 7 6)
  | 0x11 => .max (w.extractLsb' 19 6) (w.extractLsb' 13 6) (w.extractLsb' 7 6)
  | 0x12 => .slt (w.extractLsb' 19 6) (w.extractLsb' 13 6) (w.extractLsb' 7 6)
  | 0x13 => .sltu (w.extractLsb' 19 6) (w.extractLsb' 13 6) (w.extractLsb' 7 6)
  | 0x14 => .seq (w.extractLsb' 19 6) (w.extractLsb' 13 6) (w.extractLsb' 7 6)
  | 0x15 => .cntlz (w.extractLsb' 19 6) (w.extractLsb' 13 6)
  | 0x16 => .cntpop (w.extractLsb' 19 6) (w.extractLsb' 13 6)
  | _ => .unassignedControlWord w

/-- A word whose op is assigned and whose zero fields are zero (R69). -/
def decodeAssigned (w : Word32) : Instr :=
  match opOf w with
  | 0x01 => decodeAlu w
  | 0x02 => .addi (w.extractLsb' 19 6) (w.extractLsb' 13 6) (w.extractLsb' 0 13)
  | 0x03 => .andi (w.extractLsb' 19 6) (w.extractLsb' 13 6) (w.extractLsb' 0 13)
  | 0x04 => .ori (w.extractLsb' 19 6) (w.extractLsb' 13 6) (w.extractLsb' 0 13)
  | 0x05 => .xori (w.extractLsb' 19 6) (w.extractLsb' 13 6) (w.extractLsb' 0 13)
  | 0x06 => .shli (w.extractLsb' 19 6) (w.extractLsb' 13 6) (w.extractLsb' 0 6)
  | 0x07 => .shri (w.extractLsb' 19 6) (w.extractLsb' 13 6) (w.extractLsb' 0 6)
  | 0x08 => .srai (w.extractLsb' 19 6) (w.extractLsb' 13 6) (w.extractLsb' 0 6)
  | 0x09 => .slti (w.extractLsb' 19 6) (w.extractLsb' 13 6) (w.extractLsb' 0 13)
  | 0x0A => .extr (w.extractLsb' 19 6) (w.extractLsb' 13 6) (w.extractLsb' 6 6) (w.extractLsb' 0 6)
  | 0x0B => .extrz (w.extractLsb' 19 6) (w.extractLsb' 13 6) (w.extractLsb' 6 6) (w.extractLsb' 0 6)
  | 0x0C => .insr (w.extractLsb' 19 6) (w.extractLsb' 13 6) (w.extractLsb' 6 6) (w.extractLsb' 0 6)
  | 0x0D => .lui (w.extractLsb' 19 6) (w.extractLsb' 0 19)
  | 0x0E => .lcat (w.extractLsb' 19 6) (w.extractLsb' 0 19)
  | 0x18 => .beq (w.extractLsb' 19 6) (w.extractLsb' 13 6) (w.extractLsb' 0 13)
  | 0x19 => .bne (w.extractLsb' 19 6) (w.extractLsb' 13 6) (w.extractLsb' 0 13)
  | 0x1A => .blt (w.extractLsb' 19 6) (w.extractLsb' 13 6) (w.extractLsb' 0 13)
  | 0x1B => .bge (w.extractLsb' 19 6) (w.extractLsb' 13 6) (w.extractLsb' 0 13)
  | 0x1C => .bltu (w.extractLsb' 19 6) (w.extractLsb' 13 6) (w.extractLsb' 0 13)
  | 0x1D => .bgeu (w.extractLsb' 19 6) (w.extractLsb' 13 6) (w.extractLsb' 0 13)
  | 0x1E => .j (w.extractLsb' 0 25)
  | 0x1F => .jl (w.extractLsb' 0 25)
  | 0x20 => .jlr (w.extractLsb' 19 6) (w.extractLsb' 13 6) (w.extractLsb' 0 13)
  | 0x28 => .ldS8 (w.extractLsb' 19 6) (w.extractLsb' 13 6) (w.extractLsb' 0 13)
  | 0x29 => .ldZ8 (w.extractLsb' 19 6) (w.extractLsb' 13 6) (w.extractLsb' 0 13)
  | 0x2A => .ldS16 (w.extractLsb' 19 6) (w.extractLsb' 13 6) (w.extractLsb' 0 13)
  | 0x2B => .ldZ16 (w.extractLsb' 19 6) (w.extractLsb' 13 6) (w.extractLsb' 0 13)
  | 0x2C => .ldS32 (w.extractLsb' 19 6) (w.extractLsb' 13 6) (w.extractLsb' 0 13)
  | 0x2D => .ldZ32 (w.extractLsb' 19 6) (w.extractLsb' 13 6) (w.extractLsb' 0 13)
  | 0x2E => .ld64 (w.extractLsb' 19 6) (w.extractLsb' 13 6) (w.extractLsb' 0 13)
  | 0x2F => .st8 (w.extractLsb' 19 6) (w.extractLsb' 13 6) (w.extractLsb' 0 13)
  | 0x30 => .st16 (w.extractLsb' 19 6) (w.extractLsb' 13 6) (w.extractLsb' 0 13)
  | 0x31 => .st32 (w.extractLsb' 19 6) (w.extractLsb' 13 6) (w.extractLsb' 0 13)
  | 0x32 => .st64 (w.extractLsb' 19 6) (w.extractLsb' 13 6) (w.extractLsb' 0 13)
  | 0x34 => .amo32 (w.extractLsb' 19 6) (w.extractLsb' 13 6) (w.extractLsb' 7 6) (w.extractLsb' 3 4) (w.extractLsb' 0 3)
  | 0x35 => .amo64 (w.extractLsb' 19 6) (w.extractLsb' 13 6) (w.extractLsb' 7 6) (w.extractLsb' 3 4) (w.extractLsb' 0 3)
  | 0x36 => .amos32 (w.extractLsb' 19 6) (w.extractLsb' 13 6) (w.extractLsb' 7 6) (w.extractLsb' 3 4) (w.extractLsb' 0 3)
  | 0x37 => .amos64 (w.extractLsb' 19 6) (w.extractLsb' 13 6) (w.extractLsb' 7 6) (w.extractLsb' 3 4) (w.extractLsb' 0 3)
  | 0x38 => .cas (w.extractLsb' 19 6) (w.extractLsb' 13 6) (w.extractLsb' 7 6) (w.extractLsb' 3 1) (w.extractLsb' 0 3)
  | 0x3A => .mark
  | 0x3B => .qfence (w.extractLsb' 0 9)
  | 0x40 => .pusht (w.extractLsb' 13 6) (w.extractLsb' 5 8) (w.extractLsb' 4 1) (w.extractLsb' 0 4)
  | 0x41 => .pushm (w.extractLsb' 13 6) (w.extractLsb' 8 3) (w.extractLsb' 0 8)
  | 0x42 => .pusho (w.extractLsb' 19 6) (w.extractLsb' 0 19)
  | 0x43 => .pushb (w.extractLsb' 0 19)
  | 0x44 => .pushv (w.extractLsb' 13 6) (w.extractLsb' 0 5)
  | 0x48 => .semwait (w.extractLsb' 16 1) (w.extractLsb' 8 8) (w.extractLsb' 0 8)
  | 0x49 => .semsig (w.extractLsb' 13 6) (w.extractLsb' 12 1) (w.extractLsb' 8 4) (w.extractLsb' 0 8)
  | 0x4A => .semrd (w.extractLsb' 19 6) (w.extractLsb' 0 8)
  | 0x4B => .seminit (w.extractLsb' 13 6) (w.extractLsb' 0 8)
  | 0x50 => .spawn (w.extractLsb' 13 6) (w.extractLsb' 7 6)
  | 0x51 => .uend
  | 0x52 => .park
  | 0x53 => .cbw (w.extractLsb' 13 6) (w.extractLsb' 0 12)
  | 0x54 => .strm (w.extractLsb' 13 6) (w.extractLsb' 6 2) (w.extractLsb' 0 6)
  | 0x60 => .trap (w.extractLsb' 0 13)
  | 0x61 => .eret
  | 0x62 => .csrr (w.extractLsb' 19 6) (w.extractLsb' 0 12)
  | 0x63 => .csrw (w.extractLsb' 13 6) (w.extractLsb' 0 12)
  | 0x64 => .rdtime (w.extractLsb' 19 6)
  | 0x65 => .wfe
  | 0x70 => .tlbkill (w.extractLsb' 13 6) (w.extractLsb' 0 1)
  | 0x71 => .tlbsync
  | 0x72 => .haltb (w.extractLsb' 13 6)
  | 0x73 => .krot (w.extractLsb' 13 6) (w.extractLsb' 7 6)
  | 0x74 => .scrub (w.extractLsb' 13 6)
  | _ => .unassignedControlWord w

/-- The control decoder: R68, check 1, then the row of R69 or R70. -/
def decode (w : Word32) : Instr :=
  if assigned w then decodeAssigned w else .unassignedControlWord w

/-- The words of a well-formed instruction (R66, R69, R70); an event has none and gives 0. -/
def encode : Instr → Word32
  | .add d a b => 0x1#7 ++ d ++ a ++ b ++ 0x0#7
  | .sub d a b => 0x1#7 ++ d ++ a ++ b ++ 0x1#7
  | .and d a b => 0x1#7 ++ d ++ a ++ b ++ 0x2#7
  | .or d a b => 0x1#7 ++ d ++ a ++ b ++ 0x3#7
  | .xor d a b => 0x1#7 ++ d ++ a ++ b ++ 0x4#7
  | .andn d a b => 0x1#7 ++ d ++ a ++ b ++ 0x5#7
  | .shl d a b => 0x1#7 ++ d ++ a ++ b ++ 0x6#7
  | .shr d a b => 0x1#7 ++ d ++ a ++ b ++ 0x7#7
  | .sra d a b => 0x1#7 ++ d ++ a ++ b ++ 0x8#7
  | .mul d a b => 0x1#7 ++ d ++ a ++ b ++ 0x9#7
  | .mulh d a b => 0x1#7 ++ d ++ a ++ b ++ 0xa#7
  | .mulhu d a b => 0x1#7 ++ d ++ a ++ b ++ 0xb#7
  | .div d a b => 0x1#7 ++ d ++ a ++ b ++ 0xc#7
  | .divu d a b => 0x1#7 ++ d ++ a ++ b ++ 0xd#7
  | .rem d a b => 0x1#7 ++ d ++ a ++ b ++ 0xe#7
  | .remu d a b => 0x1#7 ++ d ++ a ++ b ++ 0xf#7
  | .min d a b => 0x1#7 ++ d ++ a ++ b ++ 0x10#7
  | .max d a b => 0x1#7 ++ d ++ a ++ b ++ 0x11#7
  | .slt d a b => 0x1#7 ++ d ++ a ++ b ++ 0x12#7
  | .sltu d a b => 0x1#7 ++ d ++ a ++ b ++ 0x13#7
  | .seq d a b => 0x1#7 ++ d ++ a ++ b ++ 0x14#7
  | .cntlz d a => 0x1#7 ++ d ++ a ++ 0x15#13
  | .cntpop d a => 0x1#7 ++ d ++ a ++ 0x16#13
  | .addi d a i => 0x2#7 ++ d ++ a ++ i
  | .andi d a i => 0x3#7 ++ d ++ a ++ i
  | .ori d a i => 0x4#7 ++ d ++ a ++ i
  | .xori d a i => 0x5#7 ++ d ++ a ++ i
  | .shli d a s => 0x6#7 ++ d ++ a ++ 0x0#7 ++ s
  | .shri d a s => 0x7#7 ++ d ++ a ++ 0x0#7 ++ s
  | .srai d a s => 0x8#7 ++ d ++ a ++ 0x0#7 ++ s
  | .slti d a i => 0x9#7 ++ d ++ a ++ i
  | .extr d a l p => 0xa#7 ++ d ++ a ++ 0x0#1 ++ l ++ p
  | .extrz d a l p => 0xb#7 ++ d ++ a ++ 0x0#1 ++ l ++ p
  | .insr d a l p => 0xc#7 ++ d ++ a ++ 0x0#1 ++ l ++ p
  | .lui d i => 0xd#7 ++ d ++ i
  | .lcat d i => 0xe#7 ++ d ++ i
  | .beq a b o => 0x18#7 ++ a ++ b ++ o
  | .bne a b o => 0x19#7 ++ a ++ b ++ o
  | .blt a b o => 0x1a#7 ++ a ++ b ++ o
  | .bge a b o => 0x1b#7 ++ a ++ b ++ o
  | .bltu a b o => 0x1c#7 ++ a ++ b ++ o
  | .bgeu a b o => 0x1d#7 ++ a ++ b ++ o
  | .j o => 0x1e#7 ++ o
  | .jl o => 0x1f#7 ++ o
  | .jlr d a i => 0x20#7 ++ d ++ a ++ i
  | .ldS8 d a i => 0x28#7 ++ d ++ a ++ i
  | .ldZ8 d a i => 0x29#7 ++ d ++ a ++ i
  | .ldS16 d a i => 0x2a#7 ++ d ++ a ++ i
  | .ldZ16 d a i => 0x2b#7 ++ d ++ a ++ i
  | .ldS32 d a i => 0x2c#7 ++ d ++ a ++ i
  | .ldZ32 d a i => 0x2d#7 ++ d ++ a ++ i
  | .ld64 d a i => 0x2e#7 ++ d ++ a ++ i
  | .st8 d a i => 0x2f#7 ++ d ++ a ++ i
  | .st16 d a i => 0x30#7 ++ d ++ a ++ i
  | .st32 d a i => 0x31#7 ++ d ++ a ++ i
  | .st64 d a i => 0x32#7 ++ d ++ a ++ i
  | .amo32 d a b f s => 0x34#7 ++ d ++ a ++ b ++ f ++ s
  | .amo64 d a b f s => 0x35#7 ++ d ++ a ++ b ++ f ++ s
  | .amos32 d a b f s => 0x36#7 ++ d ++ a ++ b ++ f ++ s
  | .amos64 d a b f s => 0x37#7 ++ d ++ a ++ b ++ f ++ s
  | .cas d a b w s => 0x38#7 ++ d ++ a ++ b ++ 0x0#3 ++ w ++ s
  | .mark => 0x74000000#32
  | .qfence q => 0x3b0000#23 ++ q
  | .pusht a e c l => 0x1000#13 ++ a ++ e ++ c ++ l
  | .pushm a k c => 0x1040#13 ++ a ++ 0x0#2 ++ k ++ c
  | .pusho d t => 0x42#7 ++ d ++ t
  | .pushb t => 0x10c0#13 ++ t
  | .pushv a s => 0x1100#13 ++ a ++ 0x0#8 ++ s
  | .semwait c t s => 0x4800#15 ++ c ++ t ++ s
  | .semsig a f i s => 0x1240#13 ++ a ++ f ++ i ++ s
  | .semrd d s => 0x4a#7 ++ d ++ 0x0#11 ++ s
  | .seminit a s => 0x12c0#13 ++ a ++ 0x0#5 ++ s
  | .spawn a b => 0x1400#13 ++ a ++ b ++ 0x0#7
  | .uend => 0xa2000000#32
  | .park => 0xa4000000#32
  | .cbw a w => 0x14c0#13 ++ a ++ 0x0#1 ++ w
  | .strm a d p => 0x1500#13 ++ a ++ 0x0#5 ++ d ++ p
  | .trap c => 0x60000#19 ++ c
  | .eret => 0xc2000000#32
  | .csrr d c => 0x62#7 ++ d ++ 0x0#7 ++ c
  | .csrw a c => 0x18c0#13 ++ a ++ 0x0#1 ++ c
  | .rdtime d => 0x64#7 ++ d ++ 0x0#19
  | .wfe => 0xca000000#32
  | .tlbkill a r => 0x1c00#13 ++ a ++ 0x0#12 ++ r
  | .tlbsync => 0xe2000000#32
  | .haltb a => 0x1c80#13 ++ a ++ 0x0#13
  | .krot a b => 0x1cc0#13 ++ a ++ b ++ 0x0#7
  | .scrub a => 0x1d00#13 ++ a ++ 0x0#13
  | .unassignedControlWord w => w
  | _ => 0#32

/-- R14, R66: the instruction the decoder reads from a 32-bit word whose bits are `w`; the rows that are events have no
word. -/
def decodeTableWord (nbits w : Nat) : Option Instr :=
  if nbits = 32 then some (decode (BitVec.ofNat 32 w)) else none

end Sys2Proof
end

