-- ==== Sys2Proof/Config.lean ====
section
/-! DEFINITION. What is fixed for a part and what the manual leaves open. The opaque constants have no body: nothing can
be proved about their values, so a claim about the machine holds for every one of them. -/
namespace Sys2Proof.Config

/-! ## Free values, read with the state's counter `fresh` (log 4) -/

/-- A byte of host memory the part has not written (R259): the host's, free. -/
opaque freeHostByte : Nat → Byte
/-- A draw of the SCT's random source (R410, R413, R427). -/
opaque freeRandom : Nat → BitVec 256
/-- A result the manual gives an operation without stating its value. -/
opaque freeWord : Nat → Word
/-- Whether a tier H access of a cycle meets a refresh, and for how long (R365): at most 270 cycles. -/
opaque freeRefresh : Nat → Nat
/-- How long something takes to which the manual gives no time, such as a TLBKILL's removal (R136). -/
opaque freeDelay : Nat → Nat
/-- The cycles a way around failed die-to-die links takes more than the ordinary one: the links, the two dies (R297). -/
opaque freeDetour : List (Nat × Nat) → Nat → Nat → Nat

/-! ## What the manual leaves open of the standards it follows (R17) -/

/-- The public key whose SHA-256 is a signer's hash (R95): an image carries the hash only, and the manual does not say where
the part has the key from. -/
opaque signerKey : BitVec 256 → List Byte
/-- An SPDM signature under the key pair seeded from a key (R412, R425): how the seed is expanded and the signature's random
draw are open. -/
opaque slhSign : BitVec 256 → List Byte → List Byte
/-- The Reed–Solomon code of R389: which polynomial its field GF(2^8) has, which generator its points are the powers of, and
the power of it at which its roots begin. -/
opaque codePolynomial : Nat
opaque codeGenerator : Nat
opaque codeFirst : Nat
/-- What the controller's SPDM answers hold beside what the manual names (R425): the number of SLH-DSA-SHA2-128f among the
extended algorithms, the exponent of its cryptographic timeout, the sizes of its messages, and the head of a vendor's answer. -/
opaque spdmAlgorithm : Nat
opaque spdmTimeout : Nat
opaque spdmSize : Nat
opaque spdmVendor : List Byte
/-- Where the firmware region keeps the notify pages (R432), as a frame number of a stack. -/
opaque firmwareFrame : Nat

/-! ## What is fixed in a part: fuses, ROM and its certificates (R412, R426) -/

/-- The fused unique key HUK (R412). -/
opaque huk : BitVec 256
/-- SHA-256 of the SCT ROM, the SCT firmware, and the security fuses (R426). -/
opaque romDigest : BitVec 256
opaque firmwareDigest : BitVec 256
opaque fuseDigest : BitVec 256
/-- The fused hash of the microcode signer (R310, R426). -/
opaque microcodeSigner : BitVec 256
/-- The certificate chain of slot 0 (R425), in the form SPDM gives a chain. -/
opaque certChain : List Byte

/-! ## Constants of the manual used throughout -/

/-- Tiles of the package (R7). -/
abbrev tiles : Nat := 1024
/-- Dies of the package (R4). -/
abbrev dies : Nat := 16
/-- Half-cycle units of wall time in a tick: 1 tick = 22.5 cycles (R12). -/
abbrev unitsPerTick : Nat := 45
/-- Bytes of a scratchpad slice (R19). -/
abbrev spadBytes : Nat := 0x200000
/-- Bundle addresses of a tile (R19). -/
abbrev bundleUnits : Nat := 24576
/-- Control addresses of a sequencer (R19, R308). -/
abbrev ctlWords : Nat := 16384
/-- Cycles of a drain (R30, R416). -/
abbrev drainCycles : Nat := 2048
/-- The constant that replaces a zero SRSTATE (R27). -/
abbrev srZero : Word := 0x9E3779B97F4A7C15#64
/-- The DVA of the keeper operation block (R311). -/
abbrev keeperBlock : Nat := 0x00FFFFFFFFF00000

end Sys2Proof.Config
end

