-- ==== Sys2Proof/Machine/Numbers.lean ====
section
/-! DEFINITION. Numbers, rounding and the order of sums (chapter 02). Every result is an exact real, an `FVal`, taken
through `roundTo`; a result that is no dyadic rational (a quotient, a root, a special function) is represented by a
dyadic strictly inside the same rounding cell, at least 40 bits finer than any cell `roundTo` distinguishes. -/
namespace Sys2Proof.Machine
open Sys2Proof

/-! ## Formats (R41) -/

/-- A floating format of R41. -/
inductive Fmt where
  | fp32 | bf16 | fp16 | e4m3 | e5m2 | e3m2 | e2m3 | e2m1
  deriving DecidableEq, Repr

/-- Fraction bits. -/
def Fmt.fbits : Fmt → Nat
  | .fp32 => 23 | .bf16 => 7 | .fp16 => 10 | .e4m3 => 3 | .e5m2 => 2 | .e3m2 => 2 | .e2m3 => 3 | .e2m1 => 1

/-- Exponent bits. -/
def Fmt.ebits : Fmt → Nat
  | .fp32 => 8 | .bf16 => 8 | .fp16 => 5 | .e4m3 => 4 | .e5m2 => 5 | .e3m2 => 3 | .e2m3 => 2 | .e2m1 => 2

def Fmt.bias : Fmt → Nat
  | .fp32 => 127 | .bf16 => 127 | .fp16 => 15 | .e4m3 => 7 | .e5m2 => 15 | .e3m2 => 3 | .e2m3 => 1 | .e2m1 => 1

/-- Bits of an element. -/
def Fmt.width (f : Fmt) : Nat := 1 + f.ebits + f.fbits

/-- 1 − bias, the exponent of the smallest normal (R49). -/
def Fmt.emin (f : Fmt) : Int := 1 - (f.bias : Int)

/-- The encoding of the largest finite value. -/
def Fmt.maxCode : Fmt → Nat
  | .fp32 => 0x7F7FFFFF | .bf16 => 0x7F7F | .fp16 => 0x7BFF | .e4m3 => 0x7E | .e5m2 => 0x7B
  | .e3m2 => 0x1F | .e2m3 => 0x1F | .e2m1 => 0x7

/-- The encoding of +∞, where the format has one. -/
def Fmt.infCode : Fmt → Option Nat
  | .fp32 => some 0x7F800000 | .bf16 => some 0x7F80 | .fp16 => some 0x7C00 | .e5m2 => some 0x7C | _ => none

/-- The canonical NaN, where the format has one. -/
def Fmt.nanCode : Fmt → Option Nat
  | .fp32 => some 0x7FC00000 | .bf16 => some 0x7FC0 | .fp16 => some 0x7E00 | .e4m3 => some 0x7F
  | .e5m2 => some 0x7E | _ => none

/-- The sign bit of a format in place. -/
def Fmt.signBit (f : Fmt) : Nat := 2 ^ (f.ebits + f.fbits)

/-- The value an encoding holds (R41). -/
def Fmt.value (f : Fmt) (x : Nat) : FVal :=
  let neg := x / f.signBit % 2 == 1
  let mag := x % f.signBit
  let e := mag / 2 ^ f.fbits
  let fr := mag % 2 ^ f.fbits
  if f.infCode = some mag then .inf neg
  else if mag > f.maxCode ∧ f.nanCode.isSome then .nan
  else if e = 0 then .fin neg fr (f.emin - f.fbits)
  else .fin neg (fr + 2 ^ f.fbits) ((e : Int) - f.bias - f.fbits)

/-! ## Rounding (R48 to R51) -/

/-- The rounding modes of R48. -/
inductive RMode where
  | rne | rz | ru | rd | rs
  deriving DecidableEq, Repr

/-- The mode codes of R48; 5 to 7 are illegal. -/
def RMode.ofCode : Nat → Option RMode
  | 0 => some .rne | 1 => some .rz | 2 => some .ru | 3 => some .rd | 4 => some .rs | _ => none

/-- FFLAGS bits of R26: NV, DZ, OF, UF, NX. -/
abbrev flagNV : BitVec 5 := 16#5
abbrev flagDZ : BitVec 5 := 8#5
abbrev flagOF : BitVec 5 := 4#5
abbrev flagUF : BitVec 5 := 2#5
abbrev flagNX : BitVec 5 := 1#5

/-- How an operation rounds: its mode, `.SAT`, its bundle's FTZ and, under RS, the element's 16 bits (R49, R57). -/
structure RCtx where
  mode : RMode := .rne
  sat : Bool := false
  ftz : Bool := false
  rnd : Nat := 0
  deriving DecidableEq, Repr

/-- `up` of R49: whether a truncated magnitude `t` with remainder `rem` of `unit` rounds away from zero. -/
def roundsUp (c : RCtx) (neg : Bool) (t rem unit : Nat) : Bool :=
  match c.mode with
  | .rne => 2 * rem > unit || (2 * rem == unit && t % 2 == 1)
  | .rz => false
  | .ru => rem > 0 && !neg
  | .rd => rem > 0 && neg
  | .rs => rem * 2 ^ 16 / unit + c.rnd ≥ 2 ^ 16

/-- The encoding with a sign. -/
def Fmt.signed (f : Fmt) (neg : Bool) (code : Nat) : Nat := if neg then code + f.signBit else code

/-- `overflow(fmt, mode, sign)` of R51: the encoding. -/
def overflowCode (f : Fmt) (c : RCtx) (neg : Bool) : Nat :=
  let max := f.signed neg f.maxCode
  let away := match f.infCode, f.nanCode with
    | some i, _ => f.signed neg i
    | none, some n => n
    | none, none => max
  if c.sat then max else
  match c.mode with
  | .rne | .rs => away
  | .rz => max
  | .ru => if neg then max else away
  | .rd => if neg then away else max

/-- `round(x, fmt, mode)` of R49 with the flags of R58, FTZ of R57 applied to the result: the encoding and the flags. -/
def roundTo (f : Fmt) (c : RCtx) (x : FVal) : Nat × BitVec 5 :=
  match x with
  | .nan => (f.nanCode.getD 0, 0#5)
  | .inf neg =>
    match f.infCode, c.sat with
    | some i, false => (f.signed neg i, 0#5)
    | _, _ => (overflowCode f c neg, flagOF ||| flagNX)
  | .fin neg 0 _ => (f.signed neg 0, 0#5)
  | .fin neg m e =>
    let lg : Int := (Nat.log2 m : Int) + e
    let ex := if lg < f.emin then f.emin else lg
    let s := ex - f.fbits - e
    let t := if s ≤ 0 then m * 2 ^ (-s).toNat else m / 2 ^ s.toNat
    let unit := if s ≤ 0 then 1 else 2 ^ s.toNat
    let rem := if s ≤ 0 then 0 else m % 2 ^ s.toNat
    let t' := if roundsUp c neg t rem unit then t + 1 else t
    let code := (ex - f.emin).toNat * 2 ^ f.fbits + t'
    if code > f.maxCode then (overflowCode f c neg, flagOF ||| flagNX)
    else if c.ftz && code < 2 ^ f.fbits then (f.signed neg 0, flagUF ||| flagNX)
    else if rem = 0 then (f.signed neg code, 0#5)
    else (f.signed neg code, if code < 2 ^ f.fbits then flagUF ||| flagNX else flagNX)

/-- An input under FTZ: a subnormal is read as a zero of its sign, for the formats R57 names. -/
def ftzIn (f : Fmt) (ftz : Bool) (x : FVal) : FVal :=
  match x, ftz with
  | .fin neg m e, true => if (Nat.log2 m : Int) + e < f.emin then .fin neg 0 0 else .fin neg m e
  | v, _ => v

/-! ## Integers (R46, R53, R60) -/

/-- The least and greatest values of an n-bit type. -/
def intMin (signed : Bool) (n : Nat) : Int := if signed then -(2 ^ (n - 1) : Int) else 0
def intMax (signed : Bool) (n : Nat) : Int := if signed then (2 ^ (n - 1) : Int) - 1 else (2 ^ n : Int) - 1

/-- `sat(x, type)` of R60 for an integer type. -/
def satInt (signed : Bool) (n : Nat) (x : Int) : Int :=
  if x < intMin signed n then intMin signed n else if x > intMax signed n then intMax signed n else x

/-- The n bits of an integer, wrapped (R46). -/
abbrev wrapInt (n : Nat) (x : Int) : Nat := (x % (2 ^ n : Int)).toNat

/-- An n-bit pattern as an integer of its type. -/
def asInt (signed : Bool) (n x : Nat) : Int :=
  let y := x % 2 ^ n
  if signed && y ≥ 2 ^ (n - 1) then (y : Int) - (2 ^ n : Int) else y

/-- A floating value to an integer type (R53): the integer and the flags. -/
def toInteger (signed : Bool) (n : Nat) (c : RCtx) (x : FVal) : Int × BitVec 5 :=
  match x with
  | .nan => (0, flagNV)
  | .inf neg => (if neg then intMin signed n else intMax signed n, flagNV)
  | .fin neg m e =>
    let t := if e ≥ 0 then m * 2 ^ e.toNat else m / 2 ^ (-e).toNat
    let unit := if e ≥ 0 then 1 else 2 ^ (-e).toNat
    let rem := if e ≥ 0 then 0 else m % 2 ^ (-e).toNat
    let r : Int := if roundsUp c neg t rem unit then t + 1 else t
    let r := if neg then -r else r
    if r < intMin signed n ∨ r > intMax signed n then (satInt signed n r, flagNV)
    else (r, if rem = 0 then 0#5 else flagNX)

/-- An integer as an exact real. -/
def ofInteger (x : Int) : FVal := .fin (x < 0) x.natAbs 0

/-! ## Exact arithmetic -/

/-- The value with the other sign; a NaN has none (R42). -/
def FVal.negate : FVal → FVal
  | .nan => .nan
  | .inf n => .inf (!n)
  | .fin n m e => .fin (!n) m e

/-- The value with a given sign. -/
def FVal.withSign (neg : Bool) : FVal → FVal
  | .nan => .nan
  | .inf _ => .inf neg
  | .fin _ m e => .fin neg m e

def FVal.isNan : FVal → Bool
  | .nan => true
  | _ => false

def FVal.sign : FVal → Bool
  | .nan => false
  | .inf n => n
  | .fin n _ _ => n

def FVal.isZero : FVal → Bool
  | .fin _ 0 _ => true
  | _ => false

/-- An exact product and whether it is invalid, 0 × ∞ (R58). -/
def fmulExact (x y : FVal) : FVal × Bool :=
  match x, y with
  | .nan, _ => (.nan, false)
  | _, .nan => (.nan, false)
  | .inf s, .inf t => (.inf (s != t), false)
  | .inf s, .fin t m _ => if m = 0 then (.nan, true) else (.inf (s != t), false)
  | .fin s m _, .inf t => if m = 0 then (.nan, true) else (.inf (s != t), false)
  | .fin s m e, .fin t n f => (.fin (s != t) (m * n) (e + f), false)

/-- The least exponent of a list of finite values. -/
def minExp : List FVal → Option Int
  | [] => none
  | .fin _ (_ + 1) e :: t => match minExp t with
    | none => some e
    | some f => some (if e < f then e else f)
  | _ :: t => minExp t

/-- The sum of finite values in units of 2^e. -/
def sumAt (e : Int) : List FVal → Int
  | [] => 0
  | .fin neg m f :: t => (if neg then -1 else 1) * ((m * 2 ^ (f - e).toNat : Nat) : Int) + sumAt e t
  | _ :: t => sumAt e t

/-- An exact sum (R43, R58, R62, R63) and whether it is invalid, ∞ − ∞. `rd` says that the rounding is toward −∞, which
gives an exact zero sum its sign. A sum that holds a NaN beside both infinities is the NaN and is not invalid: DESIGN CHOICE
(log 98). Terms that are all −0, be they two or more, sum to −0, as R43 has it for two: DEDUCED (log 131). -/
def sumExact (rd : Bool) (xs : List FVal) : FVal × Bool :=
  if xs.any FVal.isNan then (.nan, false)
  else
    let pos := xs.any (· = .inf false)
    let neg := xs.any (· = .inf true)
    if pos && neg then (.nan, true)
    else if pos then (.inf false, false)
    else if neg then (.inf true, false)
    else
      match minExp xs with
      | none =>
        if xs.all FVal.sign then (.fin true 0 0, false)
        else if xs.any FVal.sign then (.fin rd 0 0, false) else (.fin false 0 0, false)
      | some e =>
        let s := sumAt e xs
        if s = 0 then (.fin rd 0 0, false) else (.fin (s < 0) s.natAbs e, false)

/-- first < second, −0 and +0 equal; false with a NaN (R155). -/
def FVal.lt (x y : FVal) : Bool :=
  match x, y with
  | .nan, _ => false
  | _, .nan => false
  | .inf s, .inf t => s && !t
  | .inf s, .fin _ _ _ => s
  | .fin _ _ _, .inf t => !t
  | .fin s m e, .fin t n f =>
    let d := if e < f then e else f
    (sumAt d [.fin s m e]) < (sumAt d [.fin t n f])

def FVal.eq (x y : FVal) : Bool := !x.isNan && !y.isNan && !x.lt y && !y.lt x

/-- minimumNumber, or maximumNumber when `max` (R59). -/
def minMaxNumber (max : Bool) (x y : FVal) : FVal :=
  if x.isNan then y else if y.isNan then x
  else if x.isZero && y.isZero then (if x.sign == max then y else x)
  else if x.lt y == max then (if x.eq y then x else y) else x

/-! ## Quotients, roots and special functions (R158) -/

/-- A dyadic strictly between q × 2^e and (q + 1) × 2^e. -/
abbrev inside (q : Nat) (e : Int) : FVal := .fin false (2 * q + 1) (e - 1)

/-- floor of the square root, bit by bit from bit `k`. -/
def isqrtFrom (n : Nat) : Nat → Nat → Nat
  | 0, r => if (r + 1) * (r + 1) ≤ n then r + 1 else r
  | k + 1, r => isqrtFrom n k (if (r + 2 ^ (k + 1)) * (r + 2 ^ (k + 1)) ≤ n then r + 2 ^ (k + 1) else r)

def isqrt (n : Nat) : Nat := isqrtFrom n (Nat.log2 n / 2 + 1) 0

/-- 1 / (m × 2^e) for m > 0. -/
def recipExact (m : Nat) (e : Int) : FVal :=
  let k := 2 * Nat.log2 m + 96
  let q := 2 ^ k / m
  if q * m = 2 ^ k then .fin false q (-e - k) else inside q (-e - k)

/-- The root of m × 2^e. -/
def sqrtExact (m : Nat) (e : Int) : FVal :=
  let (m, e) := if e % 2 = 0 then (m, e) else (2 * m, e - 1)
  let s := isqrt (m * 2 ^ 160)
  if s * s = m * 2 ^ 160 then .fin false s (e / 2 - 80) else inside s (e / 2 - 80)

/-- The reciprocal root of m × 2^e for m > 0. -/
def rsqrtExact (m : Nat) (e : Int) : FVal :=
  let (m, e) := if e % 2 = 0 then (m, e) else (2 * m, e - 1)
  let k := 2 * (Nat.log2 m + 90)
  let s := isqrt (2 ^ k / m)
  if m * (s * s) = 2 ^ k then .fin false s (-(e / 2) - (k / 2 : Nat)) else inside s (-(e / 2) - (k / 2 : Nat))

/-- Fixed-point precision of the series below. -/
abbrev fxP : Nat := 320
abbrev fxOne : Nat := 2 ^ fxP

/-- Σ z^(2k+1) / (2k+1) from term `t = z^(2k+1)`, fixed point: atanh z, or atan z with alternating signs. -/
def atanhSum (z2 : Nat) : Nat → Nat → Nat → Nat
  | 0, _, _ => 0
  | n + 1, t, d => t / d + atanhSum z2 n (t * z2 / fxOne) (d + 2)

/-- atanh of a fixed-point z no greater than 1/3. -/
def atanhFx (z : Nat) : Nat := atanhSum (z * z / fxOne) 110 z 1

/-- ln 2 = 2 atanh(1/3). -/
def ln2Fx : Nat := 2 * atanhFx (fxOne / 3)

/-- Σ z^k / k! for a fixed-point z below 1. -/
def expSum (z : Nat) : Nat → Nat → Nat → Nat
  | 0, _, _ => 0
  | n + 1, t, k => t + expSum z n (t * z / fxOne / k) (k + 1)

def expFx (z : Nat) : Nat := expSum z 80 fxOne 1

/-- A positive fixed-point value as a dyadic strictly inside its cell: the 130 leading bits are kept. -/
def fromFx (x : Nat) (p : Nat) (scale : Int) : FVal :=
  let cut := Nat.log2 x - 130
  inside (x / 2 ^ cut) (scale - p + cut)

/-- 2^x for x = ±m × 2^e, not an integer unless exact (R158). -/
def exp2Exact (neg : Bool) (m : Nat) (e : Int) : FVal :=
  if (Nat.log2 m : Int) + e ≥ 11 then (if neg then .fin false 1 (-2000) else .fin false 3 2000)
  else if e ≥ 0 then
    let n : Int := (m * 2 ^ e.toNat : Nat)
    .fin false 1 (if neg then -n else n)
  else
    let k := (-e).toNat
    if m % 2 ^ k = 0 then .fin false 1 (if neg then -((m / 2 ^ k : Nat) : Int) else (m / 2 ^ k : Nat))
    else if (Nat.log2 m : Int) + e < -100 then
      (if neg then .fin false (2 ^ 100 - 1) (-100) else .fin false (2 ^ 100 + 1) (-100))
    else
      let fl : Int := if neg then -((m / 2 ^ k : Nat) : Int) - 1 else (m / 2 ^ k : Nat)
      let fr := if neg then 2 ^ k - m % 2 ^ k else m % 2 ^ k
      fromFx (expFx (fr * ln2Fx / 2 ^ k)) fxP fl

/-- log2 of m × 2^e for m > 0. -/
def log2Exact (m : Nat) (e : Int) : FVal :=
  let l := Nat.log2 m
  let n : Int := (l : Int) + e
  if m = 2 ^ l then ofInteger n
  else
    let fr := m - 2 ^ l                          -- value is 2^n (1 + fr / 2^l)
    let z := fr * fxOne / (2 ^ (l + 1) + fr)
    let lg := 2 * atanhFx z * fxOne / ln2Fx      -- log2 of the significand, below 1
    if n ≥ 0 then fromFx (n.toNat * fxOne + lg) fxP 0
    else (fromFx ((-n).toNat * fxOne - lg) fxP 0).withSign true

/-- tanh of m × 2^e for m > 0. -/
def tanhExact (m : Nat) (e : Int) : FVal :=
  let lg := (Nat.log2 m : Int) + e
  if lg < -60 then .fin false (m * 2 ^ 64 - 1) (e - 64)
  else if lg ≥ 6 then .fin false (2 ^ 100 - 1) (-100)
  else
    let y := if e ≥ 0 then 2 * m * 2 ^ e.toNat * fxOne else 2 * m * fxOne / 2 ^ (-e).toNat
    let k := y / ln2Fx
    let ex := expFx (y % ln2Fx) * 2 ^ k
    fromFx ((ex - fxOne) * fxOne / (ex + fxOne)) fxP 0

/-- π to 640 fixed-point bits by Machin's formula. -/
def atanInv (n : Nat) : Nat → Nat → Nat → Bool → Int
  | 0, _, _, _ => 0
  | k + 1, t, d, neg => (if neg then -((t / d : Nat) : Int) else (t / d : Nat)) + atanInv n k (t / (n * n)) (d + 2) (!neg)

def piFx640 : Nat :=
  (16 * atanInv 5 150 (2 ^ 640 / 5) 1 false - 4 * atanInv 239 60 (2 ^ 640 / 239) 1 false).toNat

/-- Σ of the sine series with alternating signs, fixed point at 480 bits. -/
def sinSum (z2 : Nat) : Nat → Nat → Nat → Bool → Int
  | 0, _, _, _ => 0
  | n + 1, t, k, neg =>
    (if neg then -(t : Int) else t) + sinSum z2 n (t * z2 / 2 ^ 480 / ((k + 1) * (k + 2))) (k + 2) (!neg)

/-- sin of m × 2^e for m > 0. -/
def sinExact (m : Nat) (e : Int) : FVal :=
  if (Nat.log2 m : Int) + e < -60 then .fin false (m * 2 ^ 64 - 1) (e - 64)
  else
    let x := if e ≥ 0 then m * 2 ^ e.toNat * 2 ^ 640 else m * 2 ^ 640 / 2 ^ (-e).toNat
    let r := x % (2 * piFx640)
    let neg := r ≥ piFx640
    let r := if neg then r - piFx640 else r
    let r := if 2 * r > piFx640 then piFx640 - r else r      -- sin(π − r) = sin r
    let z := r / 2 ^ 160
    let s := sinSum (z * z / 2 ^ 480) 90 z 1 false
    (fromFx s.toNat 480 0).withSign neg

/-! ## Literals, scales and MX blocks (R44, R45, R47) -/

/-- The compact floating literal of R47. -/
def literalValue (l : BitVec 12) : FVal :=
  let x := l.toNat
  let neg := x / 2048 == 1
  let e := x / 128 % 16
  let f := x % 128
  if e = 0 then .fin neg f (-13)
  else if e = 15 then (if f = 0 then .inf neg else .nan)
  else .fin neg (128 + f) ((e : Int) - 14)

/-- value × 2^k. -/
def FVal.scale (k : Int) : FVal → FVal
  | .fin n m e => .fin n m (e + k)
  | v => v

/-- An MX element under its block's scale byte (R44). -/
def mxValue (f : Fmt) (scale code : Nat) : FVal :=
  if scale = 0xFF then .nan else (f.value code).scale ((scale : Int) - 127)

/-- floor(log2 |x|) of a finite non-zero value. -/
def FVal.lg : FVal → Int
  | .fin _ m e => (Nat.log2 m : Int) + e
  | _ => 0

/-- emax of R45. -/
def mxEmax : Fmt → Int
  | .e2m1 => 2 | .e2m3 => 2 | .e3m2 => 4 | .e4m3 => 8 | .e5m2 => 15 | _ => 0

/-- The scale exponent R45 chooses for values that are all finite and not all zero. -/
def mxExponent (f : Fmt) (xs : List FVal) : Int :=
  let nz := xs.filter (!·.isZero)
  let top := nz.foldl (fun m v => if v.lg > m then v.lg else m) (-100000)
  let x := top - mxEmax f
  if x < -127 then -127 else if x > 127 then 127 else x

/-- MXQ (R45): the scale byte, the elements and the flags; `rnds` are the elements' pieces under RS. -/
def mxQuantise (f : Fmt) (c : RCtx) (rnds : List Nat) (xs : List FVal) : Nat × List Nat × BitVec 5 :=
  if xs.any (fun v => match v with | .fin _ _ _ => false | _ => true) then (0xFF, xs.map fun _ => 0, flagNV)
  else if xs.all FVal.isZero then (0, xs.map fun v => f.signed v.sign 0, 0#5)
  else
    let x := mxExponent f xs
    let rs := (xs.zip rnds).map fun (v, r) => roundTo f { c with sat := true, ftz := false, rnd := r } (v.scale (-x))
    ((x + 127).toNat, rs.map Prod.fst, rs.foldl (fun a r => a ||| r.2) 0#5)

/-! ## Random bits (R27, R52, R55) -/

/-- R27: a zero is replaced. -/
def srFix (x : Word) : Word := if x = 0#64 then Config.srZero else x

/-- One xorshift64 step (R52). -/
def xsStep (x : Word) : Word :=
  let x := x ^^^ (x <<< 13)
  let x := x ^^^ (x >>> 7)
  x ^^^ (x <<< 17)

/-- `rs_bits` by `n` steps (R52): the bits, first step lowest, and the state left. -/
def rsBits : Nat → Word → Nat × Word
  | 0, x => (0, x)
  | n + 1, x =>
    let y := xsStep x
    let (b, z) := rsBits n y
    (y.toNat + 2 ^ 64 * b, z)

/-- The j-th 16-bit piece (R53). -/
abbrev piece (bits j : Nat) : Nat := bits / 2 ^ (16 * j) % 2 ^ 16

/-- `seed(LSEED, UNITIDX, c)` of R55. -/
def seedOf (ls : Word) (ui c : Nat) : Word :=
  let z := ls + BitVec.ofNat 64 (ui * 8 + c + 1) * 0x9E3779B97F4A7C15#64
  let z := (z ^^^ (z >>> 30)) * 0xBF58476D1CE4E5B9#64
  let z := (z ^^^ (z >>> 27)) * 0x94D049BB133111EB#64
  srFix (z ^^^ (z >>> 31))

/-! ## Atomic functions (R71, R110) -/

/-- The new value of an atomic of `w` bits. -/
def amoNew (fn w old v : Nat) : Nat :=
  match fn with
  | 0 => (old + v) % 2 ^ w
  | 1 => old &&& v
  | 2 => old ||| v
  | 3 => old ^^^ v
  | 4 => if asInt true w v < asInt true w old then v else old
  | 5 => if asInt true w v > asInt true w old then v else old
  | 6 => if v < old then v else old
  | 7 => if v > old then v else old
  | _ => v

/-! ## Matrix sums (R62) -/

/-- One accumulator element after a group: `round(acc + S, FP32, RNE)`, no flag (R62). -/
def mmaRound (acc : Word32) (products : List FVal) : Word32 :=
  let s := (sumExact false products).1
  BitVec.ofNat 32 (roundTo .fp32 {} (sumExact false [Fmt.fp32.value acc.toNat, s]).1).1

end Sys2Proof.Machine
end

