-- ==== Sys2Proof/Machine/NMap.lean ====
section
/-! DEFINITION. Sparse storage: a list of (index, value) pairs in one canonical form, indices strictly rising and no
entry equal to what an unlisted index reads as. Scratchpad, register files and memory are held so. -/
namespace Sys2Proof

/-- Sparse storage; see `NMap.get` for what an unlisted index reads as. -/
abbrev NMap (α : Type) := List (Nat × α)

namespace NMap
variable {α : Type}

/-- The entry listed for `k`, if any. -/
def find? (m : NMap α) (k : Nat) : Option α :=
  match m with
  | [] => none
  | (j, v) :: t => if j = k then some v else NMap.find? t k

/-- What index `k` reads as: its entry, or `d`. -/
def get (d : α) (m : NMap α) (k : Nat) : α := (m.find? k).getD d

/-- Put an entry in its place in the rising order. -/
def insert (m : NMap α) (k : Nat) (v : α) : NMap α :=
  match m with
  | [] => [(k, v)]
  | (j, w) :: t =>
    if k < j then (k, v) :: (j, w) :: t
    else if j = k then (k, v) :: t
    else (j, w) :: NMap.insert t k v

/-- Remove every entry of index `k`. -/
def erase (m : NMap α) (k : Nat) : NMap α := m.filter fun e => e.1 != k

/-- Write `v` at `k`, keeping the canonical form: writing what an unlisted index reads as removes the entry. -/
def set [DecidableEq α] (d : α) (m : NMap α) (k : Nat) (v : α) : NMap α :=
  if v = d then m.erase k else m.insert k v

/-- The canonical form. -/
def wf [DecidableEq α] (d : α) (m : NMap α) : Bool :=
  (m.map Prod.fst).Pairwise (· < ·) ∧ ∀ e ∈ m, e.2 ≠ d

end NMap
end Sys2Proof
end

