-- ==== Sys2Proof/Machine/TileState.lean ====
section
/-! DEFINITION. The state of a control sequencer and of a tile (chapters 01, 04, 06, 08, 10), as plain data. A default
value is the value of a drained tile (R30, R416). Due times are core cycles of the package counter, and offsets from the
freeze while the tile is frozen (R233). -/
namespace Sys2Proof.Machine
open Sys2Proof

/-! ## Control sequencer -/

/-- The translation context an access captures when it issues (R35, R37). -/
structure TransCtx where
  hwbase : Word := 0#64
  hwlimit : Word := 0#64
  hwoffset : Word := 0#64
  hwkey : BitVec 8 := 0#8
  asid : BitVec 16 := 0#16
  ptroot : Word := 0#64
  world : BitVec 8 := 0#8
  deriving DecidableEq, Repr

/-- The control registers of R35 but those held elsewhere: PTILE is the tile's index, CQCNT the queue's length. -/
structure Csr where
  ltile : BitVec 10 := 0#10
  teamsz : BitVec 11 := 0#11
  unitidx : Word32 := 0#32
  mode : BitVec 2 := 0#2
  args : NMap Word := []            -- ARG0 to ARG7
  evec : BitVec 14 := 0#14
  epc : BitVec 14 := 0#14
  epcPast : Bool := false           -- EPC is 16 384, the word after the last (R130, R131; log 104)
  ebaddr : BitVec 20 := 0#20
  ecause : BitVec 16 := 0#16
  eaddr : Word := 0#64
  estatus : BitVec 2 := 0#2
  ctx : TransCtx := {}              -- HWBASE to PTROOT, and WORLD
  cycle : Word := 0#64
  bndret : Word := 0#64
  stalls : Word := 0#64
  fflags : NMap (BitVec 5) := []    -- FFLAGS0 to FFLAGS7
  srstate : NMap Word := []         -- SRSTATE0 to SRSTATE7
  mprog : Word := 0#64
  lspext : BitVec 22 := 0#22
  wdlimit : Word32 := 0#32
  lseed : Word := 0#64
  ltte : NMap (BitVec 16) := []     -- LTTE0 to LTTE1023
  deriving DecidableEq, Repr

/-- What a Q0, Q1 or Q2 access does (R107, R110 to R112). -/
inductive AccKind where
  | load (signed : Bool)
  | store
  | amo (fn : Nat)
  | amos (fn : Nat)
  | cas
  deriving DecidableEq, Repr

/-- Where an access stands on its way to its home (R99, R258, R349). -/
inductive AccStage where
  | translating                -- a page walk or an answer of the host is awaited (R349, R353)
  | timed                      -- performs at `performAt`
  | sent                       -- travels as fabric messages (R387)
  | held (slot : Nat)          -- waits on a line in motion (R359)
  | signalling                 -- an AMOS has performed; its signal fires at `performAt` (R112, R263)
  | lost                       -- its packet has been discarded (R417)
  deriving DecidableEq, Repr

/-- A physical target (R259): a tile's slice, a byte of a memory tier, a host byte, a peer frame, or a register of the
keeper operation block (R311). -/
inductive Target where
  | spad (t off : Nat)
  | mem (pa : Nat)
  | host (addr : Nat)
  | peer (pkg pa : Nat)
  | reg (off : Nat)
  deriving DecidableEq, Repr

/-- What a translation gives an access besides its target (R343, R345). -/
structure PageAttr where
  keyId : Nat := 0
  typ : Nat := 0               -- 0 normal, 1 write-combining, 2 device, 3 strongly ordered (R268)
  sa : Bool := false
  a : Bool := true
  r : Bool := true
  w : Bool := true
  deriving DecidableEq, Repr

/-- The part of an access that lies in one line (R108). -/
structure AccPart where
  addr : Nat
  len : Nat
  tgt : Option Target := none            -- once translated
  attr : PageAttr := {}
  got : Option (List Byte) := none       -- what a peer has answered (R400)
  deriving DecidableEq, Repr

/-- A fence's snapshot of the operations before it (R115, R215). -/
structure FenceSnap where
  cycle : Nat                  -- when it was taken
  acc : Nat                    -- CSQ accesses numbered below this
  order : Nat                  -- slot issues ordered below this
  c0 : Nat                     -- command serials below these
  c1 : Nat
  m : Nat
  deriving DecidableEq, Repr

/-- An access of a CSQ that has issued and not yet finished. -/
structure Acc where
  id : Nat
  q : Nat                      -- queue: 0, 1 or 2
  kind : AccKind
  addr : Word
  width : Nat                  -- bytes
  rd : Nat
  data : Word := 0#64
  cmp : Word := 0#64           -- CAS: the comparand; AMOS: the signal word
  scope : Nat := 0
  pc : Nat
  ctx : TransCtx := {}
  parts : List AccPart := []
  stage : AccStage := .timed
  mark : Nat := 0              -- accesses of the other of Q0 and Q1 below this come first (R114)
  before : Option FenceSnap := none  -- strongly ordered: what must have performed (R268)
  issuedAt : Nat
  performAt : Nat := 0
  readyAt : Nat := 0
  performed : Bool := false
  fault : Option (Nat × Word) := none   -- code and address, waiting for a gate (R99)
  deriving DecidableEq, Repr

/-- Whose write a combining buffer holds: a CSQ store by number, or a copy command by serial and element. -/
structure WcSrc where
  who : Nat := 0
  elem : Nat := 0
  pc : Nat := 0                -- word address of the store
  addr : Word := 0#64
  since : Nat := 0             -- the cycle of its issue, or of its line request
  deriving DecidableEq, Repr

/-- A line of a combining buffer (R268). -/
structure WcLine where
  id : Nat := 0
  q : Nat
  world : Nat := 0
  asid : Nat := 0
  src : WcSrc := {}            -- its first write
  flushing : Bool := false     -- its flush point has come; it waits on a line in motion (R359) or on a peer (R387)
  sent : Nat := 0              -- messages to a peer still to be answered
  tgt : Target                 -- of the line's first byte
  keyId : Nat
  bytes : List (Nat × Byte)    -- by offset in the line
  bad : List Nat := []         -- offsets whose bytes a poisoned line gave (R205)
  deriving DecidableEq, Repr

/-- A control sequencer (R97, R308). -/
structure Seq where
  on : Bool := false                 -- it runs a unit (a tile) or its microcode (a keeper sequencer)
  g : NMap Word := []
  ready : NMap Nat := []             -- the cycle from which a g register's due result is readable
  pc : Nat := 0
  issueAt : Nat := 0
  waitFrom : Option Nat := none      -- the wall time the current wait began at; it stands over a stop (R141, R326, R372)
  csr : Csr := {}
  prog : NMap Word32 := []           -- control program memory
  accs : List Acc := []
  nextAcc : Nat := 0
  mark : Nat := 0                    -- `nextAcc` at the last MARK (R114)
  fence : Option FenceSnap := none   -- a QFENCE that has begun its wait (R115)
  strmUntil : Option Nat := none     -- a STRM whose wait has ended performs in this cycle (R128)
  endAt : Option Nat := none         -- the wait of a UEND or PARK has ended; its unit reports in this cycle (R125)
  spawnWait : Bool := false
  deriving DecidableEq, Repr

/-! ## Bundle sequencer -/

/-- An entry of the CQ (R84) with the cycle of its push (R117) and the CSQ's position at that push (R215). -/
structure CqEnt where
  w : Word
  pushedAt : Nat
  pos : Nat
  deriving DecidableEq, Repr

/-- A level of the loop stack (R222). -/
structure Loop where
  rem : Nat
  iter : Nat
  start : Nat
  epi : Nat
  clamp : Bool
  loopId : Nat
  curcyc : Nat := 0
  lastcyc : Nat := 0
  deriving DecidableEq, Repr

/-- A sticky syllable with its stepped addresses (R226, R326). -/
structure SlotSt where
  syl : Word
  ea : Word := 0#64            -- VLD, VST; the M slot's a, or ACCMV's row
  b : Word := 0#64
  al : Word := 0#64
  be : Word := 0#64
  deriving DecidableEq, Repr

/-- Where a slot result is due (R143, R145). Lanes and bits are masks. -/
inductive ResTgt where
  | sreg (n : Nat)
  | vreg (name : Nat) (lanes : BitVec 16)
  | kreg (idx : Nat) (bits : BitVec 16)
  | push (port : Nat) (lanes : BitVec 16)
  | none
  deriving DecidableEq, Repr

/-- A result of an earlier issue that has not been written (R143, R233, R245). -/
structure PendRes where
  tgt : ResTgt
  data : Line := 0#512
  cluster : Nat := 0
  flags : BitVec 5 := 0#5
  due : Nat                    -- native cycle; an offset while frozen
  refDue : Nat                 -- reference due (R245)
  order : Nat                  -- issue order, then slot order
  deriving DecidableEq, Repr

/-- One write of a store or one VAMO, as the slot issued it: (offset, bytes) pairs, or atomics (R177, R442). -/
inductive SlotStore where
  | write (bytes : List (Nat × Byte)) (fullLine : Option Nat)
  | vamo (fn cluster : Nat) (dest : ResTgt) (lanes : List (Nat × Nat × Word32))   -- lane, offset, operand
  deriving DecidableEq, Repr

/-- A slot store on its way to the port (R442). -/
structure PendStore where
  st : SlotStore
  due : Nat                    -- cycle, or ρ under profile 4 (R247)
  order : Nat
  resDue : Nat := 0            -- VAMO: when its result is due
  resRef : Nat := 0
  deriving DecidableEq, Repr

/-- A store of profile 4 that performed in a freeze before ρ reached its due: loads of its cluster issued until then read
the bytes it replaced (R179, R247). -/
structure Shadow where
  cluster : Option Nat         -- none for the S slot
  due : Nat
  old : List (Nat × Byte)
  deriving DecidableEq, Repr

/-- A record of the retention window (R231). -/
structure Retire where
  due : Nat
  cq : List CqEnt
  pops : NMap Nat              -- pops per stream port
  resv : NMap Nat              -- reservations per stream port
  halt : Bool
  deriving DecidableEq, Repr

/-- What stopped the tile (R233), and who ends the freeze. -/
inductive FreezeKind where
  | handler                    -- a fault or TRAP in S at EVEC; ERET ends it
  | keeper                     -- a fault the keeper took, or a halt broadcast
  | save                       -- a save (R324)
  deriving DecidableEq, Repr

/-- An open freeze: the cycle f and what ends it. -/
structure Freeze where
  since : Nat
  wall : Nat := 0              -- the wall time of f
  kind : FreezeKind
  resumeAt : Option Nat := none
  handler : Bool := false      -- it was a handler's when a save took it over: it goes back to the handler (R328)
  deriving DecidableEq, Repr

/-- The bundle sequencer (R220 to R238). -/
structure Bsq where
  pc : Nat := 0
  issued : Nat := 0                  -- issues already made of the execution
  first : Bool := true               -- the first issue is pending
  done : Bool := false               -- the HALT execution's last issue is made
  haltRetired : Bool := false
  flowEnt : Word := 0#64             -- the entry FLOW popped, until the flow action (R220)
  skip : Option Nat := none          -- depth, in skip mode (R224)
  cq : List CqEnt := []
  cqRead : Nat := 0                  -- ring position of the oldest entry (R326, R445)
  popPos : Nat := 0                  -- CSQ position at the last push popped (R215)
  loops : List Loop := []            -- innermost first
  slots : NMap SlotSt := []
  pend : List PendRes := []
  resNow : List (PendRes × PendRes) := []  -- results written in this cycle, and what each wrote over
  stores : List PendStore := []
  shadows : List Shadow := []        -- profile 4: bytes that stores performed in a freeze have replaced (R247)
  window : List Retire := []
  nextOrder : Nat := 0
  rho : Nat := 0
  profile4 : Bool := false
  rhoHeld : Bool := false            -- this cycle stalls for the profile-4 interlock (R245)
  issuedNow : Bool := false          -- a bundle issued in this cycle
  stallFrom : Option Nat := none     -- the wall time the current run of stall cycles began at (R372)
  portLines : Nat := 0               -- lines the vector slots accessed in this cycle
  portPrev : Nat := 0                -- and in the previous one (R197)
  deriving DecidableEq, Repr

/-! ## Stream ports -/

/-- Four numbers, dimension 0 innermost (R25, R87). -/
structure Dims where
  d0 : Int := 0
  d1 : Int := 0
  d2 : Int := 0
  d3 : Int := 0
  deriving DecidableEq, Repr

/-- A buffered stream element (R25, R228, R229). -/
structure Elem where
  off : Nat                    -- its scratchpad offset
  data : Line := 0#512
  lanes : BitVec 16 := 0xFFFF#16
  poison : Bool := false
  readyAt : Nat := 0           -- read: poppable; write: written to scratchpad
  ready : Bool := false
  popped : Bool := false       -- retained by an issue in the window
  order : Nat := 0             -- write: of the slot issue that pushes it
  deriving DecidableEq, Repr

/-- A stream port (R24, R25). -/
structure Port where
  bound : Bool := false
  write : Bool := false
  base : Nat := 0
  cnt : Dims := {}
  str : Dims := {}
  next : Nat := 0              -- the number of the next element to fetch or push; POS is its position
  fetchFrom : Nat := 0         -- first cycle in which the port may be fetched
  buf : List Elem := []
  resv : Nat := 0              -- reserved places of a write port
  deriving DecidableEq, Repr

/-! ## Matrix unit -/

/-- The configuration a TCFG block gives (R85). -/
structure Tcfg where
  m : Nat := 0
  n : Nat := 0
  k : Nat := 0
  afmt : Nat := 0
  bfmt : Nat := 0
  s32 : Bool := false
  apitch : Nat := 0
  bpitch : Nat := 0
  ascl : Int := 0
  bscl : Int := 0
  aspitch : Nat := 0
  bspitch : Nat := 0
  deriving DecidableEq, Repr

/-- A command's place between its issue and its end (R183, R184). -/
inductive CmdSt where
  | waiting
  | running (start : Nat)
  | stopped                    -- by a fault (R187)
  | finished                   -- complete; its signal waits its turn (R184)
  deriving DecidableEq, Repr

/-- A command of the matrix queue (R28, R181). -/
structure MCmd where
  serial : Nat
  op : Nat                     -- OPC of R82
  syl : Word
  baddr : Nat
  a : Nat := 0
  b : Nat := 0
  al : Nat := 0
  be : Nat := 0
  cfg : Tcfg := {}             -- TCFG: the block it carries; else the configuration it was checked against
  issuedAt : Nat
  st : CmdSt := .waiting
  occ : Nat := 0               -- occupancy cycles used, or K-groups fed
  sent : Bool := false         -- its occupancy is used up
  rounded : Nat := 0           -- K-groups rounded
  completeAt : Option Nat := none
  hold : List Byte := []       -- bytes ACCLD has read
  row : List Word32 := []      -- the row ACCMV has read
  waitFrom : Option Nat := none  -- the wall time since which the head waits on its semaphore (R372)
  deriving DecidableEq, Repr

/-- A K-group in the array, its operands as read (R200, R314). -/
structure Group where
  serial : Nat                 -- its MMA
  due : Nat                    -- the cycle it rounds; an offset while frozen
  zero : Bool                  -- the first group of an MMA with ZERO (R191)
  a : List (List FVal)         -- A[i][k], k in the group
  b : List (List FVal)         -- B[k][j] as row j
  deriving DecidableEq, Repr

/-- ACCST bytes on their way to the port (R197). -/
structure AccStore where
  due : Nat
  bytes : List (Nat × Byte)
  full : List Nat              -- lines written in full
  deriving DecidableEq, Repr

/-- The matrix unit (R28, R188 to R200). -/
structure Matrix where
  queue : List MCmd := []      -- oldest first
  nextSerial : Nat := 0
  latched : Tcfg := {}
  acc : NMap Word32 := []      -- element (i, j) of acc n at 4096 n + 64 i + j
  groups : List Group := []
  stores : List AccStore := []
  worked : Bool := false       -- the unit has worked in this cycle, or in the cycle of the freeze that is open
  ranOut : Bool := false       -- it has worked in this cycle of a freeze for a save
  lines : Nat := 0             -- lines of the port it has taken in this cycle
  undo : Option (Group × NMap Word32 × Word) := none  -- the rounding of this cycle: group, acc and MPROG before (R233)
  deriving DecidableEq, Repr

/-! ## Copy engine -/

/-- A run of bytes of one element within one source line and one destination line (R202). -/
structure Piece where
  elem : Nat
  off : Nat                    -- of its first byte in the element
  len : Nat
  src : Word := 0#64
  dst : Word := 0#64
  srcT : Option Target := none -- none without a source (CFILL)
  srcA : PageAttr := {}
  dstT : List Target := []     -- one, or one for each destination of a CPYM
  dstA : PageAttr := {}
  data : List Byte := []       -- the source bytes as read
  poison : Bool := false
  deriving DecidableEq, Repr

/-- Where a copy line stands (R387, R443). -/
inductive LineStage where
  | reading                    -- the source value is taken at `due`
  | groupedR                   -- in a READREQ that is not yet sent
  | asked                      -- a peer has been asked for the source
  | arriving                   -- an off-die line is verified at `due` (R204)
  | writing                    -- the writes perform at `wdue`
  | groupedW                   -- in a WRITE that is not yet sent
  | acked                      -- a peer has been sent the write or the atomic
  | returning                  -- CAMO, CCAS: the old value is back at `due`
  | back                       -- and its write-back performs at `due`
  | backAcked                  -- the write-back has been sent to a peer
  | heldRead (slot : Nat)      -- waits on a line in motion (R359)
  | heldWrite (slot : Nat)
  | heldBack (slot : Nat)
  | lost                       -- its packet has been discarded (R417)
  deriving DecidableEq, Repr

/-- An outstanding line request of a copy queue (R206). -/
structure CLine where
  id : Nat
  cmd : Nat                    -- serial of its command
  reqAt : Nat                  -- the cycle of its request
  base : Nat                   -- the same, translation included
  pieces : List Piece
  stage : LineStage := .reading
  due : Nat := 0
  wdue : List (Nat × Nat) := []     -- destinations still to write: place in the list, cycle
  msgR : Nat := 0              -- numbers of its messages
  msgW : Nat := 0
  old : Nat := 0               -- CAMO, CCAS: the old value
  bad : Bool := false          -- its MAC fails
  stale : Option Nat := none   -- its elements from here on are performed again: their poison is not kept (R208)
  fault : Option (Nat × Nat × Word) := none  -- found by translation: element, code, address; raised at `due`
  deriving DecidableEq, Repr

/-- A message that takes further line requests (R387). -/
structure GroupMsg where
  num : Nat
  pkg : Nat
  key : Nat
  pa : Nat
  len : Nat
  deriving DecidableEq, Repr

/-- A command of C0 or C1 (R181, R201, R325). -/
structure CCmd where
  serial : Nat
  op : Nat                     -- OPC of R83
  syl : Word
  s1 : Word
  s2 : Word
  baddr : Nat
  pat : List Word := []        -- the eight words of the pattern block
  bitmap : List Nat := []      -- CPYM: destination logical tiles
  far : List Nat := []         -- the tiles of its far signals, fixed at issue (R185); for a CPYM its destinations
  ctx : TransCtx := {}
  fence : Option FenceSnap := none
  strong : Option FenceSnap := none   -- what a strongly ordered element that is due or out must come after (R268)
  flushAt : Option Nat := none  -- system scope: the cycle the zero-length read on the host link is back (R263)
  issuedAt : Nat
  st : CmdSt := .waiting
  nextElem : Nat := 0          -- the element and byte the next request starts at
  nextByte : Nat := 0
  blocked : Bool := false      -- an index read waits on a walk or a peer (R211)
  index : Option Nat := none   -- the index read for `nextElem` (R211)
  idxOrd : Bool := false       -- that index lies in a device or strongly ordered page (R268)
  idxOut : Bool := false       -- a peer has been asked for it
  walks : Nat := 0             -- CPRF: translations still to return
  tilesDone : List Nat := []   -- CPYM: places of destinations whose increment has left
  holdUntil : Nat := 0         -- CPRF: the cycle its last die-TLB answer is in
  nextMsg : Nat := 0
  openR : Option GroupMsg := none
  openW : Option GroupMsg := none
  badEl : List Nat := []       -- elements not all performed with a poisoned source line (R205)
  wrote : List (Nat × Target × Nat × BitVec 64) := []   -- what parts of elements wrote: element, line, key, bytes
  cover : List ((Nat × Nat) × BitVec 64) := []  -- the bytes of a line that hold data of clean sources (R205)
  waitFrom : Option Nat := none  -- the wall time since which the head waits on its semaphore, or has performed no access (R372)
  accessed : Bool := false     -- it has performed an access
  deriving DecidableEq, Repr

/-- A copy queue (R206). -/
structure CQueue where
  cmds : List CCmd := []       -- oldest first
  lines : List CLine := []
  nextSerial : Nat := 0
  nextLine : Nat := 0
  lastReq : Option Nat := none -- the cycle of its last line request
  lastDone : Option Nat := none
  deriving DecidableEq, Repr

/-! ## The tile -/

/-- A cached translation (R349, R353). -/
structure TlbEnt where
  world : Nat
  asid : Nat
  gen : Nat
  page : Nat                   -- DVA divided by the page size
  bits : Nat                   -- offset bits of the page
  tgt : Target                 -- where the page's first byte lies
  attr : PageAttr
  deriving DecidableEq, Repr

/-- Who uses the tile (R30, R123, R126, R290). -/
inductive TileUse where
  | free | loading | running | parked | ended | draining
  deriving DecidableEq, Repr

/-- A fault raised and not yet acted on (R30, R368). -/
structure PendFault where
  code : Nat
  slot : Nat
  bsq : Bool := false
  eaddr : Word := 0#64
  epc : Nat := 0
  pc : Option Nat := none  -- a deferred fault: the word address of the access that faulted (R98)
  ebaddr : Nat := 0
  prog : Nat := 0
  cmd : Bool := false          -- raised by a running command
  async : Bool := false        -- precision A
  far : Bool := false          -- an arriving far SEMOVF (R368)
  deriving DecidableEq, Repr

/-- A tile (R19). -/
structure Tile where
  use : TileUse := .free
  seq : Seq := {}
  spad : List Host.Cell := []
  spoison : List Nat := []           -- poisoned lines, rising
  sreg : NMap Word := []
  vreg : NMap Line := []             -- full name
  kreg : NMap (BitVec 16) := []      -- 8 × cluster + index
  sem : NMap (BitVec 16) := []
  semNow : List (Nat × Nat) := []    -- increments of this cycle, not yet seen by waits (R184)
  semTaken : List (Nat × Nat) := []  -- what consuming waits of this cycle have taken: increments come before them (R122)
  const : NMap Word32 := []
  constPend : List (Nat × Nat × Word32) := []  -- CBWs issued: the cycle each performs, word, value (R237)
  bprog : NMap Word := []
  bsq : Bsq := {}
  ports : NMap Port := []
  rrPort : Nat := 0                  -- the port the stream unit served last (R228)
  fetched : List Nat := []           -- ports fetched in this cycle
  mat : Matrix := {}
  c0 : CQueue := {}
  c1 : CQueue := {}
  utlb : List TlbEnt := []
  latch : Bool := false              -- event latch (R134)
  faults : List PendFault := []      -- raised in this cycle
  held : List PendFault := []        -- far SEMOVFs and asynchronous faults held (R368)
  freeze : Option Freeze := none
  drained : Bool := false            -- frozen for a save, and drained: its counts stand (R324)
  team : Nat := 0                    -- team number, 0 for none (R138)
  vd : Nat := 0
  launch : Nat := 0
  clamped : Option Nat := none       -- the iteration a clamp recorded (R321)
  spawned : Bool := false
  wbuf : List WcLine := []           -- combining buffers (R268)
  nextWc : Nat := 0                  -- number of the next line of them
  hostDirty : List Nat := []         -- queues that have written host memory since their last release at system scope (R263)
  deriving DecidableEq, Repr

end Sys2Proof.Machine
end

