-- ==== Sys2Proof/Machine/PackageState.lean ====
section
/-! DEFINITION. The state of the package outside the tiles (chapters 12 to 24), as plain data. A default value is the
value after package reset; where the manual gives none the log names it. -/
namespace Sys2Proof.Machine
open Sys2Proof

/-! ## Memory homes (chapters 18, 19, 23) -/

/-- What an ECC check of a line would find (R373). -/
inductive LineErr where
  | clean
  | correctable
  | uncorrectable
  | macBad
  | correctableMacBad
  deriving DecidableEq, Repr

/-- The counters of 32 data lines (R420). -/
structure CtrGroup where
  major : Nat := 0
  minors : NMap Nat := []
  broken : Bool := false       -- a counter-tree failure covers it
  deriving DecidableEq, Repr

/-- An entry of a near-memory combiner (R270). -/
structure CombEnt where
  addr : Nat                   -- PA of the aligned word
  width : Nat
  value : Nat
  lastAccess : Nat
  keyId : Nat
  deriving DecidableEq, Repr

/-- The memory of tiers H, L and X and of host bytes the part has written. -/
structure Memory where
  cells : List Host.Cell := []         -- by PA
  hostCells : List Host.Cell := []     -- host bytes written by the part or known from earlier
  tags : NMap (Option Nat) := []       -- key tag per frame, PA / 65536; untagged unless listed
  aliases : NMap (List Nat) := []      -- old key IDs a rotated frame still accepts, per frame (R364)
  poison : List Nat := []              -- poisoned lines, PA / 64, rising
  lostStacks : List Nat := []          -- stacks whose lines are poisoned until written (R378)
  cured : List Nat := []               -- lines of lost stacks fully written since
  errs : NMap LineErr := []            -- pending errors per line
  ctrs : NMap CtrGroup := []           -- per PA / 2048
  upper : List (Nat × Nat) := []       -- failing counter lines above level 0: level, and PA / bytes they cover (R420)
  comb : List CombEnt := []
  hot : NMap Nat := []                 -- per frame: the hotness counter, or in tier H the period that last reset it
  periods : Nat := 0                   -- periods of R355 that have ended
  hotPos : NMap Nat := []              -- accesses since the last sample, per controller
  deriving DecidableEq, Repr

/-- Error counters (R376). -/
structure ErrCounters where
  ce : NMap Nat := []          -- per home
  ue : NMap Nat := []
  mac : NMap Nat := []
  pnote : NMap Nat := []
  sce : NMap Nat := []         -- per die
  sue : NMap Nat := []
  deriving DecidableEq, Repr

/-! ## Translation (chapter 18) -/

/-- What an access asks of its page (R346). For an atomic: whether it is aligned, and whether a host page could take its
function (R113, R269). -/
inductive Need where
  | read
  | write
  | atomic (aligned hostFn : Bool)
  deriving DecidableEq, Repr

/-- Who waits on a walk. -/
inductive Waiter where
  | acc (q : SeqId) (id part : Nat)
  | lines (t : Nat) (u : CmdUnit) (ids : List Nat)
  | prefetch (t : Nat) (u : CmdUnit) (cmd addr : Nat)           -- a CPRF, by serial
  | index (t : Nat) (u : CmdUnit) (cmd addr : Nat) (needs : List Need)  -- the next request or index of a copy command
  | wc (t id : Nat)                                             -- a line of a combining buffer
  | bulk (e : Nat)                                              -- a bulk engine, by 8 × die + engine
  | pkt (p : PktId)                                             -- a SIGNAL or WAITSIG of a tier P object
  | host (r : ApReq) (op : Nat)                                 -- a host request to a tier P page: 0 read, 1 write, 2 atomic
  | aperture (ok : Bool)                                        -- a host request, which times its own translation; it passes its checks
  deriving DecidableEq, Repr

/-- A page walk of a die (R349). -/
structure Walk where
  id : Nat
  die : Nat
  dva : Nat
  ctx : TransCtx
  waiters : List Waiter
  dueAt : Option Nat           -- when its next entry is read; none while it queues for a walker
  level : Nat := 1             -- of the table it reads next
  table : Nat := 0
  deriving DecidableEq, Repr

/-- A non-leaf entry of a walk cache (R349). -/
structure WalkEnt where
  world : Nat
  asid : Nat
  gen : Nat
  level : Nat                  -- of the table the entry names
  idx : Nat                    -- the DVA bits above that level
  table : Nat
  tierL : Bool
  deriving DecidableEq, Repr

/-- An ATS or PRI request that is out (R353, R354). -/
structure HostReq where
  tag : Nat
  die : Nat
  vd : Nat
  ctx : TransCtx
  dva : Nat
  page : Bool                  -- a page request, not a translation request
  asked : Nat                  -- page requests already made for it
  perms : PageAttr
  waiters : List Waiter
  dead : Bool := false         -- its context has been killed since
  deriving DecidableEq, Repr

/-- A die (R4, R349, R378). -/
structure Die where
  tlb : List TlbEnt := []
  wcache : List WalkEnt := []
  walks : List Walk := []
  resetting : Bool := false
  held : Bool := false         -- held in reset since bring-up (R438)
  wtagdrop : Nat := 0
  gen : Nat := 0               -- resets (R417)
  stretch : Nat := 0           -- STRETCHd
  temp : Int := 0              -- TEMPd, in 1/8 °C
  deriving DecidableEq, Repr

/-- A kill (R136), kept until its TLBSYNC (R137) or its migration is past it. -/
structure Kill where
  id : Nat
  by_ : Option SeqId
  asid : Nat
  world : Nat
  dies : List Nat
  mig : Option Nat := none     -- the migration slot that issued it (R361)
  doneAt : Option Nat := none  -- the cycle its removal completed
  deriving DecidableEq, Repr

/-! ## Migration and rotation (chapter 18) -/

/-- A line of a page in motion (R358). -/
inductive LineSt where
  | pending | copying | done
  deriving DecidableEq, Repr

/-- What a slot moves: a page, or a frame being rotated in place (R356, R364). -/
structure MigReq where
  leafPa : Nat := 0
  dva : Nat := 0
  asid : Nat := 0
  world : Nat := 0
  tkey : Nat := 0
  dest : Nat := 0
  evq : Nat := 0
  pf : Bool := false
  tag : Nat := 0
  rot : Option Nat := none     -- a rotation's id
  src : Nat := 0
  order : Nat := 0             -- its place among requests and rotations
  deriving DecidableEq, Repr

/-- A migration slot in use (R358). -/
structure MigSlot where
  slot : Nat
  req : MigReq
  src : Nat                    -- PA of the source frame
  newKey : Nat
  line : Nat := 0              -- the line the copier is at
  copying : Bool := false
  doneLines : Nat := 0         -- lines below this are DONE
  held : List Waiter := []
  moving : Bool := true
  phase : Nat := 0             -- 0 copying, 1 leaf rewritten and kill out, 2 abort's kill out
  cause : Nat := 0             -- of its abort (R362), which is then to come or under way
  early : Bool := false        -- the line it is at is copied, its copy event still to come
  deriving DecidableEq, Repr

/-- A key rotation (R364). -/
structure Rotation where
  id : Nat
  old : Nat
  new : Nat
  frames : List Nat            -- frames still to take a slot
  active : Nat := 0
  done : Nat := 0
  failed : Nat := 0
  areas : List Nat := []       -- launches whose save areas are rotated too (R324)
  sct : Bool := false          -- requested by the security controller
  deriving DecidableEq, Repr

/-! ## Queues, launches and teams (chapters 13, 14, 16, 17) -/

/-- A user-mode queue the keeper serves (R274, R282). -/
structure Umq where
  qnum : Nat
  qcb : Nat                    -- DVA
  base : Nat := 0
  log2n : Nat := 0
  prio : Nat := 0
  ntfy : Nat := 0              -- DVA of its notify register
  openQ : Bool := true
  readAt : Option Nat := none  -- the tick the read of its QCB that is under way ends (R280)
  refresh : Bool := false      -- that read is a REFRESH
  pending : Bool := false      -- a notify has come during it
  pendRefresh : Bool := false  -- and asks for a REFRESH
  deriving DecidableEq, Repr

/-- How far a packet has come (R296). -/
inductive PktSt where
  | accepted | started | performed | reported
  deriving DecidableEq, Repr

/-- A journal entry (R296), with what the keeper knows of the packet. -/
structure Pkt where
  qnum : Nat
  idx : Nat
  slot : Nat := 0              -- its place in the journals
  words : List Word            -- the eight words as copied
  st : PktSt := .accepted
  reason : Nat := 0
  prio : Nat := 0              -- its queue's PRIO when it started
  reportAt : Nat := 0          -- the first tick its report may be made in (R280)
  waits : List Nat := []       -- CANCEL: launches whose completion it waits for
  dataHi : Nat := 0            -- COMPLETE DATA[47:16] of a failed restore (R408)
  top : Nat := 0               -- DVA of the top control block
  bytes : Nat := 0             -- COPY: bytes performed
  stage : Nat := 0             -- CKPT: how far it has come; SIGNAL and WAITSIG: 1 while a peer is asked
  old : Word := 0#64           -- SIGNAL: the old value
  team : Option Nat := none
  queued : Bool := false       -- a start event is on the agenda
  startTick : Nat := 0         -- the first tick it may start in; once started, the tick it did
  pollAt : Nat := 0            -- WAITSIG: the tick of its next periodic read (R285)
  lost : Bool := false         -- what it names went with a stack (R297)
  mute : Bool := false         -- its QCB did: it is not reported (R297)
  deriving DecidableEq, Repr

/-- A graph, phase or job the keeper has read (R286 to R288): what it needs of it afterwards. -/
structure Block where
  dva : Nat
  kind : Nat
  parent : Nat := 0
  signal : Nat := 0
  kids : List Nat := []
  ended : List Nat := []       -- kids of a graph that have completed
  deriving DecidableEq, Repr

/-- A virtual device (R299, R301). -/
structure Vd where
  vd : Nat
  quires : Nat := 0
  mports : Nat := 0
  world : Nat := 0
  weight : Nat := 0
  excl : Bool := false
  contain : Nat := 0
  hmask : Nat := 0
  quantum : Nat := 0
  tokrate : Nat := 0
  tokdepth : Nat := 0
  qtab : Nat := 0
  nq : Nat := 0
  ctx : TransCtx := {}
  trbase : Nat := 0
  trlog2 : Nat := 6
  jrnl0 : Nat := 0
  jrnl1 : Nat := 0
  pool : Nat := 0
  status : Nat := 0
  dump : Nat := 0
  evq : Nat := 0
  deadline : Nat := 0
  hvec : Nat := 0
  wdlimit : Nat := 0
  st : Nat := 1                -- STATE of the status block
  lastRefusal : Nat := 0
  qeff : Nat := 0
  trnext : Nat := 0
  vt : Nat := 0
  cnt : NMap Nat := []         -- CNT1 to CNT6
  cntadj : Nat := 0
  tokens : NMap Nat := []      -- per controller
  queues : List Umq := []
  jrnl : List Pkt := []        -- entries in use, in acceptance order
  jnext : Nat := 0             -- the journal place the next entry takes
  home : Nat := 0              -- the home die (R308)
  acting : Nat := 0            -- the keeper sequencer of it that acts (R308)
  hw : Bool := false           -- a view of it, for the keeper's own data: accesses go under HWKEY (R421)
  poolUse : List (Nat × Nat) := []   -- allocated runs of the pool: offset, bytes
  blocks : List Block := []          -- dispatched graphs, phases and jobs
  deriving DecidableEq, Repr

/-- The part of an image the machine keeps (R94, R95). -/
structure Image where
  profile4 : Bool := false
  teamw : Nat := 1
  teamh : Nat := 1
  live : Nat := 0
  entry : Nat := 0
  resume : Option Nat := none
  ctl : List Word32 := []
  bnd : List Word := []
  con : List Word32 := []
  dat : List (Nat × List Byte) := []
  sems : List (Nat × Nat) := []
  digest : BitVec 256 := 0#256
  deriving DecidableEq, Repr

/-- The stage of a launch (R290, R324, R329). -/
inductive LaunchSt where
  | waiting                    -- for its team to be placed
  | running
  | clamping
  | saving
  | saved
  | halting                    -- containment or cancellation has halted it
  | dumping
  | draining                   -- its report waits for the drain
  | done
  deriving DecidableEq, Repr

/-- A launch (R286, R287, R290). -/
structure Launch where
  id : Nat
  vd : Nat
  lcb : Nat                    -- DVA of its LCB; 0 until the keeper has built it
  built : Bool := false        -- built by the keeper for a LAUNCH packet
  gcb : Nat := 0               -- the graph that lists it
  parent : Nat := 0
  signal : Nat := 0
  pkt : Option (Nat × Nat) := none   -- the queue and index of the packet that dispatched it
  allocated : Bool := false    -- the pool holds its blocks (R292)
  image : Image := {}
  imageDva : Nat := 0          -- where its sealed image lies
  lseed : Word := 0#64
  nunits : Nat := 0
  restart : Bool := false
  deadline : Nat := 0
  prio : Nat := 0
  args : List Word := []
  succ : List Nat := []
  donemap : Nat := 0           -- DVA
  doneUnits : List Nat := []
  wave : Nat := 0
  st : LaunchSt := .waiting
  team : Nat := 0
  tiles : List Nat := []       -- physical tile of each logical number
  heldSince : Nat := 0
  relaunched : Bool := false
  reason : Nat := 0
  firstFault : Option (Nat × PendFault × Nat × Nat) := none  -- tick, fault, logical tile, CYCLE
  saveAt : Nat := 0            -- offset of its area in the save region
  saveLen : Nat := 0
  saveData : List (Nat × Tile × Nat) := []  -- logical tile, the tile as captured, STATE
  saveTime : Nat := 0
  stopAction : Nat := 0        -- once halted: 0 fail, 1 dump, 2 relaunch, 3 discard without relaunch, 4 save; 5 clamped; 6 succeeded
  settled : Bool := false      -- every tile has been found frozen and drained (R370)
  stopped : Bool := false      -- the team's status: every tile has stopped and drained (R138)
  saveKey : Nat := 0           -- the key ID of its area (R324)
  areaGone : Bool := false     -- the area's stack has been lost (R331)
  lost : Bool := false         -- its control blocks went with a stack (R297)
  clampI : NMap Nat := []      -- unit index to its recorded iteration
  dumpStep : Nat := 0
  dumpPos : Nat := 0           -- bytes of its section written
  dumpErr : List (Nat × Nat × List Byte) := []   -- sections: index, bytes written, second fault record
  dumpAt : Nat := 0            -- the tick of its next step
  dumpFail : Nat := 0          -- the fault that abandoned the dump (R337)
  deriving DecidableEq, Repr

/-- A bulk copy engine (R306, R307). -/
structure Bulk where
  pkt : Option PktId := none
  chan : Option (Nat × Nat) := none   -- a channel it serves: function, channel (R436)
  src : Nat := 0               -- of the chunk it copies
  dst : Nat := 0
  len : Nat := 0
  idx : Nat := 0               -- a channel's chunk
  pos : Nat := 0               -- bytes of the chunk performed
  dueAt : Nat := 0             -- the tick the chunk performs, toward no peer
  run : Nat := 0               -- bytes of the run whose peer has been asked
  asked : Bool := false        -- a peer's answer is awaited
  askedAt : Nat := 0           -- and since which cycle
  got : Option (List Byte × Nat) := none  -- the bytes a peer has sent for the run, and its poisoned lines
  lastVd : Nat := 0
  deriving DecidableEq, Repr

/-- The keeper operation block (R311, R319, R342). -/
structure KeeperBlock where
  busyUntil : Nat := 0                -- KSTAT bit 0 is set before this cycle
  reason : Nat := 0
  kest : Word := 0#64
  kfree : Nat := 0                    -- the quire whose free tiles it reads
  hotaddr : Nat := 0
  prilate : Nat := 0
  deriving DecidableEq, Repr

/-! ## Fabric (chapter 21) -/

/-- A route table entry (R385). -/
structure Route where
  paths : List Word32 := []
  dcfg : Word := 0#64
  deriving DecidableEq, Repr

/-- A message a sender keeps until ACK or LOSS (R398). -/
structure TxMsg where
  id : Nat
  dst : Nat
  lane : Nat
  rsp : Bool
  seq : Option Nat := none     -- once sealed
  epoch : Nat := 0
  resync : Bool := false
  msg : Message
  d : Nat := 1
  m : Nat := 0
  cls : Nat := 0
  sealedAt : Nat := 0          -- the tick it was sealed in, or last resent whole
  ct : List Byte := []         -- the sealed descriptor and data (R388)
  tag : List Byte := []        -- and their GCM tag
  expiries : Nat := 0
  acked : Bool := false        -- an ATOMIC whose ACK has come
  answered : Bool := false     -- and one whose response has
  notes : List Nat := []       -- a response: lines whose poison-notifies have not been sent (R377)
  noteIds : List Nat := []     -- and notifies still to be acknowledged or lost
  waiter : Option Waiter
  deriving DecidableEq, Repr

/-- The way a path word gives what is sent on it: egress port, initial virtual channel and route tag (R384, R385). -/
structure Way where
  port : Nat := 0
  vc : Nat := 0
  tag : Nat := 0
  deriving DecidableEq, Repr

/-- A sender's lane to a destination (R391). -/
structure TxLane where
  seq : Nat := 0
  epoch : Nat := 0
  resync : Bool := false
  deriving DecidableEq, Repr

/-- A number of a receive window (R392). -/
inductive WinSt where
  | empty | active (frame : Nat) | closed (abandoned : Bool)
  deriving DecidableEq, Repr

/-- A receiver's window for a source package and lane (R392, R394). -/
structure RxLane where
  base : Nat := 0
  del : Nat := 0                       -- the next number to deliver
  win : NMap WinSt := []               -- by sequence number
  outcomes : List (Nat × Bool) := []   -- the 64 numbers below BASE: number, lost
  ready : List (Nat × Nat × Message) := []   -- decoded, waiting for delivery in SEQ order: SEQ, tick, message
  repeated : NMap Nat := []            -- when a number's ACK or LOSS was last repeated
  acks : NMap Nat := []                -- STATUS of delivered numbers
  shut : Option Nat := none            -- numbers from here on are abandoned until a RESYNC (R396; log 123)
  deriving DecidableEq, Repr

/-- A sewing frame (R393). -/
structure Frame where
  src : Nat
  lane : Nat
  rsp : Bool
  seq : Nat
  d : Nat
  m : Nat
  good : List (Nat × Sealed) := []
  seen : List Nat := []
  r : Nat := 0
  gather : Bool := true                -- GATHER, else DRAIN
  timer : Nat                          -- the tick T_frag or T_drain ends
  decodeAt : Option Nat := none        -- a guard-leaf decode one tick later
  epoch : Nat := 0
  deriving DecidableEq, Repr

/-- The fabric unit (R383 to R403). -/
structure Fabric where
  routes : NMap Route := []
  mypkg : Nat := 0
  frtsrc : Nat := 0
  busyUntil : Nat := 0                 -- FSTAT.BUSY is set before this cycle
  ports : Nat := 0                     -- trained ports
  fcode : NMap (Nat × Nat) := []       -- k and m per class; (8, 2) unless listed
  tfrag : Nat := 2000
  tdrain : Nat := 200
  tack : Nat := 12000
  xtbase : Nat := 0
  xtcount : Nat := 0
  ctrs : NMap Nat := []                -- the counters of R403 by offset
  tx : List TxMsg := []
  nextMsg : Nat := 0
  txLanes : List ((Nat × Nat × Bool) × TxLane) := []
  leafNo : NMap Nat := []              -- leaf number per destination
  ctlSeen : List (Nat × Nat) := []     -- control leaves acted on, whose second copy is still to come: source, number
  rx : List ((Nat × Nat × Bool) × RxLane) := []
  frames : NMap (Option Frame) := []
  deriving DecidableEq, Repr

/-! ## Worlds and keys (chapter 23) -/

/-- A tenant world (R409, R413). -/
structure World where
  active : Bool := false               -- else PENDING
  pair : BitVec 512 := 0#512           -- the draws d and z of its ML-KEM key pair, until it is ACTIVE
  ek : BitVec 256 := 0#256             -- the digest of its encapsulation key
  plain : Bool := false
  signers : List (BitVec 256) := []
  wk : BitVec 256 := 0#256
  cv : BitVec 128 := 0#128
  mchain : BitVec 256 := 0#256
  deriving DecidableEq, Repr

/-- A key ID (R410). -/
inductive KeySt where
  | free
  | bound (w e : Nat)
  | scrubbed
  deriving DecidableEq, Repr

/-- A command of the SCT mailbox waiting its turn (R414). -/
abbrev SctCmd := List Nat

/-- A mooring with a peer (R427, R428). -/
structure Mooring where
  up : Bool := false
  initiator : Bool := false
  phase : Nat := 0                     -- 0 none, 1 MOOR1 sent, 2 MOOR2 sent, 3 done; 4 and 5 the checks of MOOR2 and MOOR3
                                       -- passed, messages to the peer still unacknowledged (R428)
  nonce : BitVec 256 := 0#256
  pair : BitVec 512 := 0#512           -- the initiator's ML-KEM draws d and z
  one : List Byte := []                -- MOOR1 as sent
  transcript : BitVec 256 := 0#256     -- T
  ms : BitVec 256 := 0#256             -- MS
  linkT : BitVec 256 := 0#256          -- T and MS of the last success: the link keys in use
  linkMs : BitVec 256 := 0#256
  deadline : Nat := 0
  deriving DecidableEq, Repr

/-- The SPDM messages of a function that its next signatures cover (R425): version to algorithms, digests and certificates, and
measurements. -/
structure SpdmLog where
  vca : List Byte := []
  certs : List Byte := []
  meas : List Byte := []
  deriving DecidableEq, Repr

/-- The security controller (R409 to R428). -/
structure Sct where
  worlds : NMap (Option World) := []
  spdm : NMap SpdmLog := []            -- by function
  keys : NMap KeySt := []
  epochs : NMap Nat := []
  pcm : NMap Nat := []                 -- 48 bits per quire
  busy : Bool := false
  status : Nat := 0
  mailbox : NMap Word := []            -- the request's eight words
  queue : List SctCmd := []
  stage : Nat := 0                     -- how far the running command has come
  locked : List Nat := []              -- the VDs whose decision lock the running command holds (R414)
  old : List Waiter := []              -- accesses checked under the bits PCMSET replaced
  oldAt : Nat := 0                     -- the cycle in which it replaced them (R418)
  moorings : NMap Mooring := []
  key0 : BitVec 256 := 0#256           -- the drawn data and integrity keys of key IDs 0 and 255 (R410)
  intg0 : BitVec 256 := 0#256
  key255 : BitVec 256 := 0#256
  intg255 : BitVec 256 := 0#256
  microcode : BitVec 256 := 0#256      -- measurement block 3
  events : List (List Byte) := []      -- the controller's own event queue (R363)
  deriving DecidableEq, Repr

/-! ## Host functions and power (chapter 24) -/

/-- A TDISP interface state (R433), numbered as TDISPST reads it. -/
inductive Tdisp where
  | unlocked | locked | run | error
  deriving DecidableEq, Repr

/-- An interrupt vector (R434). -/
structure Vector_ where
  entry : BitVec 128 := 1#128 <<< 96   -- its MSI-X table entry; bit 96 masks it
  pending : Bool := false
  count : Nat := 0                     -- conditions not yet signalled
  dueAt : Nat := 0                     -- the tick in which they are signalled at the latest
  need : Nat := 1                      -- the number of them that is signalled at once
  deriving DecidableEq, Repr

def Vector_.masked (v : Vector_) : Bool := v.entry.getLsbD 96

/-- A virtual function (R431). -/
structure Vf where
  tdisp : Tdisp := .unlocked
  vectors : NMap Vector_ := []
  coal : Word := 0#64
  chanbase : Word := 0#64
  chancnt : Nat := 0
  apdrop : Nat := 0
  apWrite : Nat := 0                   -- the cycle its latest posted write performs in (R432)
  apWait : List (ApReq × Nat) := []    -- requests behind a posted write that waits for a peer, as Waiter.host (R432)
  chans : List Nat := []               -- channels that wait for an engine
  stopping : Bool := false
  stopAsked : Bool := false            -- its end is answered: a STOP, and no FLR alone
  stopAt : Nat := 0                    -- the tick in which it is looked at next
  deriving DecidableEq, Repr

/-- Something that leaves the package; the model records it and never reads it back. -/
inductive Out where
  | msix (fn vec : Nat)
  | apReply (vf tag : Nat) (data : List Byte) (poisoned : Bool)
  | apRefused (vf tag : Nat)
  | hostWrite (addr : Nat) (data : List Byte)
  | hostFlush (tile : Nat)     -- a zero-length read on the host link (R263)
  | leaf (dst : Nat) (way : Way) (l : Leaf)
  | control (dst : Nat) (way : Way) (kind : Nat) (c : ControlLeaf)   -- 0 ACK, 1 RETX, 2 LOSS, 3 ABANDON
  | ats (vd tag page : Nat)
  | pri (vd tag page : Nat)
  | moor (dst step : Nat) (m : MoorMsg)
  | ckpt (dst serial job : Nat)   -- a checkpoint announced to a member (R407)
  | spdm (fn code : Nat) (data : List Byte)
  | tdisp (vf code : Nat) (data : List Byte)
  deriving DecidableEq, Repr

/-- Bring-up and power (R438, R440). -/
structure Power where
  stage : Nat := 1
  bootReason : Nat := 0
  pwrlim : Nat := 5200000
  pwr : Nat := 0
  energy : Nat := 0
  ttrip : Int := 110
  deriving DecidableEq, Repr

/-- The fitted memory (R342). -/
structure Fitted where
  stackMap : Nat := 0                  -- bit s: stack s is fitted
  gbPerStack : Nat := 0                -- usable by programs
  tierL : Nat := 0
  expanders : Nat := 0
  gibX : List Nat := []                -- GiB of each expander
  deriving DecidableEq, Repr

end Sys2Proof.Machine
end

