-- ==== Sys2Proof/Machine/State.lean ====
section
/-! DEFINITION. The state of one Ighorn package, the reasons a step stops, and the state after package reset (R439).
Everything is plain data. What lies outside the package (host, peers, expanders' links, the supply) acts through entries
of `agenda`; what leaves the package is recorded in `outbox`. -/
namespace Sys2Proof.Machine
open Sys2Proof

/-- A step that stops because its operand names nothing that exists. -/
inductive Fault where
  /-- Raised by a step that names a tile, sequencer, die, port, function or slot number beyond those R4, R7, R308 and
  R431 give the package. It stops where the part has nothing to act on; no behaviour of the part is lost: safe (log 13). -/
  | noSuchUnit (mnemonic : String) (n : Nat)
  deriving DecidableEq, Repr

/-- A step that the model refuses. -/
inductive Refusal where
  /-- Raised by the dispatcher for an instruction that has no meaning yet; no arm answers with it. Safe. -/
  | notModelled (mnemonic : String)
  /-- Raised by an event offered in a state in which the manual gives it no occurrence (no result is due, no command
  waits, no packet of that index is accepted): the event does not happen there, so nothing is lost: safe (log 13). -/
  | notEnabled (mnemonic : String)
  /-- Raised by a control instruction issued on a keeper sequencer when its effect is on tile storage a keeper sequencer
  lacks (CQ, semaphores, constant bank, ports, event latch, unit; R308): the manual gives it no effect there: safe
  (log 12). -/
  | keeperLacks (mnemonic : String)
  deriving DecidableEq, Repr

/-- When an agenda entry is due: in a core cycle, or in a tick of the time base (R11). -/
inductive Due where
  | cycle (n : Nat)
  | tick (n : Nat)
  deriving DecidableEq, Repr

/-- The place of a CSQ's issue within a cycle: SEMINIT early, SEMSIG after the queues' signals, SEMWAIT late (R122),
the wait of a UEND and a QFENCE last (R115, R125), the rest in the middle; `any` takes whatever stands at the pc. -/
inductive CsqSlot where
  | early | mid | sig | late | last | any
  deriving DecidableEq, Repr

/-- The places of a tile's own events within a cycle. -/
inductive Phase where
  | results | ports | clampEnd | late | complete | mround | start | check | mwork | bsq | freeze | requestC0 | requestC1 | fetch | watchdog
  deriving DecidableEq, Repr

/-- An agent still to be offered its step in this cycle. -/
inductive Turn where
  | agenda
  | far                                  -- far increments that arrive now
  | csq (q : SeqId) (slot : CsqSlot)
  | accStores (q : SeqId)                -- its stores that perform now
  | accReads (q : SeqId)                 -- its loads and atomics that perform now
  | accSignals (q : SeqId)               -- the signals of its AMOS that fire now
  | tile (t : Nat) (ph : Phase)
  deriving DecidableEq, Repr

/-- A fault the keeper is to take (R335, R369): the tick it arose, the tile, the unit's CYCLE and the fault. -/
structure KFault where
  tick : Nat
  tile : Nat
  cycle : Word
  fault : PendFault
  due : Nat                    -- the cycle the keeper takes it in (R332)
  drain : Bool := false        -- found in the drain of a tile that had stopped (R370)
  deriving DecidableEq, Repr

/-- The state of the package. -/
structure State where
  now : Nat := 0                         -- core cycles since package reset
  wall : Nat := 0                        -- half-cycle units of wall time (R11)
  cur : SeqId := .tile 0                 -- the sequencer whose control word runs
  turns : List Turn := []
  agenda : List (Due × Instr) := []      -- in the order they were posted
  fresh : Nat := 0                       -- counter of the free values
  nextId : Nat := 1                      -- names of walks, kills, rotations, host requests, launches
  outbox : List Out := []
  tiles : NMap Tile := []
  keepers : NMap Seq := []               -- a keeper sequencer runs in S (R308)
  kblock : KeeperBlock := {}
  mem : Memory := {}
  errc : ErrCounters := {}
  dies : NMap Die := []
  hostReqs : List HostReq := []
  kills : List Kill := []
  mig : List MigSlot := []
  migWait : List MigReq := []
  rots : List Rotation := []
  vds : NMap (Option Vd) := []
  launches : List Launch := []
  kfaults : List KFault := []            -- faults on their way to the keeper (R369)
  bulks : NMap Bulk := []                -- engine e of die d at 8 d + e
  fabric : Fabric := {}
  sct : Sct := {}
  vfs : NMap Vf := []
  power : Power := {}
  fitted : Fitted := {}
  pfEvq : Nat := 0                       -- the physical function's event queue (PA)
  linksDown : List (Nat × Nat) := []     -- failed die-to-die links
  deriving DecidableEq, Repr

/-- The package right after package reset (R439): stage 1 of bring-up, every tile drained, every world absent, memory
untagged and nothing listed. -/
def State.reset : State := {}

end Sys2Proof.Machine
end

