-- ==== Sys2Proof/Machine/Ops.lean ====
section
/-! DEFINITION. The named operations over the state that the meanings share: access to tiles and sequencers, time and
the agenda, bytes and scratchpad, places and distances, the address check of R31, semaphores, and taking a fault and
returning from it (R30, R233 to R235, R367). -/
namespace Sys2Proof.Machine
open Sys2Proof

/-- What a meaning answers. -/
abbrev Out' := Host.Outcome State Fault Refusal

/-! ## Tiles, sequencers, small parts of the state -/

/-- A keeper sequencer that has run nothing: in S (R29, R308). -/
def keeperIdle : Seq := { csr := { mode := 1#2 } }

def State.tile (s : State) (t : Nat) : Tile := s.tiles.get {} t
def State.setTile (s : State) (t : Nat) (x : Tile) : State := { s with tiles := s.tiles.set {} t x }
def State.modTile (s : State) (t : Nat) (f : Tile → Tile) : State := s.setTile t (f (s.tile t))

/-- Change every tile listed whose number `p` selects. -/
def State.modTiles (s : State) (p : Nat → Bool) (f : Tile → Tile) : State :=
  ((s.tiles.map Prod.fst).filter p).foldl (fun s t => s.modTile t f) s

/-- The sequencer `q`. -/
def State.seq (s : State) : SeqId → Seq
  | .tile t => (s.tile t).seq
  | .keeper k => s.keepers.get keeperIdle k

def State.setSeq (s : State) (q : SeqId) (x : Seq) : State :=
  match q with
  | .tile t => s.modTile t fun y => { y with seq := x }
  | .keeper k => { s with keepers := s.keepers.set keeperIdle k x }

def State.modSeq (s : State) (q : SeqId) (f : Seq → Seq) : State := s.setSeq q (f (s.seq q))

def State.vd? (s : State) (v : Nat) : Option Vd := s.vds.get none v
def State.modVd (s : State) (v : Nat) (f : Vd → Vd) : State :=
  match s.vd? v with
  | some x => { s with vds := s.vds.set none v (some (f x)) }
  | none => s
def State.die (s : State) (d : Nat) : Die := s.dies.get {} d
def State.modDie (s : State) (d : Nat) (f : Die → Die) : State := { s with dies := s.dies.set {} d (f (s.die d)) }
/-- Change every die listed whose number `p` selects. -/
def State.modDies (s : State) (p : Nat → Bool) (f : Die → Die) : State :=
  ((s.dies.map Prod.fst).filter p).foldl (fun s d => s.modDie d f) s
def State.vf (s : State) (v : Nat) : Vf := s.vfs.get {} v
def State.modVf (s : State) (v : Nat) (f : Vf → Vf) : State := { s with vfs := s.vfs.set {} v (f (s.vf v)) }
def State.launch? (s : State) (id : Nat) : Option Launch := s.launches.find? (·.id = id)
def State.modLaunch (s : State) (id : Nat) (f : Launch → Launch) : State :=
  { s with launches := s.launches.map fun l => if l.id = id then f l else l }
/-- The launch that holds team number `n` (R305). -/
def State.team? (s : State) (n : Nat) : Option Launch := s.launches.find? fun l => l.team = n && l.st != .done
def State.emit (s : State) (o : Out) : State := { s with outbox := s.outbox ++ [o] }

/-- A fresh name. -/
def State.newId (s : State) : Nat × State := (s.nextId, { s with nextId := s.nextId + 1 })

/-! ## Time and the agenda (R11, R12) -/

/-- The time base, in ticks (R133). -/
def State.tick (s : State) : Nat := s.wall / Config.unitsPerTick

/-- Post a step for a core cycle. -/
def State.post (s : State) (at_ : Nat) (i : Instr) : State := { s with agenda := s.agenda ++ [(.cycle at_, i)] }
/-- Post a step `n` cycles from now. -/
def State.postIn (s : State) (n : Nat) (i : Instr) : State := s.post (s.now + n) i
/-- Post a step after a time the manual leaves open, at least one cycle. -/
def State.postFree (s : State) (i : Instr) : State :=
  ({ s with fresh := s.fresh + 1 }).postIn (1 + Config.freeDelay s.fresh) i
/-- Post a step for a tick of the time base. -/
def State.postTick (s : State) (n : Nat) (i : Instr) : State := { s with agenda := s.agenda ++ [(.tick n, i)] }
/-- Whether an agenda entry is due. -/
def State.isDue (s : State) : Due → Bool
  | .cycle n => n ≤ s.now
  | .tick n => n ≤ s.tick

/-! ## Bytes (R13) -/

/-- The `n` low bytes of a number, lowest first. -/
def bytesOf : Nat → Nat → List Byte
  | 0, _ => []
  | n + 1, v => BitVec.ofNat 8 v :: bytesOf n (v / 256)

/-- The number that bytes hold, lowest first. -/
def natOf : List Byte → Nat
  | [] => 0
  | b :: t => b.toNat + 256 * natOf t

/-- Bytes of sparse storage from `a`. -/
def readBytes (m : List Host.Cell) (a n : Nat) : List Byte := (List.range n).map fun i => NMap.get 0#8 m (a + i)

/-- Write bytes from `a`, keeping the canonical form. -/
def writeBytes (m : List Host.Cell) (a : Nat) : List Byte → List Host.Cell
  | [] => m
  | b :: t => writeBytes (NMap.set 0#8 m a b) (a + 1) t

/-- A rising list of numbers with `n` put in, or taken out. -/
def markIn (l : List Nat) (n : Nat) : List Nat := (l.filter (· < n)) ++ n :: (l.filter (· > n))
def markOut (l : List Nat) (n : Nat) : List Nat := l.filter (· ≠ n)
def setMark (l : List Nat) (n : Nat) (b : Bool) : List Nat := if b then markIn l n else markOut l n

/-! ## Scratchpad and constant bank of a tile (R19) -/

def Tile.bytes (x : Tile) (off n : Nat) : List Byte := readBytes x.spad off n
def Tile.readNat (x : Tile) (off n : Nat) : Nat := natOf (x.bytes off n)
def Tile.writeSpad (x : Tile) (off : Nat) (bs : List Byte) : Tile := { x with spad := writeBytes x.spad off bs }
def Tile.poisoned (x : Tile) (off : Nat) : Bool := x.spoison.contains (off / 64)
def Tile.setPoison (x : Tile) (off : Nat) (b : Bool) : Tile := { x with spoison := setMark x.spoison (off / 64) b }
def Tile.constWord (x : Tile) (w : Nat) : Word32 := x.const.get 0#32 w
def Tile.live (x : Tile) : Nat := x.seq.csr.lspext.toNat

/-- The lines that `n` bytes from `off` touch. -/
def linesOf (off n : Nat) : List Nat := if n = 0 then [] else (List.range ((off + n - 1) / 64 - off / 64 + 1)).map (· + off / 64)

/-! ## Registers (R20, R21) -/

/-- g registers; g0 reads zero. -/
def Seq.gr (q : Seq) (r : BitVec 6) : Word := if r = 0 then 0#64 else q.g.get 0#64 r.toNat

/-- Write a g register whose result is readable from cycle `at_`; g0 discards it and never delays a reader (R21). -/
def Seq.setG (q : Seq) (r : BitVec 6) (v : Word) (at_ : Nat) : Seq :=
  if r = 0 then q else { q with g := q.g.set 0#64 r.toNat v, ready := q.ready.set 0 r.toNat at_ }

/-- s registers; s0 reads zero. -/
def Tile.sr (x : Tile) (n : Nat) : Word := if n = 0 then 0#64 else x.sreg.get 0#64 n
def Tile.setS (x : Tile) (n : Nat) (v : Word) : Tile := if n = 0 then x else { x with sreg := x.sreg.set 0#64 n v }
/-- v registers by full name (R23). -/
def Tile.vr (x : Tile) (name : Nat) : Line := x.vreg.get 0#512 name
def Tile.setV (x : Tile) (name : Nat) (v : Line) : Tile := { x with vreg := x.vreg.set 0#512 name v }
/-- k registers; k0 reads all ones. -/
def Tile.kr (x : Tile) (c i : Nat) : BitVec 16 := if i = 0 then 0xFFFF#16 else x.kreg.get 0#16 (8 * c + i)
def Tile.setK (x : Tile) (c i : Nat) (v : BitVec 16) : Tile :=
  if i = 0 then x else { x with kreg := x.kreg.set 0#16 (8 * c + i) v }
def Csr.sr (c : Csr) (i : Nat) : Word := c.srstate.get 0#64 i
def Tile.srstate (x : Tile) (c : Nat) : Word := x.seq.csr.sr c
def Tile.setSrstate (x : Tile) (c : Nat) (v : Word) : Tile :=
  { x with seq := { x.seq with csr := { x.seq.csr with srstate := x.seq.csr.srstate.set 0#64 c (srFix v) } } }
def Tile.fflags (x : Tile) (c : Nat) : BitVec 5 := x.seq.csr.fflags.get 0#5 c
def Tile.setFflags (x : Tile) (c : Nat) (v : BitVec 5) : Tile :=
  { x with seq := { x.seq with csr := { x.seq.csr with fflags := x.seq.csr.fflags.set 0#5 c v } } }
def Tile.modCsr (x : Tile) (f : Csr → Csr) : Tile := { x with seq := { x.seq with csr := f x.seq.csr } }
def Tile.modBsq (x : Tile) (f : Bsq → Bsq) : Tile := { x with bsq := f x.bsq }
def Tile.frozen (x : Tile) : Bool := x.freeze.isSome
/-- Frozen, or with a fault of this cycle that will freeze it (R233). -/
def Tile.stopped (x : Tile) : Bool := x.freeze.isSome || !x.faults.isEmpty

/-! ## Places (R4, R7, R8, R257) -/

abbrev dieOf (t : Nat) : Nat := t / 64
abbrev colOf (t : Nat) : Nat := 8 * (dieOf t % 4) + t % 8
abbrev rowOf (t : Nat) : Nat := 8 * (dieOf t / 4) + t / 8 % 8
abbrev absDiff (a b : Nat) : Nat := a - b + (b - a)
/-- The quire of a tile (R8). -/
abbrev quireOf (t : Nat) : Nat := dieOf t * 4 + t / 8 % 8 / 4 * 2 + t % 8 / 4
/-- Die edges between two dies. -/
abbrev dieEdges (d e : Nat) : Nat := absDiff (d % 4) (e % 4) + absDiff (d / 4) (e / 4)
/-- The hop distance of R257. -/
def hops (t u : Nat) : Nat :=
  absDiff (colOf t) (colOf u) + absDiff (rowOf t) (rowOf u) + 3 * dieEdges (dieOf t) (dieOf u)

/-! ## Addresses (R31) -/

/-- The fault codes of R366. -/
abbrev illegalEnc : Nat := 0x01
abbrev regName : Nat := 0x02
abbrev spadBounds : Nat := 0x03
abbrev canon : Nat := 0x04
abbrev perm : Nat := 0x05
abbrev notPresent : Nat := 0x06
abbrev keyMismatch : Nat := 0x07
abbrev integrity : Nat := 0x08
abbrev poisonF : Nat := 0x09
abbrev semOvf : Nat := 0x0A
abbrev cqProtocol : Nat := 0x0B
abbrev spawnBusy : Nat := 0x0C
abbrev hostPage : Nat := 0x0D
abbrev fabricLoss : Nat := 0x0E
abbrev migrateAbort : Nat := 0x0F
abbrev atomicType : Nat := 0x10
abbrev watchdogF : Nat := 0x11
abbrev trapF : Nat := 0x12
abbrev vdcfg : Nat := 0x13

/-- What an address names after the checks of R31. -/
inductive Space where
  | dva (a : Nat)
  | slice (t off : Nat)        -- physical tile and offset
  deriving DecidableEq, Repr

/-- The physical tile of a logical number, where R34 holds it present. -/
def Csr.ptile (c : Csr) (lt : Nat) : Option Nat :=
  let e := c.ltte.get 0#16 lt
  if lt < 1024 ∧ e.getLsbD 15 then some (e.toNat % 1024) else none

/-- The checks of R31 on an access of `n` bytes by tile `t`: CANON first, then SPAD_BOUNDS. -/
def checkAddr (s : State) (t : Nat) (a : Word) (n : Nat) : Except Nat Space :=
  let x := a.toNat
  let c := (s.tile t).seq.csr
  match x / 2 ^ 62 with
  | 0 => if x / 2 ^ 56 = 0 then .ok (.dva x) else .error canon
  | 1 =>
    if x / 2 ^ 31 % 2 ^ 31 ≠ 0 then .error canon
    else
      match c.ptile (x / 2 ^ 21 % 1024) with
      | none => .error spadBounds
      | some u => if x % 2 ^ 21 + n ≤ (s.tile u).live then .ok (.slice u (x % 2 ^ 21)) else .error spadBounds
  | 2 =>
    if x / 2 ^ 21 % 2 ^ 41 ≠ 0 then .error canon
    else if x % 2 ^ 21 + n ≤ (s.tile t).live then .ok (.slice t (x % 2 ^ 21)) else .error spadBounds
  | _ => .error canon

/-! ## Semaphores (R118 to R122, R134) -/

def Tile.semVal (x : Tile) (i : Nat) : Nat := (x.sem.get 0#16 i).toNat
/-- Any change of a semaphore sets the event latch (R134); a SEMINIT to the value it holds already counts as one: DESIGN CHOICE
(log 105). -/
def Tile.setSem (x : Tile) (i v : Nat) : Tile := { x with sem := x.sem.set 0#16 i (BitVec.ofNat 16 v), latch := true }
/-- The value waits of this cycle see: increments of this cycle are not in it (R119, R184). -/
def Tile.semSeen (x : Tile) (i : Nat) : Nat :=
  x.semVal i - ((x.semNow.filter (·.1 = i)).map Prod.snd).sum
/-- What the consuming waits of this cycle have taken of a semaphore. -/
def Tile.semTook (x : Tile) (i : Nat) : Nat := ((x.semTaken.filter (·.1 = i)).map Prod.snd).sum
/-- Add an increment; none when it would pass 65 535 (R120). Increments come before the consuming waits of their cycle
(R122). -/
def Tile.semAdd (x : Tile) (i n : Nat) : Option Tile :=
  if x.semVal i + x.semTook i + n > 65535 then none else some { x.setSem i (x.semVal i + n) with semNow := (i, n) :: x.semNow }

/-! ## Faults (R30, R98, R130, R233, R367) -/

/-- HMASK of the tile's VD directs `code` to a handler (R367): bit 10 + code of VDCB word 0x10. -/
def State.hmaskHas (s : State) (t code : Nat) : Bool :=
  match s.vd? (s.tile t).vd with
  | some v => bitOf (10 + code) v.hmask
  | none => false

/-- The condition of R30 and R367 for entering S at EVEC. -/
def State.directed (s : State) (t : Nat) (f : PendFault) : Bool :=
  let c := (s.tile t).seq.csr
  c.mode = 0#2 && c.evec != 0#14 && s.hmaskHas t f.code && !f.async

/-- ECAUSE of a fault (R35). -/
def ecauseOf (f : PendFault) : BitVec 16 :=
  BitVec.ofNat 16 (f.code + 256 * f.slot + if f.bsq then 0x2000 else 0)

/-- The exception registers an event writes (R30, R187). -/
def Csr.saveEvent (c : Csr) (f : PendFault) : Csr :=
  { c with
    epc := BitVec.ofNat 14 f.epc
    epcPast := 2 ^ 14 ≤ f.epc
    ebaddr := if f.bsq then BitVec.ofNat 20 f.ebaddr else c.ebaddr
    ecause := ecauseOf f
    eaddr := f.eaddr
    estatus := c.mode }

/-- Write a held or undone result's place back (R233): the restoring half of an entry of `resNow`. -/
def Tile.putBack (x : Tile) (old : PendRes) : Tile :=
  let x := x.setFflags old.cluster (if old.flags = 0#5 then x.fflags old.cluster else x.fflags old.cluster &&& ~~~old.flags)
  match old.tgt with
  | .sreg n => x.setS n (old.data.setWidth 64)
  | .vreg name _ => x.setV name old.data
  | .kreg i _ => x.setK (i / 8) (i % 8) (old.data.setWidth 16)
  | .push p _ =>
    let y := x.ports.get {} p
    { x with ports := x.ports.set {} p { y with buf := y.buf.dropLast, next := y.next - 1, resv := y.resv + 1 } }
  | .none => x

/-- Take back the group rounded in this cycle; it is held with offset 0 (R200, R233). -/
def Tile.undoRound (x : Tile) (now : Nat) : Tile :=
  match x.mat.undo with
  | none => x
  | some (g, acc, mprog) =>
    { x with
      mat := { x.mat with
        acc := acc, undo := none, groups := { g with due := now } :: x.mat.groups
        queue := x.mat.queue.map fun c =>
          if c.serial = g.serial then { c with rounded := c.rounded - 1, completeAt := none } else c }
      seq := { x.seq with csr := { x.seq.csr with mprog := mprog } } }

/-- Undo the results written in this cycle, latest first: a result due in f is held with offset 0 (R233). -/
def Tile.undoNow (x : Tile) (now : Nat) : Tile :=
  (x.bsq.resNow.reverse.foldl (fun (y : Tile) e => y.putBack e.2) x).undoRound now

/-- Stop the BSQ in cycle `now` (R233): every result due from now on is held with its offset, groups in the array with
theirs (R200), and the retirement counts stop (R231). -/
def Tile.freezeAt (x : Tile) (now wall : Nat) (k : FreezeKind) : Tile :=
  match x.freeze with
  | some f =>
    let h := f.handler || (f.kind = .handler && f.resumeAt.isNone)
    { x with freeze := some { f with kind := k, resumeAt := none, handler := k ≠ .handler && h } }
  | none =>
    let y := x.undoNow now
    { y with
      freeze := some { since := now, wall := wall, kind := k }
      bsq := { y.bsq with
        pend := (y.bsq.resNow.map fun e => { e.1 with due := 0 }) ++
          y.bsq.pend.map fun p => { p with due := p.due - now }
        resNow := []
        window := y.bsq.window.map fun r => { r with due := r.due - now }
        stallFrom := none }
      mat := { y.mat with
        groups := y.mat.groups.map fun g => { g with due := g.due - now } } }

/-- Frozen for a save or halted by the keeper: what Q7 and Q8 have accepted runs out (R40, R370). -/
def Tile.saving (x : Tile) : Bool := x.freeze.any fun f => f.kind ≠ .handler

/-- Frozen for a handler, and the matrix unit stands still: its intervals count on at the resume (R234). -/
def Tile.matrixHeld (x : Tile) : Bool := x.freeze.any fun f => f.kind = .handler

/-- Resume in cycle `now` (R234): every held offset counts on from here; frozen time is not timed (R372). -/
def Tile.resumeNow (x : Tile) (now wall : Nat) : Tile :=
  let gone := match x.freeze with
    | some f => now - f.since
    | none => 0
  let lost := match x.freeze with
    | some f => wall - f.wall
    | none => 0
  { x with
    freeze := none
    bsq := { x.bsq with
      pend := x.bsq.pend.map fun p => { p with due := p.due + now }
      window := x.bsq.window.map fun r => { r with due := r.due + now } }
    mat := { x.mat with
      groups := x.mat.groups.map fun g => { g with due := g.due + now }
      queue := x.mat.queue.map fun c =>
        { c with waitFrom := c.waitFrom.map (· + lost), completeAt := if x.matrixHeld then c.completeAt.map (· + gone) else c.completeAt } }
    c0 := { x.c0 with cmds := x.c0.cmds.map fun c => { c with waitFrom := c.waitFrom.map (· + lost) } }
    c1 := { x.c1 with cmds := x.c1.cmds.map fun c => { c with waitFrom := c.waitFrom.map (· + lost) } } }

/-- The faults that no operation raises again by itself. -/
def PendFault.keeps (f : PendFault) : Bool := f.far || (f.async && f.code ≠ watchdogF)

/-- The faults found in this cycle give way to the one that is taken; those nothing raises again are held (R368). -/
def Tile.holdFaults (x : Tile) : Tile := { x with faults := [], held := x.held ++ x.faults.filter (·.keeps) }

/-- Enter S at EVEC (R30): the registers saved, the mode S, the first handler instruction three cycles on (R235). -/
def Tile.enterHandler (x : Tile) (now wall : Nat) (f : PendFault) : Tile :=
  let y := x.holdFaults.freezeAt now wall .handler
  { y with seq := { y.seq with
      csr := { y.seq.csr.saveEvent f with mode := 1#2 }
      pc := y.seq.csr.evec.toNat
      issueAt := now + 3
      waitFrom := none
      fence := none
      strmUntil := none } }

/-- Stop for the keeper (R30, R130): the first event's registers stand when the CSQ is already in S. -/
def Tile.stopForKeeper (x : Tile) (now wall : Nat) (f : PendFault) : Tile :=
  let y := x.holdFaults.freezeAt now wall .keeper
  { y with seq := { y.seq with
      csr := if y.seq.csr.mode = 0#2 then y.seq.csr.saveEvent f else y.seq.csr
      fence := none
      strmUntil := none } }

/-- The cycles from a fault to the keeper's HALTB (R332). -/
abbrev keeperTakes : Nat := 23

/-- A tile that the keeper or a save has stopped already (R370). -/
def Tile.keeperStopped (x : Tile) : Bool :=
  match x.freeze with
  | some f => f.kind ≠ .handler
  | none => false

/-- Take a tile fault (R30, R367): the handler at EVEC where it is directed there, the keeper otherwise; a tile stopped
already only posts it (R370). This is the one operation by which every fault of a tile is taken. -/
def State.takeFault (s : State) (t : Nat) (f : PendFault) : State :=
  let x := s.tile t
  if !x.keeperStopped && s.directed t f then s.setTile t (x.enterHandler s.now s.wall f)
  else
    let y := if x.keeperStopped then { x with faults := [] } else x.stopForKeeper s.now s.wall f
    let k : KFault := { tick := s.tick, tile := t, cycle := x.seq.csr.cycle, fault := f, due := s.now + keeperTakes, drain := x.keeperStopped }
    State.postIn { s.setTile t y with kfaults := s.kfaults ++ [k] } keeperTakes (.keeperContainment x.team)

/-- A far SEMOVF at a tile that runs no unit is a fault of its team (R120). -/
def State.raiseIdle (s : State) (t : Nat) (f : PendFault) : State :=
  let k : KFault := { tick := s.tick, tile := t, cycle := 0#64, fault := { f with epc := 0 }, due := s.now + keeperTakes }
  State.postIn { s with kfaults := s.kfaults ++ [k] } keeperTakes (.keeperContainment (s.tile t).team)

/-- A fault that belongs to no tile is posted to the physical function. -/
def State.packageFault (s : State) (k : Nat) (f : PendFault) : State :=
  let e : KFault := { tick := s.tick, tile := Config.tiles + k, cycle := 0#64, fault := f, due := s.now }
  State.postIn { s with kfaults := s.kfaults ++ [e] } 0 (.keeperContainment 0)

/-- A fault of a keeper sequencer's microcode stops that sequencer and is posted to the physical function (R308). Such a
fault is listed under number 1024 + k. -/
def State.keeperFault (s : State) (k : Nat) (f : PendFault) : State :=
  (s.modSeq (.keeper k) fun q => { q with on := false }).packageFault k f

/-- A memory controller's own write fails at `pa` (R420): posted in the same way, as number 1024 + 64 (log 129). -/
def State.homeFault (s : State) (code pa : Nat) : State :=
  s.packageFault 64 { code := code, slot := 0, eaddr := BitVec.ofNat 64 pa, epc := 0 }

/-- A fault reported on the CSQ of sequencer `q`: slot field 0, EPC the instruction it is reported at; `pc` is the word
address of the access a deferred one is of (R98). -/
def State.csqFaultOf (s : State) (q : SeqId) (code : Nat) (eaddr : Word) (epc : Nat) (pc : Option Nat) : State :=
  match q with
  | .tile t => s.takeFault t { code := code, slot := 0, eaddr := eaddr, epc := epc, pc := pc }
  | .keeper k => s.keeperFault k { code := code, slot := 0, eaddr := eaddr, epc := epc, pc := pc }

/-- A fault of the control instruction at the pc of sequencer `q` (R98). -/
def State.csqFault (s : State) (q : SeqId) (code : Nat) (eaddr : Word) (epc : Nat) : State := s.csqFaultOf q code eaddr epc none

/-- Return from S by ERET issued in cycle `now` (R131, R235): the mode of ESTATUS, both sequencers three cycles on. -/
def Tile.leaveHandler (x : Tile) (now : Nat) : Tile :=
  { x with
    seq := { x.seq with
      csr := { x.seq.csr with mode := x.seq.csr.estatus }
      pc := x.seq.csr.epc.toNat
      issueAt := now + 3
      waitFrom := none }
    freeze := if x.seq.csr.estatus = 0#2 then x.freeze.map fun f => { f with resumeAt := some (now + 3) } else x.freeze }

/-! ## Copy queues -/

def Tile.cq (x : Tile) (u : CmdUnit) : CQueue := match u with | .c1 => x.c1 | _ => x.c0
def Tile.modCq (x : Tile) (u : CmdUnit) (f : CQueue → CQueue) : Tile :=
  match u with
  | .c1 => { x with c1 := f x.c1 }
  | _ => { x with c0 := f x.c0 }
def CQueue.modCmd (q : CQueue) (n : Nat) (f : CCmd → CCmd) : CQueue :=
  { q with cmds := q.cmds.map fun c => if c.serial = n then f c else c }
def CQueue.modLine (q : CQueue) (id : Nat) (f : CLine → CLine) : CQueue :=
  { q with lines := q.lines.map fun l => if l.id = id then f l else l }
def CQueue.cmd? (q : CQueue) (n : Nat) : Option CCmd := q.cmds.find? (·.serial = n)
def State.modCq (s : State) (t : Nat) (u : CmdUnit) (f : CQueue → CQueue) : State := s.modTile t fun x => x.modCq u f
/-- The slot field of a copy queue (R35). -/
def unitSlot (u : CmdUnit) : Nat := match u with | .m => 2 | .c0 => 3 | .c1 => 4

/-- The running command at the head. -/
def CQueue.running (q : CQueue) : Option CCmd :=
  match q.cmds with
  | c :: _ => match c.st with
    | .running _ => some c
    | _ => none
  | [] => none

/-- A running copy command faults at element `e` (R187, R208): it stops there. One that is stopped already raises the
fault again when it next runs, but a keeper's drain posts it (R370). What its later elements have carried is forgotten: they
are performed again from their sources as they then stand. -/
def Tile.faultC (x : Tile) (u : CmdUnit) (serial e code : Nat) (addr : Word) : Tile :=
  match (x.cq u).cmd? serial with
  | none => x
  | some c =>
    let old (q : CQueue) : CQueue := { q with lines := q.lines.map fun l =>
      if l.cmd = serial then { l with stale := some (min e (l.stale.getD e)) } else l }
    let y := x.modCq u fun q => (old q).modCmd serial fun c =>
      { c with
        st := .stopped, nextElem := min e c.nextElem, nextByte := 0, blocked := false, index := none, strong := none
        idxOrd := false, badEl := c.badEl.filter (· < e), wrote := c.wrote.filter (·.1 < e) }
    if c.st = .stopped && !x.keeperStopped then y
    else { y with faults := y.faults ++
      [{ code := code, slot := unitSlot u, bsq := true, cmd := true, eaddr := addr, epc := y.seq.pc, ebaddr := c.baddr
         prog := e }] }

end Sys2Proof.Machine
end

