-- ==== Sys2Proof/Machine/Operands.lean ====
section
/-! DEFINITION. The issue of a control instruction (R97 to R99): hazards of the g registers it names, gates and their
deferred faults, the checks of R68, and the ways an issue ends. Every control form's meaning goes through `issueCtl`. -/
namespace Sys2Proof.Machine
open Sys2Proof

/-- Whether an access returns a value to a g register. -/
def AccKind.returns : AccKind → Bool
  | .load _ | .amo _ | .cas => true
  | .store | .amos _ => false

/-- Whether data comes back to it: a load's or an atomic's, though an AMOS discards its own (R99, R112, R258). -/
def AccKind.data : AccKind → Bool
  | .store => false
  | .load _ | .amo _ | .amos _ | .cas => true

/-- Whether a gate finds the access checked and its data returned (R99): a scratchpad store has had its only checks at
issue. -/
def Acc.returned (a : Acc) (now : Nat) : Bool :=
  if a.performed then !a.kind.data || a.readyAt ≤ now
  else match a.kind with
    | .store => a.parts.all fun p => match p.tgt with
      | some (.spad _ _) => true
      | _ => false
    | _ => false

/-- The access has been released at tile or team scope (R119, R123, R263): it has performed, or it is a store to host memory
that has been sent on the host link. -/
def Acc.released (a : Acc) : Bool :=
  a.performed || (a.fault.isNone && a.stage = .timed && a.kind = .store && a.parts.all fun p => match p.tgt with
    | some (.host _) => true
    | _ => false)

/-- Every earlier Q0 to Q2 operation has been released at tile or team scope. -/
def Seq.allReleased (q : Seq) : Bool := q.accs.all Acc.released

/-- An access on which register `r` still waits. -/
def Acc.owes (a : Acc) (regs : List (BitVec 6)) : Bool :=
  a.kind.returns && !a.performed && a.rd != 0 && regs.any fun r => r.toNat = a.rd

/-- How an issue stands with the accesses and results before it. -/
inductive Hazard where
  | wait
  | fault (code : Nat) (addr : Word) (pc : Nat)
  | go
  deriving DecidableEq, Repr

/-- The failed check of the access is known in cycle `now`. -/
def Acc.failed (a : Acc) (now : Nat) : Bool := a.fault.isSome && a.performAt ≤ now

/-- The earliest deferred fault in program order (R99). -/
def Seq.deferred (q : Seq) (now : Nat) : Option (Nat × Word × Nat) :=
  q.accs.findSome? fun a => if a.failed now then a.fault.map fun f => (f.1, f.2, a.pc) else none

/-- R97 and R99 for an instruction that names `regs` and may be a gate. -/
def Seq.hazard (q : Seq) (now : Nat) (regs : List (BitVec 6)) (gate : Bool) : Hazard :=
  let late := regs.any fun r => r != 0 && now < q.ready.get 0 r.toNat
  if gate && q.accs.any (fun a => !a.failed now && !a.returned now) then .wait
  else if gate && (q.deferred now).isSome || q.accs.any (fun a => a.failed now && a.owes regs) then
    match q.deferred now with
    | some (c, a, p) => .fault c a p
    | none => .wait
  else if late || q.accs.any (fun a => !a.failed now && a.owes regs) then .wait
  else .go

/-- The instruction stands at its issue for another cycle (R141). -/
def State.waitCsq (s : State) : State :=
  s.modSeq s.cur fun q => { q with waitFrom := some (q.waitFrom.getD s.wall) }

/-- Leave the instruction for `pc`, the next issue `gap` cycles on. -/
def Seq.goTo (q : Seq) (now pc gap : Nat) : Seq :=
  { q with
    pc := pc, issueAt := now + gap, waitFrom := none
    accs := q.accs.filter fun a => !(a.performed && a.stage ≠ .signalling && (!a.kind.data || a.readyAt ≤ now)) }

/-- The instruction has issued; the next follows in the next cycle. -/
def Seq.retire (q : Seq) (now : Nat) : Seq := q.goTo now (q.pc + 1) 1

/-- The instruction raises a fault (R98): nothing else of it happens. -/
def State.raise (s : State) (code : Nat) (addr : Word) : State := s.csqFault s.cur code addr (s.seq s.cur).pc

/-- The gate raises the fault of the access at word `pc` instead of issuing; the others are dropped without record (R99). -/
def State.raiseDeferred (s : State) (code : Nat) (addr : Word) (pc : Nat) : State :=
  let r := s.modSeq s.cur fun q => { q with accs := q.accs.filter (·.fault.isNone) }
  r.csqFaultOf r.cur code addr (r.seq r.cur).pc (some pc)

/-- Issue a control instruction: R97 and R99 first, then ILLEGAL_ENC, then PERM (R68), then its effect. -/
def issueCtl (s : State) (regs : List (BitVec 6)) (gate legal permitted : Bool) (eff : Seq → Out') : Out' :=
  match (s.seq s.cur).hazard s.now regs gate with
  | .wait => .next s.waitCsq
  | .fault c a p => .next (s.raiseDeferred c a p)
  | .go =>
    if !legal then .next (s.raise illegalEnc 0#64)
    else if !permitted then .next (s.raise perm 0#64)
    else eff (s.seq s.cur)

/-- The common end: the sequencer changes by `f` and the instruction retires. -/
def State.retireWith (s : State) (f : Seq → Seq) : Out' := .next (s.modSeq s.cur fun q => (f q).retire s.now)

/-- A form that delivers a value to g[rd] after `lat` cycles (R97). -/
def issueValue (s : State) (regs : List (BitVec 6)) (rd : BitVec 6) (lat : Nat) (legal : Bool) (v : Seq → Word) : Out' :=
  issueCtl s (rd :: regs) false legal true fun _ => s.retireWith fun q => q.setG rd (v q) (s.now + lat)

/-- The mode of a sequencer: a keeper sequencer runs in S (R308). -/
def Seq.mode (q : Seq) : BitVec 2 := q.csr.mode

/-- The tile a sequencer belongs to; a keeper sequencer has none (R308). -/
def seqTile? : SeqId → Option Nat
  | .tile t => some t
  | .keeper _ => none

/-- The security controller where it issues a privileged form (R135): it stands on D0, and its mode is F (log 127). -/
def sctSeq : SeqId := .keeper 32

end Sys2Proof.Machine
end

