-- ==== Sys2Proof/Machine/Homes.lean ====
section
/-! DEFINITION. The homes of memory bytes (R259, R341, R342): presence, key tags (R346, R347, R410), error checks and
poison (R373, R374), write counters (R420), the near-memory combiner (R269, R270), hotness samples (R355) and pages in
motion (R359). An access here lies in one 64-byte line. -/
namespace Sys2Proof.Machine
open Sys2Proof

/-! ## Homes and capacity -/

/-- A controller (R341, R376). -/
inductive Home where
  | stack (n : Nat)
  | lpddr
  | expander (e : Nat)
  deriving DecidableEq, Repr

abbrev paTier (pa : Nat) : Nat := pa / 2 ^ 58 % 16
abbrev paByte (pa : Nat) : Nat := pa % 2 ^ 44

/-- The dies of stacks 0 to 11 (R341). -/
def stackDies : List Nat := [0, 1, 2, 3, 4, 7, 8, 11, 12, 13, 14, 15]

/-- The controller a PA names; none for tier P and the tiers never formed. -/
def homeOf (pa : Nat) : Option Home :=
  if pa / 2 ^ 44 % 2 ^ 14 ≠ 0 then none
  else match paTier pa with
    | 0 => some (.stack (paByte pa / 2 ^ 38))
    | 1 => some .lpddr
    | 2 => some (.expander (paByte pa / 2 ^ 40))
    | _ => none

/-- The home die (R4, R6, R341). -/
def Home.die : Home → Nat
  | .stack n => stackDies.getD n 0
  | .lpddr => 3
  | .expander _ => 0

/-- The number of a home in the counters of R376. -/
def Home.index : Home → Nat
  | .stack n => n
  | .lpddr => 12
  | .expander e => 13 + e

/-- The save region at the top of each stack (R438). -/
abbrev saveRegionBytes : Nat := 2 ^ 29

/-- Bytes of a stack that programs may use, without save region and counter tree (R342, R438). -/
def Fitted.usableH (f : Fitted) : Nat := f.gbPerStack * 10 ^ 9

/-- GiB of the smallest linked expander (R342). -/
def Fitted.smallestX (f : Fitted) : Nat :=
  let l := ((List.range 16).filter fun e => bitOf e f.expanders).map fun e => f.gibX.getD e 0
  l.tail.foldl min (l.headD 0)

/-- Whether a PA lies within fitted capacity (R342). -/
def State.present (s : State) (pa : Nat) : Bool :=
  match homeOf pa with
  | some (.stack n) => n < 12 && bitOf n s.fitted.stackMap && paByte pa % 2 ^ 38 < s.fitted.usableH
  | some .lpddr => paByte pa < s.fitted.tierL
  | some (.expander e) => bitOf e s.fitted.expanders && paByte pa % 2 ^ 40 < s.fitted.gibX.getD e 0 * 2 ^ 30
  | none => false

/-- The memory port of R418 a PA lies under. -/
def portOf (pa : Nat) : Option Nat :=
  match homeOf pa with
  | some (.stack n) => if paByte pa / 2 ^ 34 % 16 < 3 then some (3 * n + paByte pa / 2 ^ 34 % 16) else none
  | some .lpddr => some (36 + paByte pa / 2 ^ 38 % 4)
  | some (.expander e) => some (40 + e / 2)
  | none => none

/-- R418: some quire of `qs` is granted the port. -/
def State.pcmOk (s : State) (qs : List Nat) (pa : Nat) : Bool :=
  match portOf pa with
  | some p => qs.any fun q => bitOf p (s.sct.pcm.get 0 q)
  | none => true

/-- R347, R410: an agent of `world` may use the key; `tile` says that it is a tile's. -/
def State.keyOk (s : State) (tile : Bool) (world key : Nat) : Bool :=
  if key = 0 then !tile
  else if key = 255 then true
  else match s.sct.keys.get .free key with
    | .free => false
    | .bound w _ => w = world
    | .scrubbed => true

/-- Something of the package is tagged with a key ID: a frame, or a save area (R324, R410). -/
def State.keyInUse (s : State) (i : Nat) : Bool :=
  (s.mem.tags.any fun e => e.2 = some i) || s.launches.any fun l => l.saveLen ≠ 0 && l.saveKey = i

/-- A scrubbed key ID that tags nothing is to be freed (R410). -/
def State.checkFreed (s : State) (i : Nat) : State :=
  if s.sct.keys.get .free i = .scrubbed && !s.keyInUse i then s.postIn 0 (.keyidFreed i) else s

/-! ## Marks and counters -/

abbrev frameOf (pa : Nat) : Nat := pa / 2 ^ 16
abbrev lineOf (pa : Nat) : Nat := pa / 64

def State.modMem (s : State) (f : Memory → Memory) : State := { s with mem := f s.mem }

/-- Raise a saturating 64-bit counter (R376). -/
def bump (m : NMap Nat) (i : Nat) : NMap Nat := m.set 0 i (min (m.get 0 i + 1) (2 ^ 64 - 1))

def State.linePoisoned (s : State) (pa : Nat) : Bool :=
  s.mem.poison.contains (lineOf pa) ||
  match homeOf pa with
  | some (.stack n) => s.mem.lostStacks.contains n && !s.mem.cured.contains (lineOf pa)
  | _ => false

def State.poisonLine (s : State) (pa : Nat) : State :=
  s.modMem fun m => { m with poison := markIn m.poison (lineOf pa), cured := markOut m.cured (lineOf pa) }

/-- A full-line write of data that is not poisoned (R374). -/
def State.cureLine (s : State) (pa : Nat) : State :=
  s.modMem fun m => { m with
    poison := markOut m.poison (lineOf pa)
    cured := match homeOf pa with
      | some (.stack n) => if m.lostStacks.contains n then markIn m.cured (lineOf pa) else m.cured
      | _ => m.cured
    errs := m.errs.set .clean (lineOf pa) .clean }

def State.countCe (s : State) (pa : Nat) : State :=
  match homeOf pa with
  | some h => { s with errc := { s.errc with ce := bump s.errc.ce h.index } }
  | none => s
def State.countUe (s : State) (pa : Nat) : State :=
  match homeOf pa with
  | some h => { s with errc := { s.errc with ue := bump s.errc.ue h.index } }
  | none => s
def State.countMac (s : State) (pa : Nat) : State :=
  match homeOf pa with
  | some h => { s with errc := { s.errc with mac := bump s.errc.mac h.index } }
  | none => s

/-- Give a frame its key: the tag, and no alias (R364, R410). -/
def State.setTag (s : State) (frame i : Nat) : State :=
  let old := s.mem.tags.get none frame
  let s := s.modMem fun m => { m with tags := m.tags.set none frame (some i), aliases := m.aliases.set [] frame [] }
  match old with
  | some k => s.checkFreed k
  | none => s

/-- What reading a line finds. -/
inductive LineRes where
  | good
  | poisoned
  | macFail
  deriving DecidableEq, Repr

/-- The bytes of data a counter line of level `k` covers (R420). -/
abbrev ctrSpan (k : Nat) : Nat := 2048 * 32 ^ k

/-- A counter line over `pa`, of any level, has failed: a counter-tree failure (R420). -/
def Memory.treeFails (m : Memory) (pa : Nat) : Bool :=
  (m.ctrs.get {} (pa / 2048)).broken || m.upper.any fun e => pa / ctrSpan e.1 = e.2

/-- The failing counter lines above level 0, but for those whose data all lies at selected addresses and is reset with them. -/
def Memory.upperBut (m : Memory) (mine : Nat → Bool) : List (Nat × Nat) :=
  m.upper.filter fun e => !(mine (e.2 * ctrSpan e.1) && mine ((e.2 + 1) * ctrSpan e.1 - 1))

/-- The check of R373, with its counters and marks. A counter-tree failure reads as a MAC failure (R420). -/
def State.checkLine (s : State) (pa : Nat) : State × LineRes :=
  if s.linePoisoned pa then (s, .poisoned)
  else
    match s.mem.errs.get .clean (lineOf pa), s.mem.treeFails pa with
    | .clean, false => (s, .good)
    | .correctable, false => (s.countCe pa, .good)
    | .macBad, _ | .clean, true => ((s.countMac pa).poisonLine pa, .macFail)
    | .correctableMacBad, _ | .correctable, true => (((s.countCe pa).countMac pa).poisonLine pa, .macFail)
    | .uncorrectable, _ => ((s.countUe pa).poisonLine pa, .poisoned)

/-- Raise the write counter of a line (R419, R420); none when MAJOR is exhausted and the write is dropped. -/
def State.raiseCounter (s : State) (pa : Nat) : Option State :=
  let g := s.mem.ctrs.get {} (pa / 2048)
  let n := lineOf pa % 32
  let put (g : CtrGroup) : State := s.modMem fun m => { m with ctrs := m.ctrs.set {} (pa / 2048) g }
  if g.minors.get 0 n < 127 then some (put { g with minors := g.minors.set 0 n (g.minors.get 0 n + 1) })
  else if g.major < 2 ^ 33 - 1 then some (put { g with major := g.major + 1, minors := [] })
  else none

/-- The write counter of a line, MAJOR ‖ MINOR (R420). -/
def State.wctr (s : State) (pa : Nat) : Nat :=
  let g := s.mem.ctrs.get {} (pa / 2048)
  g.major * 128 + g.minors.get 0 (lineOf pa % 32)

/-- The counter of a frame (R355): in tier H the cold periods since its last sampled access. -/
def Memory.hotness (m : Memory) (frame : Nat) : Nat :=
  if paTier (frame * 2 ^ 16) = 0 then min 15 (m.periods - m.hot.get 0 frame) else m.hot.get 0 frame

/-- Count an access for R355: every 16th of a controller is sampled. -/
def State.sample (s : State) (pa : Nat) : State :=
  match homeOf pa with
  | none => s
  | some h =>
    let c := s.mem.hotPos.get 0 h.index + 1
    if c < 16 then s.modMem fun m => { m with hotPos := m.hotPos.set 0 h.index c }
    else s.modMem fun m => { m with
      hotPos := m.hotPos.set 0 h.index 0
      hot := m.hot.set 0 (frameOf pa)
        (if paTier pa = 0 then m.periods + 1 else min 15 (m.hot.get 0 (frameOf pa) + 1)) }

/-! ## The combiner (R270) -/

/-- The device's view of the byte at `pa`: the combiner's, where it holds the word. -/
def Memory.deviceByte (m : Memory) (pa : Nat) : Byte :=
  match m.comb.find? fun e => e.addr ≤ pa && pa < e.addr + e.width with
  | some e => BitVec.ofNat 8 (e.value / 256 ^ (pa - e.addr))
  | none => NMap.get 0#8 m.cells pa

def Memory.deviceBytes (m : Memory) (pa n : Nat) : List Byte := (List.range n).map fun i => m.deviceByte (pa + i)

/-- Write a byte where a device's write goes: into the combiner where it holds the word. -/
def Memory.putDevice (m : Memory) (now pa : Nat) (b : Byte) : Memory :=
  if m.comb.any fun e => e.addr ≤ pa && pa < e.addr + e.width then
    { m with comb := m.comb.map fun e =>
        if e.addr ≤ pa && pa < e.addr + e.width then
          let k := 256 ^ (pa - e.addr)
          { e with value := e.value - e.value / k % 256 * k + b.toNat * k, lastAccess := now }
        else e }
  else { m with cells := NMap.set 0#8 m.cells pa b }

def Memory.putDeviceBytes (m : Memory) (now pa : Nat) : List Byte → Memory
  | [] => m
  | b :: t => (m.putDevice now pa b).putDeviceBytes now (pa + 1) t

/-- A device access keeps the entries it meets (R270). -/
def Memory.touch (m : Memory) (now pa n : Nat) : Memory :=
  { m with comb := m.comb.map fun e =>
      if pa < e.addr + e.width && e.addr < pa + n then { e with lastAccess := now } else e }

/-- Write an entry back, as one write of the aligned word, and free it; past the last MAJOR it is dropped with INTEGRITY
(R420). -/
def State.writeBack (s : State) (e : CombEnt) : State :=
  let s1 := s.modMem fun m => { m with comb := m.comb.filter fun x => x.addr ≠ e.addr || x.width ≠ e.width }
  match s1.raiseCounter e.addr with
  | none => s1.homeFault integrity e.addr
  | some s2 =>
    let s3 := (s2.checkLine e.addr).1
    s3.modMem fun m => { m with cells := writeBytes m.cells e.addr (bytesOf e.width e.value) }

/-- Write back every entry that `p` selects. -/
def State.writeBackAll (s : State) (p : CombEnt → Bool) : State := (s.mem.comb.filter p).foldl State.writeBack s

/-! ## Pages in motion (R358, R359) -/

def State.moving? (s : State) (pa : Nat) : Option MigSlot :=
  s.mig.find? fun m => m.moving && frameOf m.src = frameOf pa

/-- The state of the line of `pa`; of a page whose move is being given up, the source serves every line (R362), once the
updates that wait on one have performed. -/
def MigSlot.lineSt (m : MigSlot) (pa : Nat) : LineSt :=
  let l := pa % 2 ^ 16 / 64
  if m.cause ≠ 0 then (if l = m.line && !m.held.isEmpty then .copying else .pending)
  else if l < m.doneLines ∨ (m.early ∧ l = m.line) then .done
  else if m.copying && l = m.line then .copying else .pending

/-- The byte of the destination frame that stands for `pa`. -/
def MigSlot.destPa (m : MigSlot) (pa : Nat) : Nat := frameOf m.req.dest * 2 ^ 16 + pa % 2 ^ 16

def State.modSlot (s : State) (n : Nat) (f : MigSlot → MigSlot) : State :=
  { s with mig := s.mig.map fun m => if m.slot = n then f m else m }

/-- An update waits on slot `k`'s line in motion, after those that wait already (R359). -/
def State.waitLine (s : State) (k : Nat) (w : Waiter) : State := s.modSlot k fun m => { m with held := m.held ++ [w] }

/-- A cause of R362 has been met: the source serves every line from now on, and the abort follows. -/
def State.failMove (s : State) (n cause : Nat) : State :=
  if s.mig.any fun m => m.slot = n && m.phase = 0 && m.cause = 0 then
    (s.modSlot n fun m => { m with cause := cause }).postIn 0 (.migrationAbort n cause)
  else s

/-- The counter tree has failed somewhere at a home of the slot (R362, R420). -/
def State.treeBad (s : State) (m : MigSlot) : Bool :=
  let here (pa : Nat) : Bool := homeOf pa = homeOf m.src || homeOf pa = homeOf m.req.dest
  (s.mem.ctrs.any fun e => e.2.broken && here (e.1 * 2048)) || s.mem.upper.any fun e => here (e.2 * ctrSpan e.1)

/-! ## Accesses at a home -/

/-- What a home answers. -/
inductive MemRes (α : Type) where
  | ok (v : α)
  | fault (code : Nat)
  | held (slot : Nat)          -- until the line in motion is DONE (R359)

def State.scrubbedKey (s : State) (k : Nat) : Bool := s.sct.keys.get .free k = .scrubbed

/-- The key ID a line is encrypted under: its frame's tag, but for a DONE line of a frame being rotated the new one
(R364). -/
def State.lineKey (s : State) (tag pa : Nat) : Nat :=
  match s.moving? pa with
  | some m => if m.req.rot.isSome && m.lineSt pa = .done then m.newKey else tag
  | none => tag

/-- Presence, key tag and scrubbed keys at the home (R140, R342, R346); an old key ID is accepted on rotated frames
(R364). -/
def State.homeCheck (s : State) (pa key : Nat) : Option Nat :=
  if !s.present pa then some notPresent
  else match s.mem.tags.get none (frameOf pa) with
    | none => some keyMismatch
    | some k =>
      if k ≠ key ∧ ¬ (s.mem.aliases.get [] (frameOf pa)).contains key then some keyMismatch
      else if s.scrubbedKey (s.lineKey k pa) then some integrity
      else none

/-- A read of `n` bytes within a line where it lies: the bytes and whether they are poisoned. A host read sees the
controller's bytes, a device read the combiner's (R270). -/
def State.readHere (s : State) (host : Bool) (pa n key : Nat) : State × MemRes (List Byte × Bool) :=
  match s.homeCheck pa key with
  | some c => (s, .fault c)
  | none =>
    let bytes := if host then readBytes s.mem.cells pa n else s.mem.deviceBytes pa n
    let s1 := (s.sample pa).modMem fun m => if host then m else m.touch s.now pa n
    match s1.checkLine pa with
    | (s2, .good) => (s2, .ok (bytes, false))
    | (s2, .poisoned) => (s2, .ok (bytes, true))
    | (s2, .macFail) => (s2, .fault integrity)

/-- A read within a line (R359). A DONE line of a page in motion is read at its destination; where that read fails, or
finds poison that was not carried, the move is given up and the source is read (R362). -/
def State.homeRead (s : State) (host : Bool) (pa n key : Nat) : State × MemRes (List Byte × Bool) :=
  match s.moving? pa with
  | none => s.readHere host pa n key
  | some m =>
    if m.lineSt pa = .done ∧ frameOf m.req.dest ≠ frameOf m.src then
      if m.phase ≠ 0 then s.readHere host (m.destPa pa) n key
      else match s.readHere host (m.destPa pa) n key with
        | (s1, .ok (bs, false)) => (s1, .ok (bs, false))
        | (s1, .ok (bs, true)) =>
          if s1.linePoisoned pa then (s1, .ok (bs, true))
          else (s1.failMove m.slot (if s1.treeBad m then 3 else 1)).readHere host pa n key
        | (s1, _) => (s1.failMove m.slot (if s1.treeBad m then 3 else 1)).readHere host pa n key
    else s.readHere host pa n key

/-- A write of bytes within a line at one place, its checks passed (R374, R419). A partial write checks its line first;
poisoned data marks the line. -/
def State.putLine (s : State) (host poison checked : Bool) (pa : Nat) (bs : List Byte) : Option State :=
  let full := bs.length = 64
  let s1 := if full || checked then s else (s.checkLine pa).1
  match s1.raiseCounter pa with
  | none => none
  | some s2 =>
    let s3 := s2.modMem fun m =>
      if host then { m with cells := writeBytes m.cells pa bs } else m.putDeviceBytes s.now pa bs
    some (if poison then s3.poisonLine pa else if full then s3.cureLine pa else s3)

/-- A write within a line (R359, R374); `checked` when the access has read and checked the line already. -/
def State.homeWrite (s : State) (host poison checked : Bool) (pa key : Nat) (bs : List Byte) : State × MemRes Unit :=
  match s.homeCheck pa key with
  | some c => (s, .fault c)
  | none =>
    let here (s : State) : State × MemRes Unit :=
      match (if checked then s else s.sample pa).putLine host poison checked pa bs with
      | some s1 => (s1, .ok ())
      | none => (s, .fault integrity)
    match s.moving? pa with
    | none => here s
    | some m =>
      match m.lineSt pa with
      | .pending => here s
      | .copying => (s, .held m.slot)
      | .done =>
        match here s with
        | (s1, .ok ()) =>
          if frameOf m.req.dest = frameOf pa then (s1, .ok ())
          else match s1.putLine host poison false (m.destPa pa) bs with
            | some s2 => (s2, .ok ())
            | none => if m.phase = 0 then (s1.failMove m.slot 1, .ok ()) else (s1, .fault integrity)
        | r => r

/-- Copy the line a slot is at: the source is read, and the destination written with the poison it carries; none where the
write fails, as it does under a scrubbed key (R140). -/
def State.copyMoving (s : State) (m : MigSlot) : Option State :=
  let src := m.src + m.doneLines * 64
  let dst := m.req.dest + m.doneLines * 64
  let tagScrubbed (pa : Nat) : Bool := match s.mem.tags.get none (frameOf pa) with
    | some k => s.scrubbedKey k
    | none => false
  if tagScrubbed src ∨ tagScrubbed dst ∨ s.scrubbedKey m.newKey then none
  else
    let (s, r) := s.checkLine src
    s.putLine false (r != LineRes.good) true dst (s.mem.deviceBytes src 64)

/-- A destination line of the slot is poisoned though its source is not (R362). -/
def State.destBad (s : State) (m : MigSlot) : Bool :=
  frameOf m.req.dest ≠ frameOf m.src && s.mem.poison.any fun l =>
    l / 1024 = frameOf m.req.dest && l % 1024 < m.doneLines && !s.linePoisoned (m.src + l % 1024 * 64)

/-- Copy the line slot `n` is at, or give the move up for a cause of R362. -/
def State.copyNow (s : State) (m : MigSlot) : State :=
  if s.treeBad m then s.failMove m.slot 3
  else if s.destBad m then s.failMove m.slot 1
  else match s.copyMoving m with
    | none => s.failMove m.slot 1
    | some s => s.modSlot m.slot fun m => { m with early := true }

/-- What an atomic does: a function of R71, or a compare with its comparand. -/
inductive AtomOp where
  | fn (f : Nat)
  | cas (cmp : Nat)
  deriving DecidableEq, Repr

/-- The new value of an atomic of `w` bytes; none when a CAS fails and writes nothing (R110, R111). -/
def AtomOp.new (o : AtomOp) (w old v : Nat) : Option Nat :=
  match o with
  | .fn f => some (amoNew f (8 * w) old (v % 256 ^ w))
  | .cas c => if old = c % 256 ^ w then some (v % 256 ^ w) else none

/-- An atomic at a home: the old value. A device atomic of an SA = 0 page of tier H or L goes to the combiner (R269,
R270); the others, and those of a page in motion, to the controller. -/
def State.homeAtomic (s : State) (host sa : Bool) (pa w key : Nat) (o : AtomOp) (v : Nat) : State × MemRes Nat :=
  match s.homeCheck pa key with
  | some c => (s, .fault c)
  | none =>
    let held := match s.moving? pa with
      | some m => if m.lineSt pa = LineSt.copying then some m.slot else none
      | none => none
    match held with
    | some k => (s, .held k)
    | none =>
      match (s.sample pa).checkLine pa with
      | (s1, .poisoned) => (s1, .fault poisonF)
      | (s1, .macFail) => (s1, .fault integrity)
      | (s1, .good) =>
        let comb := !host && !sa && paTier pa < 2 && (s1.moving? pa).isNone
        if comb then
          let s2 := s1.writeBackAll fun (e : CombEnt) => (pa < e.addr + e.width && e.addr < pa + w) && (e.addr ≠ pa || e.width ≠ w)
          let old := natOf (s2.mem.deviceBytes pa w)
          let entry : CombEnt :=
            { addr := pa, width := w, value := (o.new w old v).getD old, lastAccess := s.now, keyId := key }
          let first := !s2.mem.comb.any fun e => e.addr = pa && e.width = w
          let s3 := s2.modMem fun m => { m with comb := m.comb.filter (fun e => e.addr ≠ pa || e.width ≠ w) ++ [entry] }
          (if first then s3.postIn 1024 (.combinerWriteback pa) else s3, .ok old)
        else
          let old := if host then natOf (readBytes s1.mem.cells pa w) else natOf (s1.mem.deviceBytes pa w)
          match o.new w old v with
          | none => (s1, .ok old)
          | some n =>
            match s1.homeWrite host false true pa key (bytesOf w n) with
            | (s2, .ok ()) => (s2, .ok old)
            | (s2, .fault c) => (s2, .fault c)
            | (s2, .held k) => (s2, .held k)

/-- A combiner entry is written back 1024 cycles after its last device access (R270). -/
def execCombinerWriteback (addr : Nat) (s : State) : Out' :=
  match s.mem.comb.find? fun e => e.addr = addr with
  | none => .refused (.notEnabled "COMBINER_WRITEBACK")
  | some e =>
    if e.lastAccess + 1024 ≤ s.now then .next (s.writeBack e)
    else .next (s.post (e.lastAccess + 1024) (.combinerWriteback addr))

/-! ## Host bytes (R259, R353) -/

/-- Host bytes: those the part has written or learnt, and free values for the rest. -/
def State.readHost (s : State) (a : Nat) : Nat → State × List Byte
  | 0 => (s, [])
  | n + 1 =>
    let (s1, b) := match s.mem.hostCells.find? fun c => c.1 = a with
      | some c => (s, c.2)
      | none => ({ s with fresh := s.fresh + 1 }, Config.freeHostByte s.fresh)
    let (s2, t) := s1.readHost (a + 1) n
    (s2, b :: t)

def State.writeHost (s : State) (a : Nat) (bs : List Byte) : State :=
  (s.modMem fun m => { m with hostCells := (bs.zipIdx.foldl (fun c (b, i) => NMap.insert c (a + i) b) m.hostCells) }).emit
    (.hostWrite a bs)

end Sys2Proof.Machine
end

