-- ==== Sys2Proof/Machine/Registers.lean ====
section
/-! DEFINITION. The registers of the keeper operation block (R311, R319, R342, R376, R402, R403), read and written by
keeper sequencers and by the physical function. -/
namespace Sys2Proof.Machine
open Sys2Proof

/-- The free tiles of a quire, one bit a tile by its place in the quire (R311). -/
def State.freeTiles (s : State) (q : Nat) : Nat :=
  ((List.range 16).filter fun i =>
    let t := q / 4 * 64 + (q / 2 % 2 * 4 + i / 4) * 8 + (q % 2 * 4 + i % 4)
    (s.tile t).use = .free && !(s.die (q / 4)).resetting && !(s.die (q / 4)).held).foldl (fun a i => a + 2 ^ i) 0

/-- The counters of the sixteen frames from HOTADDR (R342, R355). -/
def State.hotRd (s : State) : Nat :=
  ((List.range 16).map fun i => s.mem.hotness (frameOf s.kblock.hotaddr + i) % 16 * 16 ^ i).sum

/-- Frames in use (R402). -/
def Fabric.liveFrames (f : Fabric) : Nat := (f.frames.filter (·.2.isSome)).length

/-- A register of the block; an offset the manual does not list reads zero. -/
def State.regRead (s : State) (off : Nat) : Nat :=
  let f := s.fabric
  if 0x200 ≤ off ∧ off < 0x200 + 32 * 29 then
    let h := (off - 0x200) / 32
    match off % 32 with
    | 0x00 => s.errc.ce.get 0 h
    | 0x08 => s.errc.ue.get 0 h
    | 0x10 => s.errc.mac.get 0 h
    | 0x18 => s.errc.pnote.get 0 h
    | _ => 0
  else if 0x5A0 ≤ off ∧ off < 0x5A0 + 16 * 16 then
    let d := (off - 0x5A0) / 16
    match (off - 0x5A0) % 16 with
    | 0 => s.errc.sce.get 0 d
    | 8 => s.errc.sue.get 0 d
    | _ => 0
  else if 0x840 ≤ off ∧ off < 0x880 ∧ off % 8 = 0 then
    let (k, m) := f.fcode.get (8, 2) ((off - 0x840) / 8)
    k + m * 256
  else if 0x900 ≤ off ∧ off < 0x980 ∧ off % 8 = 0 then f.ctrs.get 0 off
  else match off with
    | 0x010 => s.kblock.kest.toNat
    | 0x030 => (if s.now < s.kblock.busyUntil then 1 else 0) + s.kblock.reason * 256
    | 0x038 => s.freeTiles s.kblock.kfree
    | 0x108 => (512 - s.mig.length) + s.migWait.length * 2 ^ 16
    | 0x118 => s.hotRd
    | 0x120 => s.fitted.stackMap + s.fitted.gbPerStack * 2 ^ 32
    | 0x128 => s.fitted.tierL
    | 0x130 => s.fitted.expanders + s.fitted.smallestX * 2 ^ 32
    | 0x138 => s.kblock.prilate
    | 0x800 => f.mypkg
    | 0x808 => f.frtsrc
    | 0x818 => (if s.now < f.busyUntil then 1 else 0) + f.ports * 2 ^ 16 + f.liveFrames * 2 ^ 32
    | 0x880 => f.tfrag
    | 0x888 => f.tdrain
    | 0x890 => f.tack
    | 0x8A0 => f.xtbase
    | 0x8A8 => f.xtcount
    | _ => 0

/-- An operation written while another runs waits for it (R311); how long one runs is free. -/
def State.keeperOp (s : State) (i : Instr) : State :=
  let at_ := max s.now s.kblock.busyUntil
  { s with
    fresh := s.fresh + 1
    kblock := { s.kblock with busyUntil := at_ + 1 + Config.freeDelay s.fresh } }.post at_ i

/-- A write to the block. The operations of R311, R342 and R386 are steps of their own; a write that breaks a limit is
ignored (R402). `k` is the keeper sequencer that writes, `pf` says that the physical function does. -/
def State.regWrite (s : State) (k : Nat) (pf : Bool) (off : Nat) (v : Word) : State :=
  let n := v.toNat
  let f := s.fabric
  let fab (g : Fabric → Fabric) : State := { s with fabric := g s.fabric }
  if 0x840 ≤ off ∧ off < 0x880 ∧ off % 8 = 0 then
    let fk := bitsOf 4 0 n
    let fm := bitsOf 10 8 n
    if (fk = 4 ∨ fk = 8 ∨ fk = 12 ∨ fk = 16) ∧ 1 ≤ fm ∧ fm ≤ 4 then
      fab fun f => { f with fcode := f.fcode.set (8, 2) ((off - 0x840) / 8) (fk, fm) }
    else s
  else match off with
    | 0x000 => s.keeperOp (.kplace k v)
    | 0x008 => s.keeperOp (.kpreempt k v)
    | 0x018 => s.keeperOp (.kresume k v)
    | 0x020 => s.keeperOp (.kreject k v)
    | 0x028 => s.keeperOp (.kreport k v)
    | 0x038 => s.postIn 0 (.kfree k v)
    | 0x100 => s.postIn 0 (.migreq n pf)
    | 0x110 => if n % 2 ^ 20 = 0 then { s with kblock := { s.kblock with hotaddr := n } } else s
    | 0x800 => fab fun f => { f with mypkg := n % 1024 }
    | 0x808 => if n % 64 = 0 ∧ paTier n = 0 then fab fun f => { f with frtsrc := n } else s
    | 0x810 =>
      let at_ := max s.now f.busyUntil
      if 1 ≤ bitsOf 20 10 n ∧ bitsOf 9 0 n + bitsOf 20 10 n ≤ 1024 then
        { s with
          fresh := s.fresh + 1
          fabric := { f with busyUntil := at_ + 1 + Config.freeDelay s.fresh } }.post at_ (.frtload (bitsOf 9 0 n) (bitsOf 20 10 n))
      else s
    | 0x880 => if n % 2 ^ 16 ≠ 0 then fab fun f => { f with tfrag := n % 2 ^ 16 } else s
    | 0x888 => if n % 2 ^ 16 ≠ 0 then fab fun f => { f with tdrain := n % 2 ^ 16 } else s
    | 0x890 => if 4 * s.fabric.tfrag + 1000 ≤ n % 2 ^ 32 then
        -- the timers of what is sent run by the new value
        s.fabric.tx.foldl (fun (s : State) t => if t.seq.isSome && !t.acked then
          s.postTick (max s.tick (t.sealedAt + n % 2 ^ 32)) (.tackExpiry t.id) else s) (fab fun f => { f with tack := n % 2 ^ 32 })
      else s
    | 0x8A0 => fab fun f => { f with xtbase := n }
    | 0x8A8 => if n % 2 ^ 13 ≤ 4096 then fab fun f => { f with xtcount := n % 2 ^ 13 } else s
    | _ => s

end Sys2Proof.Machine
end

