-- ==== Sys2Proof/Machine/Translate.lean ====
section
/-! DEFINITION. Translation (R341 to R354): the heap window, page tables and leaves, the checks of R346, TLBs, the walk
cache and the start of a walk. -/
namespace Sys2Proof.Machine
open Sys2Proof

/-- Who translates: its die, its tile if it has a micro-TLB, and the quires R418 checks (none: an agent not checked). -/
structure Agent where
  die : Nat
  tile : Option Nat := none
  quires : Option (List Nat) := none
  deriving DecidableEq, Repr

/-- The die a sequencer stands on (R308). -/
def seqDie : SeqId → Nat
  | .tile t => dieOf t
  | .keeper k => if k < 32 then k / 2 else 0

/-- The quires a mask names. -/
def quiresOf (mask : Nat) : List Nat := (List.range 64).filter fun q => bitOf q mask

/-- A tile's CSQ and copy engine. -/
def tileAgent (t : Nat) : Agent := { die := dieOf t, tile := some t, quires := some [quireOf t] }

/-- The VD whose default context is `c`. -/
def State.vdIn (s : State) (c : TransCtx) : Option Vd :=
  (s.vds.filterMap Prod.snd).find? fun v => v.world = c.world.toNat && v.ctx.asid.toNat % 4096 = c.asid.toNat % 4096

/-- A sequencer that accesses under context `c`: a keeper sequencer acts for the VD whose default context that is (R418; log
49), the security controller for none. -/
def State.agentOf (s : State) (q : SeqId) (c : TransCtx) : Agent :=
  match q with
  | .tile t => tileAgent t
  | .keeper k => { die := seqDie q, quires := if k < 32 then (s.vdIn c).map fun v => quiresOf v.quires else none }

abbrev TransCtx.asidNo (c : TransCtx) : Nat := c.asid.toNat % 4096
abbrev TransCtx.gen (c : TransCtx) : Nat := c.asid.toNat / 4096

/-- Bits [15:0] of a window register read as zero (R343). -/
abbrev low16 (w : Word) : Nat := w.toNat / 2 ^ 16 * 2 ^ 16

/-- The heap window (R343): the PA, where it covers the DVA. -/
def TransCtx.window (c : TransCtx) (dva : Nat) : Option Nat :=
  if low16 c.hwbase ≤ dva ∧ dva < low16 c.hwlimit then some ((dva + low16 c.hwoffset) % 2 ^ 62) else none

/-- The checks of R346 between the leaf and the home, for an agent of `world`. -/
def State.pageCheck (s : State) (ag : Agent) (world : Nat) (tgt : Target) (a : PageAttr) (need : Need) : Option Nat :=
  let rights := match need with
    | .read => a.r
    | .write => a.w
    | .atomic _ _ => a.r && a.w
  let atom := match need with
    | .atomic al hf => al && a.a && a.typ ≠ 1 && (hf || match tgt with | .host _ => false | _ => true)
    | _ => true
  let port := match tgt, ag.quires with
    | .mem pa, some qs => s.pcmOk qs pa
    | _, _ => true
  if !rights then some perm
  else if !atom then some atomicType
  else if !s.keyOk ag.tile.isSome world a.keyId then some perm
  else if !port then some perm
  else none

/-! ## Page tables (R344, R345, R353) -/

/-- How a walk ends. -/
inductive WalkEnd where
  | leaf (bits : Nat) (tgt : Target) (attr : PageAttr)
  | delegated (attr : PageAttr)
  | fault (code : Nat)
  deriving DecidableEq, Repr

/-- The offset bits below level `n` (R344). -/
def levelBits : Nat → Nat
  | 1 => 46
  | 2 => 36
  | 3 => 26
  | _ => 16

/-- A level-1 leaf (R353); none when malformed. -/
def delegationOf (e : Nat) : Option PageAttr :=
  let allowed := 0b11 + 0b11100 + 0b11000000 + 255 * 2 ^ 10
  if e / 2 ^ 10 % 256 = 255 ∧ e &&& allowed = e then
    some { keyId := 255, typ := e / 64 % 4, a := bitOf 4 e, r := bitOf 2 e, w := bitOf 3 e }
  else none

/-- A leaf of levels 2 to 4 (R345); none when malformed. -/
def leafOf (level e : Nat) : Option (Target × PageAttr) :=
  let tier := bitsOf 9 8 e
  let frame := bitsOf 63 36 e
  let zeros := bitsOf 35 30 e = 0
    ∧ (tier = 3 ∨ (bitOf 28 e = false ∧ bitOf 29 e = false))
    ∧ (bitOf 18 e = false ∨ (level = 4 ∧ tier ≠ 3))
    ∧ frame % 2 ^ (levelBits level - 16) = 0
  let attr : PageAttr :=
    { keyId := bitsOf 17 10 e, typ := bitsOf 7 6 e, sa := bitOf 5 e, a := bitOf 4 e, r := bitOf 2 e, w := bitOf 3 e }
  if zeros then
    some (if tier = 3 then .peer (bitsOf 28 19 e) ((if bitOf 29 e then 2 ^ 58 else 0) + frame * 2 ^ 16)
      else .mem (tier * 2 ^ 58 + frame * 2 ^ 16), attr)
  else none

/-- The table a non-leaf entry names (R344), TL and address; none when malformed. -/
def tableOf (e : Nat) : Option Nat :=
  if bitsOf 12 3 e = 0 ∧ bitsOf 63 44 e = 0 then some ((if bitOf 2 e then 2 ^ 58 else 0) + bitsOf 43 13 e * 2 ^ 13) else none

/-- PTROOT's table (R344); none for a context without one. -/
def TransCtx.root (c : TransCtx) : Option Nat :=
  let r := c.ptroot.toNat
  if r = 0 ∨ bitsOf 12 1 r ≠ 0 ∨ bitsOf 63 44 r ≠ 0 then none
  else some ((if bitOf 0 r then 2 ^ 58 else 0) + bitsOf 43 13 r * 2 ^ 13)

/-- What a walk has done: entries read, the tables it passed and its end. -/
structure WalkOut where
  n : Nat := 0
  seen : List WalkEnt := []
  fin : WalkEnd := .fault notPresent
  deriving DecidableEq, Repr

/-- What one entry says (R344, R345, R353): the next table, or the walk's end. -/
def entryMeans (level e : Nat) : Except WalkEnd Nat :=
  if !bitOf 0 e then .error (.fault notPresent)
  else if bitOf 1 e then
    if level = 1 then match delegationOf e with
      | some a => .error (.delegated a)
      | none => .error (.fault notPresent)
    else match leafOf level e with
      | some (t, a) => .error (.leaf (levelBits level) t a)
      | none => .error (.fault notPresent)
  else if 4 ≤ level then .error (.fault notPresent)
  else match tableOf e with
    | some next => .ok next
    | none => .error (.fault notPresent)

/-! ## Notify pages (R432) -/

/-- The register a queue's NTFY names lies in its VD's notify page: the page of that DVA is where the keeper maps it
(log 117). -/
def Umq.maps (q : Umq) (page : Nat) : Bool := q.ntfy ≠ 0 && q.ntfy % 2 ^ 16 = 8 * q.qnum && q.ntfy / 2 ^ 16 = page

/-- The frame of a VD's notify page: a frame of tier H in the firmware region (R432). -/
def State.notifyFrame (s : State) (vd : Nat) : Nat :=
  let stack := ((List.range 12).find? fun n => bitOf n s.fitted.stackMap).getD 0
  stack * 2 ^ 22 + Config.firmwareFrame % (s.fitted.usableH / 2 ^ 16 - 64) + vd

/-- What the keeper has mapped at a DVA of a context: the notify page of a VD whose default context it is, TYPE device and
key ID 255. -/
def State.notifyLeaf (s : State) (c : TransCtx) (dva : Nat) : Option WalkEnd :=
  s.vds.findSome? fun e => match e.2 with
    | some v =>
      if v.world = c.world.toNat && v.ctx.asidNo = c.asidNo && v.queues.any (·.maps (dva / 2 ^ 16)) then
        some (.leaf 16 (.mem (s.notifyFrame v.vd * 2 ^ 16)) { keyId := 255, typ := 2 })
      else none
    | none => none

/-- Read the entry of a DVA in a table of `level`, at its home as a load (R349). -/
def State.readEntry (s : State) (c : TransCtx) (dva level table : Nat) : State × Except WalkEnd Nat :=
  match s.homeRead false (table + dva / 2 ^ levelBits level % 1024 * 8) 8 c.hwkey.toNat with
  | (s1, .fault code) => (s1, .error (.fault code))
  | (s1, .held _) => (s1, .error (.fault notPresent))
  | (s1, .ok (_, true)) => (s1, .error (.fault poisonF))
  | (s1, .ok (bs, false)) => (s1, entryMeans level (natOf bs))

/-- A step of a walk: the entry as it stands, or the leaf the keeper has mapped there. -/
def State.walkStep (s : State) (c : TransCtx) (dva level table : Nat) : State × Except WalkEnd Nat :=
  match s.readEntry c dva level table with
  | (s, .ok next) => (s, .ok next)
  | (s, .error e) => (s, .error ((s.notifyLeaf c dva).getD e))

/-- The walk-cache entry a step to table `next` of `level` gives. -/
def TransCtx.walkEnt (c : TransCtx) (dva level next : Nat) : WalkEnt :=
  { world := c.world.toNat, asid := c.asidNo, gen := c.gen, level := level
    idx := dva / 2 ^ levelBits (level - 1), table := next % 2 ^ 58, tierL := next / 2 ^ 58 = 1 }

/-- Walk from a table of `level`; the fuel is the levels left. -/
def walkFrom : Nat → State → TransCtx → Nat → Nat → Nat → WalkOut → State × WalkOut
  | 0, s, _, _, _, _, o => (s, o)
  | fuel + 1, s, c, dva, level, table, o =>
    match s.walkStep c dva level table with
    | (s1, .error e) => (s1, { o with n := o.n + 1, fin := e })
    | (s1, .ok next) =>
      walkFrom fuel s1 c dva (level + 1) next { o with n := o.n + 1, seen := o.seen ++ [c.walkEnt dva (level + 1) next] }

/-- The deepest table a die's walk cache gives a DVA. -/
def Die.walkHit (d : Die) (c : TransCtx) (dva level : Nat) : Option WalkEnt :=
  d.wcache.find? fun w => w.world = c.world.toNat && w.asid = c.asidNo && w.gen = c.gen && w.level = level &&
    w.idx = dva / 2 ^ levelBits (level - 1)

/-- The level and table a walk of a context with a page table starts at, its walk cache consulted (R349). -/
def Die.walkStart (d : Die) (c : TransCtx) (dva : Nat) : Nat × Nat :=
  let tab (w : WalkEnt) : Nat := w.table + if w.tierL then 2 ^ 58 else 0
  match d.walkHit c dva 4, d.walkHit c dva 3, d.walkHit c dva 2 with
  | some w, _, _ => (4, tab w)
  | none, some w, _ => (3, tab w)
  | none, none, some w => (2, tab w)
  | none, none, none => (1, c.root.getD 0)

/-- A whole walk on a die as its tables stand. -/
def State.walk (s : State) (die : Nat) (c : TransCtx) (dva : Nat) : State × WalkOut :=
  let (level, table) := (s.die die).walkStart c dva
  walkFrom (5 - level) s c dva level table {}

/-! ## TLBs (R349, R350) -/

def TlbEnt.matches (e : TlbEnt) (c : TransCtx) (dva : Nat) : Bool :=
  e.world = c.world.toNat && e.asid = c.asidNo && e.gen = c.gen && e.page = dva / 2 ^ e.bits

/-- Add an entry; the oldest of a full TLB goes. -/
def addTlb (cap : Nat) (l : List TlbEnt) (e : TlbEnt) : List TlbEnt :=
  let l := l.filter (· ≠ e)
  (if l.length < cap then l else l.drop 1) ++ [e]

/-- A place `off` bytes into a page. -/
def Target.plus (t : Target) (off : Nat) : Target :=
  match t with
  | .spad u o => .spad u (o + off)
  | .mem pa => .mem (pa + off)
  | .host a => .host (a + off)
  | .peer p pa => .peer p (pa + off)
  | .reg o => .reg (o + off)

def Target.isMem : Target → Bool
  | .mem _ => true
  | _ => false

/-- A translation found without a walk. -/
inductive Xlat where
  | ok (tgt : Target) (attr : PageAttr) (add : Nat)
  | fault (code add : Nat)
  | miss
  deriving DecidableEq, Repr

/-- Put an entry into the micro-TLB of a tile. -/
def State.addMicro (s : State) (tile : Option Nat) (e : TlbEnt) : State :=
  match tile with
  | some t => s.modTile t fun x => { x with utlb := addTlb 64 x.utlb e }
  | none => s

/-- Drop an entry from the TLBs an agent looks in. -/
def State.dropTlb (s : State) (ag : Agent) (e : TlbEnt) : State :=
  let s := s.modDie ag.die fun d => { d with tlb := d.tlb.filter (· ≠ e) }
  match ag.tile with
  | some t => s.modTile t fun x => { x with utlb := x.utlb.filter (· ≠ e) }
  | none => s

/-- The memory type of the page a DVA has as the tables stand, 0 outside them. -/
def State.typeOf (s : State) (die : Nat) (c : TransCtx) (dva : Nat) : Nat :=
  match c.window dva, c.root with
  | none, some _ => match (s.walk die c dva).2.fin with
    | .leaf _ _ a | .delegated a => a.typ
    | .fault _ => 0
  | _, _ => 0

/-- A target in a notify page (R282, R432): a store to one takes no translation time (R280; log 117). -/
def State.notifyPage (s : State) (t : Target) : Bool :=
  match t with
  | .mem pa => s.vds.any fun e => e.2.isSome && frameOf pa = s.notifyFrame e.1
  | _ => false

/-- The offset bits of a translation the host gives: ATS's smallest page. -/
abbrev hostBits : Nat := 12

/-- The TLB entry of a page as a context sees it. -/
def TransCtx.entry (c : TransCtx) (dva bits : Nat) (tgt : Target) (attr : PageAttr) : TlbEnt :=
  { world := c.world.toNat, asid := c.asidNo, gen := c.gen, page := dva / 2 ^ bits, bits := bits, tgt := tgt, attr := attr }

/-- The entry of a page a die would walk to without a fault, where it is a notify page (log 117). -/
def State.notifyEntry (s : State) (ag : Agent) (c : TransCtx) (dva : Nat) : Option TlbEnt :=
  if c.root.isNone || !s.keyOk ag.tile.isSome c.world.toNat c.hwkey.toNat then none
  else match (s.walk ag.die c dva).2.fin with
    | .leaf bits t a => if s.notifyPage t then some (c.entry dva bits t a) else none
    | _ => none

/-- The heap window, then the micro-TLB, then the die TLB (12 cycles more), then PTROOT (R343, R344, R350); a CSQ store
(`st`) finds a notify page with no addition (R280). An entry whose page fails the access is no hit: a fault is never cached, so the access walks again (R346). A context whose HWKEY its issuer
may not use is walked no further: PERM (R347; log 14). -/
def State.lookup (s : State) (st : Bool) (ag : Agent) (c : TransCtx) (dva : Nat) (passes : Target → PageAttr → Bool) : State × Xlat :=
  let miss (add : Nat) : Xlat :=
    if c.root.isNone then .fault notPresent add
    else if s.keyOk ag.tile.isSome c.world.toNat c.hwkey.toNat then .miss else .fault perm add
  let again (e : TlbEnt) (add : Nat) : State × Xlat := (s.dropTlb ag e, miss add)
  match c.window dva with
  | some pa =>
    (s, if paTier pa ≤ 1 then .ok (.mem pa) { keyId := c.hwkey.toNat } 0 else .fault notPresent 0)
  | none =>
    let micro := match ag.tile with
      | some t => (s.tile t).utlb.find? fun (e : TlbEnt) => e.matches c dva
      | none => none
    match micro with
    | some e =>
      let t := e.tgt.plus (dva % 2 ^ e.bits)
      if passes t e.attr then (s, .ok t e.attr 0) else again e 0
    | none =>
      match (s.die ag.die).tlb.find? fun (e : TlbEnt) => e.matches c dva with
      | some e =>
        let t := e.tgt.plus (dva % 2 ^ e.bits)
        if passes t e.attr then (s.addMicro ag.tile e, .ok t e.attr (if st && s.notifyPage t then 0 else 12)) else again e 12
      | none => match if st then s.notifyEntry ag c dva else none with
        | some e =>
          let t := e.tgt.plus (dva % 2 ^ e.bits)
          if passes t e.attr then
            ((s.modDie ag.die fun d => { d with tlb := addTlb 4096 d.tlb e }).addMicro ag.tile e, .ok t e.attr 0)
          else (s, miss 12)
        | none => (s, miss 12)

/-- Change a walk of a die. -/
def State.modWalk (s : State) (die id : Nat) (f : Walk → Walk) : State :=
  s.modDie die fun d => { d with walks := d.walks.map fun x => if x.id = id then f x else x }

/-- Give a queued walk a walker (R349): after 12 cycles it reads its entries, 188 cycles each (R350). -/
def State.beginWalk (s : State) (die : Nat) (w : Walk) : State :=
  let (level, table) := (s.die die).walkStart w.ctx w.dva
  (s.modWalk die w.id fun x => { x with dueAt := some (s.now + 200), level := level, table := table }).post (s.now + 200)
    (.walkComplete die w.id)

/-- The walk under way to the page of `dva`. -/
def Die.walkTo (d : Die) (c : TransCtx) (dva : Nat) : Option Walk :=
  d.walks.find? fun w => w.ctx.world = c.world && w.ctx.asid = c.asid && w.dva / 2 ^ 16 = dva / 2 ^ 16 && w.dueAt.isSome

/-- The cycles until a walk to the page of `dva` ends, as the tables stand: one under way, or a new one (R350). -/
def State.walkTime (s : State) (die : Nat) (c : TransCtx) (dva : Nat) : Nat :=
  match (s.die die).walkTo c dva with
  | some w => w.dueAt.getD s.now - s.now + 188 * ((walkFrom (5 - w.level) s c dva w.level w.table {}).2.n - 1)
  | none => 12 + 188 * (s.walk die c dva).2.n

/-- Wait for a walk to the page of `dva`: misses to one page merge, and 16 walkers serve a die (R349). -/
def State.startWalk (s : State) (die : Nat) (c : TransCtx) (dva : Nat) (who : Waiter) : State :=
  let same (w : Walk) : Bool := w.ctx.world = c.world && w.ctx.asid = c.asid && w.dva / 2 ^ 16 = dva / 2 ^ 16
  if (s.die die).walks.any same then
    s.modDie die fun d => { d with walks := d.walks.map fun w => if same w then { w with waiters := w.waiters ++ [who] } else w }
  else
    let (id, s) := s.newId
    let w : Walk := { id := id, die := die, dva := dva, ctx := c, waiters := [who], dueAt := none }
    let s := s.modDie die fun d => { d with walks := d.walks ++ [w] }
    if ((s.die die).walks.filter (·.dueAt.isSome)).length < 16 then s.beginWalk die w else s

/-! ## Host pages (R353, R354) -/

/-- Add walk-cache entries, the oldest of a full cache gone. -/
def addWalks (l : List WalkEnt) (ws : List WalkEnt) : List WalkEnt :=
  let l := l.filter (fun e => !ws.contains e) ++ ws
  l.drop (l.length - 256)

/-- The 16-bit tag of a request, which holds the context's generation (R354). -/
def hostTag (c : TransCtx) (id : Nat) : Nat := c.gen * 4096 + id % 4096

abbrev hostPageOf (dva : Nat) : Nat := dva % 2 ^ 46 / 2 ^ hostBits

/-- The permissions of a completion ANDed with the leaf's. -/
def PageAttr.and (p : PageAttr) (rd wr at_ : Bool) : PageAttr := { p with r := p.r && rd, w := p.w && wr, a := p.a && at_ }

/-- An ATS request whose completion is waited for in place: what the host answers is its own, and is free. -/
def State.atsNow (s : State) (vd : Nat) (c : TransCtx) (dva : Nat) (p : PageAttr) : State × Option TlbEnt :=
  let (id, s) := s.newId
  let x := (Config.freeWord s.fresh).toNat
  let s := State.emit { s with fresh := s.fresh + 1 } (.ats vd (hostTag c id) (hostPageOf dva))
  (s, if bitOf 0 x then
    some (c.entry dva hostBits (.host (x / 16 * 2 ^ hostBits)) (p.and (bitOf 1 x) (bitOf 2 x) (bitOf 3 x))) else none)

/-- A page request waited for in place; whether the host's answer, which is free, is a success. -/
def State.priNow (s : State) (vd : Nat) (c : TransCtx) (dva : Nat) : State × Bool :=
  let (id, s) := s.newId
  (State.emit { s with fresh := s.fresh + 1 } (.pri vd (hostTag c id) (hostPageOf dva)), bitOf 0 (Config.freeWord s.fresh).toNat)

/-- A host page for an agent that waits in place (R353, R354): one ATS request; where it is denied, or gives a right the
leaf grants but the access lacks, one page request and a second ATS request; HOSTPAGE where that fails too. -/
def State.hostNow (s : State) (vd : Nat) (c : TransCtx) (dva : Nat) (p : PageAttr) (passes : Target → PageAttr → Bool) :
    State × Except Nat TlbEnt :=
  let serves (e : TlbEnt) : Bool := passes e.tgt e.attr || !passes e.tgt p
  match s.atsNow vd c dva p with
  | (s, some e) => if serves e then (s, .ok e) else
    match s.priNow vd c dva with
    | (s, false) => (s, .error hostPage)
    | (s, true) => match s.atsNow vd c dva p with
      | (s, some e) => (s, if serves e then .ok e else .error hostPage)
      | (s, none) => (s, .error hostPage)
  | (s, none) =>
    match s.priNow vd c dva with
    | (s, false) => (s, .error hostPage)
    | (s, true) => match s.atsNow vd c dva p with
      | (s, some e) => (s, if serves e then .ok e else .error hostPage)
      | (s, none) => (s, .error hostPage)

/-- A translation found for an agent that waits in place: the die TLB takes it, where the access passes (R346, R349). -/
def State.tookNow (s : State) (die dva : Nat) (e : TlbEnt) (passes : Target → PageAttr → Bool) : State × Except Nat (Target × PageAttr) :=
  let t := e.tgt.plus (dva % 2 ^ e.bits)
  (if passes t e.attr then s.modDie die fun d => { d with tlb := addTlb 4096 d.tlb e } else s, .ok (t, e.attr))

/-- Translation by an agent that waits in place, the keeper or a bulk engine, for VD `vd`: by the die TLB, and by the tables
as they stand, which fill it and the walk cache (R349; log 50). -/
def State.translateNow (s : State) (die vd : Nat) (c : TransCtx) (dva : Nat) (passes : Target → PageAttr → Bool) : State × Except Nat (Target × PageAttr) :=
  match s.lookup false { die := die } c dva passes with
  | (s, .ok t a _) => (s, .ok (t, a))
  | (s, .fault code _) => (s, .error code)
  | (s, .miss) =>
    let (s, o) := s.walk die c dva
    let s := s.modDie die fun d => { d with wcache := addWalks d.wcache o.seen }
    match o.fin with
    | .leaf bits t a => s.tookNow die dva (c.entry dva bits t a) passes
    | .delegated a =>
      match s.hostNow vd c dva a passes with
      | (s, .ok e) => s.tookNow die dva e passes
      | (s, .error code) => (s, .error code)
    | .fault code => (s, .error code)

/-! ## Latencies (R258, R350, R441) -/

/-- A free refresh wait of a tier H access (R365), at most 270 cycles. -/
def State.refreshWait (s : State) (pa : Nat) : State × Nat :=
  if paTier pa = 0 then ({ s with fresh := s.fresh + 1 }, min 270 (Config.freeRefresh s.fresh)) else (s, 0)

/-- Whether an access is a load, a store or an atomic, for its latency. -/
inductive LatKind where
  | load | store | atomic | copyRead | copyWrite
  deriving DecidableEq, Repr

/-- Cycles from issue or request to the instant a tier H, L or X access performs, on the home die (R350, R441); a copy
read takes its value then. -/
def tierPerform (tier : Nat) : LatKind → Nat
  | .load | .copyRead => if tier = 0 then 200 else if tier = 1 then 500 else 1100
  | .atomic => if tier = 0 then 204 else if tier = 1 then 504 else 1104
  | .store | .copyWrite => if tier = 0 then 320 else if tier = 1 then 620 else 1200

/-- Cycles from issue or request at tile `t` to the instant a slice access performs (R258). -/
def slicePerform (t u : Nat) (k : LatKind) : Nat :=
  if t = u then 2 else match k with
    | .load | .atomic | .copyRead => 12 + 2 * hops t u
    | .store | .copyWrite => 12 + 2 * hops t u

/-- Cycles from performing to the return of a value (R258, R441). -/
def returnLat (die t : Nat) (tgt : Target) (k : LatKind) : Nat :=
  match tgt with
  | .spad u _ =>
    if t = u then (match k with | .atomic => 10 | _ => 6)
    else match k with
      | .atomic => 8 + 2 * hops t u
      | _ => 4 + 2 * hops t u
  | .mem pa =>
    let e := match homeOf pa with
      | some h => dieEdges die h.die
      | none => 0
    match k with
    | .copyRead => 224 + 8 * e
    | _ => 220 + 8 * e
  | .host _ | .peer _ _ | .reg _ => 0

/-- Cycles that failed die-to-die links add to a path between two dies (R297): free, and none while no link has failed. -/
def State.detour (s : State) (d e : Nat) : Nat := if s.linksDown.isEmpty then 0 else Config.freeDetour s.linksDown d e

/-- Cycles to the performing instant, refresh included. The host's latency is its own (R350): a free delay beyond D0. -/
def State.performLat (s : State) (die t : Nat) (tgt : Target) (k : LatKind) : State × Nat :=
  match tgt with
  | .spad u _ => (s, slicePerform t u k + s.detour (dieOf t) (dieOf u))
  | .mem pa =>
    let e := match homeOf pa with
      | some h => dieEdges die h.die
      | none => 0
    let (s, r) := s.refreshWait pa
    (s, tierPerform (paTier pa) k + 8 * e + r + s.detour die (((homeOf pa).map Home.die).getD die))
  | .host _ => ({ s with fresh := s.fresh + 1 }, 8 * dieEdges die 0 + Config.freeDelay s.fresh)
  | .peer _ _ | .reg _ => (s, 0)

end Sys2Proof.Machine
end

