-- ==== Sys2Proof/Machine/Access.lean ====
section
/-! DEFINITION. Accesses of the control sequencers from issue to return (R97 to R99, R107 to R113, R256 to R269): the
address checks, translation, the order of Q0 to Q2, performing at the home, and what a failed check leaves behind. -/
namespace Sys2Proof.Machine
open Sys2Proof

/-! ## Far increments and messages -/

/-- Send a far increment of tile `t` to tile `u`, applied 2 + 2h cycles on (R119, R258). -/
def State.sendIncrement (s : State) (t u sem inc : Nat) : State :=
  let x := s.tile t
  s.postIn (2 + 2 * hops t u + s.detour (dieOf t) (dieOf u)) (.farIncrementArrival u sem inc x.seq.csr.ltile.toNat x.seq.csr.ctx.world.toNat)

/-- Hand a message to the message engine (R387); it is sealed in the tick in which it leaves its queue. ORIGIN names the
message, so that its response finds it (log 60). -/
def State.submit (s : State) (dst lane : Nat) (m : Message) (who : Option Waiter) : State :=
  let id := s.fabric.nextMsg
  let tx : TxMsg := { id := id, dst := dst, lane := lane, rsp := false, msg := { m with origin := m.origin + 2 ^ 16 * id }, waiter := who }
  { s with fabric := { s.fabric with nextMsg := id + 1, tx := s.fabric.tx ++ [tx] } }.postIn 0 (.messageSeal id)

/-- The lane source of R391. -/
def laneSource : SeqId → Nat
  | .tile t => t
  | .keeper k => 1152 + k

/-! ## Issue -/

/-- The parts of an access by line, the lower first (R108). -/
def splitLines (a n : Nat) : List AccPart :=
  let k := 64 - a % 64
  if n ≤ k then [{ addr := a, len := n }] else [{ addr := a, len := k }, { addr := a + k, len := n - k }]

/-- The checks of R31 for a sequencer; a keeper sequencer has no scratchpad (R308). -/
def checkSeqAddr (s : State) (q : SeqId) (a : Word) (n : Nat) : Except Nat Space :=
  match q with
  | .tile t => checkAddr s t a n
  | .keeper _ =>
    let x := a.toNat
    match x / 2 ^ 62 with
    | 0 => if x / 2 ^ 56 = 0 then .ok (.dva x) else .error canon
    | 1 => if x / 2 ^ 31 % 2 ^ 31 ≠ 0 then .error canon else .error spadBounds
    | 2 => if x / 2 ^ 21 % 2 ^ 41 ≠ 0 then .error canon else .error spadBounds
    | _ => .error canon

/-- What an access asks of its page (R113, R269). -/
def Acc.need (a : Acc) : Need :=
  let al := a.addr.toNat % a.width = 0
  match a.kind with
  | .load _ => .read
  | .store => .write
  | .amo f | .amos f => .atomic al (f = 0 || f = 8)
  | .cas => .atomic al true

def Acc.latKind (a : Acc) : LatKind :=
  match a.kind with
  | .load _ => .load
  | .store => .store
  | _ => .atomic

def State.acc? (s : State) (q : SeqId) (id : Nat) : Option Acc := (s.seq q).accs.find? (·.id = id)
def State.modAcc (s : State) (q : SeqId) (id : Nat) (f : Acc → Acc) : State :=
  s.modSeq q fun x => { x with accs := x.accs.map fun a => if a.id = id then f a else a }

/-- A check has failed at address `addr`: the access is dropped and its fault waits for a gate, from cycle `at_` (R99). -/
def State.failAcc (s : State) (q : SeqId) (id code addr at_ : Nat) : State :=
  s.modAcc q id fun a => { a with fault := some (code, BitVec.ofNat 64 addr), performAt := max a.performAt at_ }

/-- The address of part `i` of an access. -/
def Acc.partAddr (a : Acc) (i : Nat) : Nat := ((a.parts[i]?).map (·.addr)).getD a.addr.toNat

/-- Give part `i` its translation, checking the page (R346). -/
def State.setPart (s : State) (q : SeqId) (a : Acc) (i : Nat) (tgt : Target) (attr : PageAttr) (at_ : Nat) : State :=
  match s.pageCheck (s.agentOf q a.ctx) a.ctx.world.toNat tgt attr a.need with
  | some code => s.failAcc q a.id code (a.partAddr i) at_
  | none => s.modAcc q a.id fun a => { a with
      parts := a.parts.modify i fun p => { p with tgt := some tgt, attr := attr }
      performAt := max a.performAt at_ }

/-- Translate part `i`, where it has no target yet. -/
def State.translatePart (s : State) (q : SeqId) (id i : Nat) : State :=
  match s.acc? q id with
  | none => s
  | some a =>
    match a.parts[i]?, a.fault with
    | some p, none =>
      if p.tgt.isSome then s
      else if Config.keeperBlock ≤ p.addr ∧ p.addr < Config.keeperBlock + 2 ^ 16 then
        match q with
        | .tile _ => s.failAcc q id perm p.addr s.now
        | .keeper _ => s.modAcc q id fun a => { a with
            parts := a.parts.modify i fun p => { p with tgt := some (.reg (p.addr - Config.keeperBlock)) } }
      else match s.lookup (a.kind = .store) (s.agentOf q a.ctx) a.ctx p.addr fun t at_ =>
          (s.pageCheck (s.agentOf q a.ctx) a.ctx.world.toNat t at_ a.need).isNone with
        | (s, .ok tgt attr add) => s.setPart q a i tgt attr (s.now + add)
        | (s, .fault code add) => s.failAcc q id code p.addr (s.now + add)
        | (s, .miss) =>
          -- the type its page has as the tables stand orders it while it walks (R268)
          let typ := s.typeOf (seqDie q) a.ctx p.addr
          (s.modAcc q id fun a => { a with
            stage := .translating, parts := a.parts.modify i fun p => { p with attr := { p.attr with typ := typ } } }).startWalk
            (seqDie q) a.ctx p.addr (.acc q id i)
    | _, _ => s

/-- The fabric message of one part (R387, R390). -/
def Acc.message (a : Acc) (origin : Nat) (p : AccPart) (pa : Nat) : Message :=
  let base : Message :=
    { op := .readReq, keyId := p.attr.keyId, world := a.ctx.world.toNat, len := p.len, pa := pa, origin := origin }
  let wide := if a.width = 8 then 16 else 0
  let sa := if p.attr.sa then 32 else 0
  match a.kind with
  | .load _ => base
  | .store => { base with op := .write, data := (bytesOf a.width a.data.toNat).drop (p.addr - a.addr.toNat) |>.take p.len }
  | .amo f | .amos f => { base with op := .atomic, fn := f + wide + sa, data := bytesOf a.width a.data.toNat }
  | .cas => { base with op := .atomic, fn := 9 + wide + sa, data := bytesOf a.width a.cmp.toNat ++ bytesOf a.width a.data.toNat }

/-- A part whose peer has not answered. -/
def AccPart.owed (p : AccPart) : Bool :=
  p.got.isNone && match p.tgt with
    | some (.peer _ _) => true
    | _ => false

/-- A store of a write-combining page, which goes by its queue's buffer (R268). -/
def Acc.combines (a : Acc) (p : AccPart) : Bool :=
  a.kind = .store && p.attr.typ = 1 && match p.tgt with
    | some (.mem _) | some (.host _) | some (.peer _ _) => true
    | _ => false

/-- The access waits for the part's peer. -/
def Acc.owed (a : Acc) (p : AccPart) : Bool := p.owed && !a.combines p

/-- The two parts of a crossing access that one message takes to one peer (R387): contiguous there, in one frame. -/
def Acc.joined (a : Acc) : Option AccPart :=
  match a.parts with
  | [p, r] =>
    match p.tgt, r.tgt with
    | some (.peer pkg pa), some (.peer pkg2 pa2) =>
      if pkg = pkg2 ∧ pa2 = pa + p.len ∧ pa2 / 2 ^ 16 = pa / 2 ^ 16 ∧ p.attr.keyId = r.attr.keyId then
        some { p with len := p.len + r.len }
      else none
    | _, _ => none
  | _ => none

/-- The parts that messages are due for now, with the number their answer names: both at once where one message takes them,
else the lower one first. -/
def Acc.toSend (a : Acc) : List (AccPart × Nat) :=
  match a.joined with
  | some p => if a.owed p then [(p, 2)] else []
  | none =>
    let owed := a.parts.zipIdx.filter fun e => a.owed e.1
    match a.kind with
    | .load _ => owed
    | _ => owed.take 1

/-- A half of the access at a home of this package that would fault there now: then neither half takes effect (R108). -/
def State.halfFault (s : State) (q : SeqId) (a : Acc) : Option (Nat × Nat) :=
  a.parts.findSome? fun p => match p.tgt with
    | some (.mem pa) => (s.homeCheck pa p.attr.keyId).map fun c => (c, p.addr)
    | some (.spad u _) => if (s.tile u).seq.csr.ctx.world = a.ctx.world || (seqTile? q).isNone then none else some (perm, p.addr)
    | _ => none

/-- Send the peer parts of one access. A store that crosses into a peer's page is sent once its other half has passed the
checks of its home, and two peers are asked one after the other (R108; log 110). -/
def State.sendPeer (s : State) (q : SeqId) (a : Acc) : State :=
  if a.stage = .timed && a.fault.isNone && !a.performed && a.parts.any a.owed then
    match s.halfFault q a with
    | some (c, e) => s.failAcc q a.id c e s.now
    | none =>
      let s := s.modAcc q a.id fun a => { a with stage := .sent }
      a.toSend.foldl (fun s (p, i) =>
        match p.tgt with
        | some (.peer pkg pa) =>
          s.submit pkg (((laneSource q) + a.q) % 16) (a.message (laneSource q) p pa) (some (.acc q a.id i))
        | _ => s) s
  else s

/-- The accesses of one queue in order, up to the first that still translates: a queue sends nothing beyond it (R349). A
device or strongly ordered one leaves only when it would perform (R268). -/
def sendable : List Acc → List Acc
  | [] => []
  | a :: t =>
    if a.stage = .translating && a.fault.isNone then []
    else if a.parts.any (2 ≤ ·.attr.typ) && !a.performed && a.fault.isNone && a.stage = .timed then [] else a :: sendable t

/-- Send what may leave queue `n` toward peers, in queue order (R387). -/
def State.sendPeers (s : State) (q : SeqId) (n : Nat) : State :=
  (sendable ((s.seq q).accs.filter (·.q = n))).foldl (fun s a => s.sendPeer q a) s

/-- The latencies of the parts from `b` (R258, R350): the cycle the whole access performs. -/
def State.partLats (s : State) (q : SeqId) (k : LatKind) (b : Nat) : List AccPart → State × Nat
  | [] => (s, b)
  | p :: t =>
    let (s1, l) := match p.tgt with
      | some g => s.performLat (seqDie q) ((seqTile? q).getD 0) g k
      | none => (s, 0)
    let (s2, m) := s1.partLats q k b t
    (s2, max (b + l) m)

/-- All parts translated: the access is timed from `b`, and what waits behind it in its queue is sent after it. -/
def State.scheduleAcc (s : State) (q : SeqId) (id : Nat) : State :=
  match s.acc? q id with
  | none => s
  | some a =>
    if a.fault.isSome || a.parts.any (·.tgt.isNone) then s
    else
      let b := max s.now a.performAt
      let (s1, due) := s.partLats q a.latKind b a.parts
      let s2 := s1.modAcc q id fun a => { a with stage := .timed, performAt := due }
      let s3 := if b ≤ a.issuedAt then s2 else
        s2.modSeq q fun x => { x with accs := x.accs.map fun c =>
          if c.q = a.q && a.id < c.id && c.stage = .timed && !c.performed then
            { c with performAt := max c.performAt (b + (c.performAt - c.issuedAt)) } else c }
      s3.sendPeers q a.q

/-- Translate what is not translated, and schedule the access once all of it is. -/
def State.advanceAcc (s : State) (q : SeqId) (id : Nat) : State :=
  (((s.translatePart q id 0).translatePart q id 1)).scheduleAcc q id

/-- The snapshot of now: everything issued or accepted so far. -/
def Tile.snapshot (x : Tile) (now : Nat) : FenceSnap :=
  { cycle := now, acc := x.seq.nextAcc, order := x.bsq.nextOrder, c0 := x.c0.nextSerial, c1 := x.c1.nextSerial
    m := x.mat.nextSerial }

/-- Take a new access into its queue (R107, R110): after the address checks of R31, whose fault is at issue (R98). -/
def issueAccess (s : State) (kind : AccKind) (qn : Nat) (rd : BitVec 6) (addr : Word) (width : Nat) (data cmp : Word)
    (scope : Nat) : Out' :=
  let q := s.seq s.cur
  let checked := (splitLines addr.toNat width).map fun p =>
    (p, checkSeqAddr s s.cur (BitVec.ofNat 64 p.addr) p.len)
  match checked.findSome? fun e => match e.2 with | .error c => some (c, e.1.addr) | .ok _ => none with
  | some (code, at_) => .next (s.raise code (BitVec.ofNat 64 at_))
  | none =>
    let parts := checked.map fun e => match e.2 with
      | .ok (.slice u off) => { e.1 with tgt := some (.spad u off) }
      | _ => e.1
    let spadAtom := parts.any (·.tgt.isSome) && (match kind with | .load _ | .store => false | _ => true) &&
      addr.toNat % width != 0
    let a : Acc :=
      { id := q.nextAcc, q := qn, kind := kind, addr := addr, width := width, rd := rd.toNat, data := data, cmp := cmp
        scope := scope, pc := q.pc, ctx := q.csr.ctx, parts := parts, mark := q.mark, issuedAt := s.now
        before := (seqTile? s.cur).map fun t => (s.tile t).snapshot s.now
        fault := if spadAtom then some (atomicType, addr) else none }
    let s1 := s.modSeq s.cur fun q => { q with accs := q.accs ++ [a], nextAcc := q.nextAcc + 1 }
    .next ((s1.advanceAcc s.cur a.id).modSeq s.cur fun q => q.retire s.now)

/-! ## Order -/

/-- The port accesses of a matrix command have performed by cycle `now` (R197): operand reads once they are all made,
ACCST bytes in its completion cycle. -/
def MCmd.portDone (c : MCmd) (now : Nat) : Bool :=
  c.st = .finished || if c.op = 5 then c.completeAt.any (· ≤ now) else c.sent

/-- Whether matrix commands numbered below `m` of the kinds `p` have all performed. -/
def Matrix.doneBefore (x : Matrix) (now m : Nat) (p : Nat → Bool) : Bool :=
  x.queue.all fun c => !(c.serial < m && p c.op) || c.portDone now

/-- A copy command has performed every access it makes: it has completed, or all of it is sent and performed. -/
def CQueue.doneBefore (x : CQueue) (n : Nat) : Bool := x.cmds.all fun c => n ≤ c.serial

/-- A result of an issue that Q6 accepted before the fence is still to be pushed: a write stream's element is accepted by the
issue that reserves its place (R229; log 126). -/
def FenceSnap.pushes (f : FenceSnap) (r : PendRes) : Bool :=
  r.order < f.order && match r.tgt with
    | .push _ _ => true
    | _ => false

/-- Every operation before the fence in the queues of `mask` has performed (R115, R215, R442). -/
def Tile.doneBefore (x : Tile) (now mask : Nat) (f : FenceSnap) : Bool :=
  (!(bitOf 0 mask || bitOf 1 mask || bitOf 2 mask) ||
    x.seq.accs.all fun a => !(bitOf a.q mask && a.id < f.acc) || a.performed || a.fault.isSome) &&
  (!bitOf 3 mask || x.c0.doneBefore f.c0) &&
  (!bitOf 4 mask || x.c1.doneBefore f.c1) &&
  (x.wbuf.all fun l => !(l.flushing && bitOf l.q mask)) &&
  (!bitOf 6 mask || (x.bsq.stores.all (fun e => f.order ≤ e.order) && x.bsq.pend.all (fun r => !f.pushes r) &&
    x.ports.all fun e => !(e.2.bound && e.2.write) || e.2.buf.all fun l => f.order ≤ l.order)) &&
  (!bitOf 7 mask || x.mat.doneBefore now f.m fun op => op = 2 || op = 4) &&
  (!bitOf 8 mask || (x.mat.doneBefore now f.m fun op => op = 5))

/-- Device or strongly ordered (R268). -/
def PageAttr.ordered (a : PageAttr) : Bool := a.typ ≥ 2
def Acc.ordered (a : Acc) : Bool := a.parts.any (·.attr.ordered)
def Acc.strong (a : Acc) : Bool := a.parts.any (·.attr.typ = 3)
def Acc.open_ (a : Acc) : Bool := !a.performed && a.fault.isNone

/-- What the strongly ordered copy elements that are due or out must come after; what is accepted later waits for them
(R268; log 112). -/
def Tile.strongCopies (x : Tile) : List FenceSnap := (x.c0.cmds ++ x.c1.cmds).filterMap (·.strong)

/-- The same with the strongly ordered accesses of the CSQ. -/
def Tile.strongSnaps (x : Tile) : List FenceSnap :=
  ((x.seq.accs.filter fun a => a.open_ && a.strong).filterMap (·.before)) ++ x.strongCopies

/-- A store of the other side of a MARK whose combined bytes are not yet at their home (R114, R268). -/
def Tile.markHolds (x : Tile) (a : Acc) : Bool := a.q = 0 && x.wbuf.any fun l => l.q = 1 && l.src.who < a.mark

/-- The order of R114, R265 and R268 lets the access perform: it is the first of its queue still open, a MARK's other
queue is done, and device order holds. -/
def State.mayPerform (s : State) (q : SeqId) (a : Acc) : Bool :=
  let x := s.seq q
  let t := s.tile ((seqTile? q).getD 0)
  let pieces := if (seqTile? q).isSome then (t.c0.lines ++ t.c1.lines).flatMap (·.pieces) else []
  x.accs.all (fun b => !(b.open_ && b.id < a.id) ||
    (b.q ≠ a.q && !(a.q < 2 && b.q < 2 && b.id < a.mark) && !(a.ordered && b.ordered) && !b.strong && !a.strong)) &&
  ((seqTile? q).isNone || !t.markHolds a) &&
  (!a.ordered || pieces.all fun l => !(l.srcA.ordered || l.dstA.ordered)) &&
  ((seqTile? q).isNone || t.strongCopies.all fun f => a.id < f.acc) &&
  (!a.strong || match a.before with
    | some f => t.doneBefore s.now 0x1FF f
    | none => true)

/-- The access may perform in this cycle. -/
def State.accDue (s : State) (q : SeqId) (a : Acc) : Bool :=
  a.open_ && a.stage = .timed && a.performAt ≤ s.now && s.mayPerform q a

/-- The first AMOS whose signal fires now. -/
def State.nextSignal (s : State) (q : SeqId) : Option Acc :=
  (s.seq q).accs.find? fun a => a.performed && a.stage = .signalling && a.performAt ≤ s.now

/-- The first access of the queues `qs` that performs now. -/
def State.nextAccess (s : State) (q : SeqId) (qs : List Nat) : Option Acc :=
  (s.seq q).accs.find? fun a => qs.contains a.q && s.accDue q a

/-! ## Performing -/

/-- The world tag of a mesh packet must be the tile's (R417); keeper sequencers reach no scratchpad. -/
def State.tagOk (s : State) (u world : Nat) : Bool := (s.tile u).seq.csr.ctx.world.toNat = world && (s.tile u).use != .draining

/-- A discarded packet (R417). -/
def State.dropTag (s : State) (u : Nat) : State := s.modDie (dieOf u) fun d => { d with wtagdrop := d.wtagdrop + 1 }

/-- Write bytes to a slice: a line written in full clears its poison bit (R174, R205). -/
def Tile.storeBytes (x : Tile) (off : Nat) (bs : List Byte) : Tile :=
  let y := x.writeSpad off bs
  (linesOf off bs.length).foldl (fun y l =>
    if off ≤ 64 * l && 64 * l + 64 ≤ off + bs.length then y.setPoison (64 * l) false else y) y

/-- Read `n` bytes of one line at a target. -/
def State.readTarget (s : State) (world : Nat) (tgt : Target) (key n : Nat) : State × MemRes (List Byte × Bool) :=
  match tgt with
  | .spad u off =>
    if s.tagOk u world then (s, .ok ((s.tile u).bytes off n, (s.tile u).poisoned off)) else (s.dropTag u, .fault perm)
  | .mem pa => s.homeRead false pa n key
  | .host a => let (s, bs) := s.readHost a n; (s, .ok (bs, false))
  | .reg off => (s, .ok (bytesOf n (s.regRead off), false))
  | .peer _ _ => (s, .ok ([], false))

/-- Bytes written to a notify page act on the registers it holds (R282, R431, R432): a write of the low byte of NOTIFY q
acts by its bits [1:0], one of CNOTIFY c notifies channel c. -/
def State.notifyWrite (s : State) (pa : Nat) (bs : List Byte) : State :=
  let off := pa % 2 ^ 16
  s.vds.foldl (fun (s : State) e =>
    match e.2 with
    | some v =>
      if frameOf pa = s.notifyFrame v.vd && off % 8 = 0 then
        if off < 0x200 then match natOf bs % 4 with
          | 0 => s.postIn 0 (.notify v.vd (off / 8))
          | 1 => s.postIn 0 (.refresh v.vd (off / 8))
          | _ => s
        else if off < 0x280 then s.postIn 0 (.cnotify v.vd ((off - 0x200) / 8))
        else s
      else s
    | none => s) s

/-- Write bytes of one line at a target; poisoned data marks it (R205). `k` names the keeper sequencer of a register
write. -/
def State.writeTarget (s : State) (k world : Nat) (poison : Bool) (tgt : Target) (key : Nat) (bs : List Byte) :
    State × MemRes Unit :=
  match tgt with
  | .spad u off =>
    if s.tagOk u world then
      (s.modTile u fun x =>
        let y := x.storeBytes off bs
        if poison then y.setPoison off true else y, .ok ())
    else (s.dropTag u, .fault perm)
  | .mem pa =>
    match s.homeWrite false poison false pa key bs with
    | (s, .ok ()) => (s.notifyWrite pa bs, .ok ())
    | r => r
  | .host a => (s.writeHost a bs, .ok ())
  | .reg off => (s.regWrite k false off (BitVec.ofNat 64 (natOf bs)), .ok ())
  | .peer _ _ => (s, .ok ())

/-- An atomic at a target: the old value (R110, R269). -/
def State.atomTarget (s : State) (world : Nat) (tgt : Target) (attr : PageAttr) (w : Nat) (o : AtomOp) (v : Nat) :
    State × MemRes Nat :=
  match tgt with
  | .spad u off =>
    if !s.tagOk u world then (s.dropTag u, .fault perm)
    else if (s.tile u).poisoned off then (s, .fault poisonF)
    else
      let old := (s.tile u).readNat off w
      match o.new w old v with
      | some n => (s.modTile u fun x => x.storeBytes off (bytesOf w n), .ok old)
      | none => (s, .ok old)
  | .mem pa => s.homeAtomic false attr.sa pa w attr.keyId o v
  | .host a =>
    let (s, bs) := s.readHost a w
    match o.new w (natOf bs) v with
    | some n => (s.writeHost a (bytesOf w n), .ok (natOf bs))
    | none => (s, .ok (natOf bs))
  | .reg _ | .peer _ _ => (s, .fault atomicType)

/-- A line request of a VD's agent at a controller spends one of its tokens there (R302). -/
def State.spend (s : State) (vd : Nat) (g : Option Target) : State :=
  match g with
  | some (.mem pa) => match homeOf pa with
    | some h => s.modVd vd fun v => { v with tokens := v.tokens.set 0 h.index (v.tokens.get 0 h.index - 1) }
    | none => s
  | _ => s

/-- What performing an access gives: the value read or the old value. -/
inductive AccRes where
  | done (v : Nat)
  | fault (code addr : Nat)
  | held (slot : Nat)
  deriving DecidableEq, Repr

/-- Read the parts, the lower first. -/
def State.readParts (s : State) (world : Nat) : List AccPart → List Byte → State × AccRes
  | [], acc => (s, .done (natOf acc))
  | p :: t, acc =>
    match p.got, p.tgt with
    | some bs, _ => s.readParts world t (acc ++ bs)
    | none, some g =>
      match s.readTarget world g p.attr.keyId p.len with
      | (s1, .ok (bs, false)) => s1.readParts world t (acc ++ bs)
      | (s1, .ok (_, true)) => (s1, .fault poisonF p.addr)
      | (s1, .fault c) => (s1, .fault c p.addr)
      | (s1, .held k) => (s1, .held k)
    | none, none => (s, .fault notPresent p.addr)

/-- A write of a tile's queue goes out on the host link (R263). -/
def State.hostWrote (s : State) (t q : Nat) (g : Target) : State :=
  match g with
  | .host _ => s.modTile t fun x => { x with hostDirty := markIn x.hostDirty q }
  | _ => s

/-- A release at system scope of the queues of `mask`: where they have written host memory, a zero-length read follows the
writes on the host link, and the cycle it is back (R263). Its time is the host's: free. -/
def State.hostFlush (s : State) (t mask : Nat) : State × Option Nat :=
  if (s.tile t).hostDirty.any fun q => bitOf q mask then
    ({ (s.modTile t fun x => { x with hostDirty := x.hostDirty.filter fun q => !bitOf q mask }).emit (.hostFlush t) with fresh := s.fresh + 1 },
      some (s.now + 16 * dieEdges (dieOf t) 0 + 1 + Config.freeDelay s.fresh))
  else (s, none)

/-- The line of a write-combining buffer a write goes to (R268); `bad` is a write of poisoned bytes (R205). -/
def Tile.combine (x : Tile) (w : WcSrc) (q : Nat) (ctx : TransCtx) (tgt : Target) (key : Nat) (bad : Bool) (off : Nat) (bs : List Byte) :
    Tile :=
  let same (l : WcLine) : Bool :=
    l.q = q && l.tgt = tgt && l.keyId = key && l.world = ctx.world.toNat && l.asid = ctx.asidNo && !l.flushing
  let put (l : WcLine) : WcLine :=
    { l with
      bytes := (bs.zipIdx).foldl (fun m (b, i) => NMap.insert m (off + i) b) l.bytes
      bad := l.bad.filter (fun o => o < off || off + bs.length ≤ o) ++ if bad then (List.range bs.length).map (off + ·) else []
      src := { l.src with since := min l.src.since w.since } }
  if x.wbuf.any same then { x with wbuf := x.wbuf.map fun l => if same l then put l else l }
  else { x with
    nextWc := x.nextWc + 1
    wbuf := x.wbuf ++ [put { id := x.nextWc, q := q, world := ctx.world.toNat, asid := ctx.asidNo, src := w, tgt := tgt, keyId := key, bytes := [] }] }

/-- Bytes by offset as runs of consecutive ones. -/
def byteRuns : NMap Byte → List (Nat × List Byte)
  | [] => []
  | (a, b) :: l =>
    match byteRuns l with
    | (c, bs) :: rest => if a + 1 = c then (a, b :: bs) :: rest else (a, [b]) :: (c, bs) :: rest
    | [] => [(a, [b])]

/-- The home has refused a combined write (R140, R268): a CSQ's fault waits for a gate as that store's own (R99), a copy
command stops at the element (R187). -/
def State.failWc (s : State) (t : Nat) (l : WcLine) (code : Nat) : State :=
  if l.q < 3 then
    s.modSeq (.tile t) fun q =>
      if q.accs.any fun a => a.id = l.src.who && a.fault.isSome then q
      else { q with accs := q.accs.filter (·.id ≠ l.src.who) ++
        [{ id := l.src.who, q := l.q, kind := .store, addr := l.src.addr, width := 1, rd := 0, pc := l.src.pc, issuedAt := s.now
           performAt := s.now, fault := some (code, l.src.addr) }] }
  else s.modTile t fun x => x.faultC (if l.q = 3 then .c0 else .c1) l.src.who l.src.elem code l.src.addr

/-- Write bytes of a combining line to its home, one by one. The answer holds the bytes a line in motion keeps back, and the
fault the home gives. -/
def State.flushBytes (s : State) (l : WcLine) : List (Nat × Byte) → State × List (Nat × Byte) × Option Nat
  | [] => (s, [], none)
  | (o, b) :: rest =>
    let (s, r) := s.writeTarget 0 l.world (l.bad.contains o) (l.tgt.plus o) l.keyId [b]
    let (s, more, bad) := s.flushBytes l rest
    match r with
    | .held _ => (s, (o, b) :: more, bad)
    | .fault c => (s, more, some c)
    | .ok _ => (s, more, bad)

/-- Send a combining line to its peer, a message for each run; it stays until they are answered (R263, R387). -/
def State.sendWc (s : State) (t : Nat) (l : WcLine) (pkg pa : Nat) : State :=
  let runs := byteRuns l.bytes
  let s := s.modTile t fun x => { x with wbuf := x.wbuf ++ [{ l with flushing := true, sent := runs.length }] }
  runs.foldl (fun s (o, bs) =>
    let bad := (List.range bs.length).any fun i => l.bad.contains (o + i)
    s.submit pkg ((t + l.q) % 16)
      { op := .write, keyId := l.keyId, world := l.world, len := bs.length, pa := pa + o, origin := t, status := if bad then 256 else 0
        data := bs } (some (.wc t l.id))) s

/-- Perform a combining line of tile `t`: whole where it is full. What meets a line in motion stays, its flush point past,
until that line is DONE (R359). -/
def State.flushLine (s : State) (t : Nat) (l : WcLine) : State :=
  match l.tgt with
  | .peer pkg pa => s.sendWc t l pkg pa
  | g =>
    let (s, kept, bad) := if l.bytes.length = 64 then
        match s.writeTarget 0 l.world (!l.bad.isEmpty) g l.keyId (l.bytes.map (·.2)) with
        | (s, .held _) => (s, l.bytes, none)
        | (s, .fault c) => (s, [], some c)
        | (s, .ok _) => (s, [], none)
      else s.flushBytes l l.bytes
    let s := s.hostWrote t l.q g
    let s := match bad with
      | some c => s.failWc t l c
      | none => s
    if kept.isEmpty then s
    else
      let s := s.modTile t fun x => { x with wbuf := x.wbuf ++ [{ l with bytes := kept, flushing := true }] }
      match g with
      | .mem pa => match s.moving? pa with
        | some m => s.waitLine m.slot (.wc t l.id)
        | none => s
      | _ => s

/-- Perform some lines of the combining buffers of tile `t` that no peer has been sent. -/
def State.flushSome (s : State) (t : Nat) (p : WcLine → Bool) : State :=
  let (out, keep) := (s.tile t).wbuf.partition fun l => p l && l.sent = 0
  if out.isEmpty then s
  else out.foldl (fun s l => s.flushLine t l) (s.modTile t fun x => { x with wbuf := keep })

/-- A flush point of the queues of `mask` (R268): their combining buffers perform. -/
def State.flushWc (s : State) (t mask : Nat) : State := s.flushSome t fun l => bitOf l.q mask

/-- A combined store of the queues of `mask` whose flush point is past has not performed: it waits on a line in motion
(R359) or for a peer's ACK (R263). -/
def Tile.flushHeld (x : Tile) (mask : Nat) : Bool := x.wbuf.any fun l => l.flushing && bitOf l.q mask

/-- A peer has answered a message of a combining line. -/
def State.answerWc (s : State) (t id : Nat) (r : Except Nat Unit) : State :=
  match (s.tile t).wbuf.find? (·.id = id) with
  | none => s
  | some l =>
    let s := match r with
      | .error c => s.failWc t l c
      | .ok () => s
    s.modTile t fun x => { x with wbuf := (x.wbuf.map fun l => if l.id = id then { l with sent := l.sent - 1 } else l).filter fun l =>
      !(l.id = id && l.sent = 0) }

/-- Put a write to a write-combining page into its queue's buffer; a buffer of 16 lines running full flushes (R268), and so
does Q1's where a MARK after the store has issued already. -/
def State.combineWrite (s : State) (t : Nat) (w : WcSrc) (q : Nat) (ctx : TransCtx) (tgt : Target) (key : Nat) (bad : Bool) (bs : List Byte) :
    State :=
  let (base, off) := match tgt with
    | .mem pa => (Target.mem (pa / 64 * 64), pa % 64)
    | .host a => (Target.host (a / 64 * 64), a % 64)
    | .peer p pa => (Target.peer p (pa / 64 * 64), pa % 64)
    | g => (g, 0)
  let s1 := s.modTile t fun x => x.combine w q ctx base key bad off bs
  if 16 ≤ ((s1.tile t).wbuf.filter (·.q = q)).length || (q = 1 && w.who < (s1.tile t).seq.mark) then s1.flushWc t (2 ^ q) else s1

/-- Write one part of a store. -/
def State.writePart (s : State) (q : SeqId) (a : Acc) (p : AccPart) : State × MemRes Unit :=
  let bs := (bytesOf a.width a.data.toNat).drop (p.addr - a.addr.toNat) |>.take p.len
  match p.got, p.tgt, q with
  | some _, _, _ => (s, .ok ())
  | none, some g, .tile t =>
    if a.combines p then
      let refused := match g with
        | .mem pa => s.homeCheck pa p.attr.keyId
        | _ => none
      match refused with
      | some c => (s, .fault c)
      | none =>
        (s.combineWrite t { who := a.id, pc := a.pc, addr := BitVec.ofNat 64 p.addr, since := a.issuedAt } a.q a.ctx g p.attr.keyId false bs,
          .ok ())
    else s.writeTarget 0 a.ctx.world.toNat false g p.attr.keyId bs
  | none, some g, .keeper k => s.writeTarget k a.ctx.world.toNat false g p.attr.keyId bs
  | none, none, _ => (s, .fault notPresent)

/-- Write the parts of a store, the lower first; when the upper half faults the lower takes no effect (R108). -/
def State.writeParts (s : State) (q : SeqId) (a : Acc) : State × AccRes :=
  let upper := match a.parts with
    | [_, p] => (s.writePart q a p)
    | _ => (s, .ok ())
  match upper with
  | (s1, .fault c) => (s1, .fault c (a.partAddr 1))
  | (_, .held k) => (s, .held k)
  | (_, .ok ()) =>
    a.parts.foldl (fun (r : State × AccRes) p =>
      match r with
      | (s1, .done _) =>
        match s1.writePart q a p with
        | (s2, .ok ()) => (s2, .done 0)
        | (s2, .fault c) => (s2, .fault c p.addr)
        | (_, .held k) => (s1, .held k)
      | r => r) (s, .done 0)

/-- Perform the atomic of an access (R110, R111). -/
def State.atomPart (s : State) (a : Acc) (o : AtomOp) : State × AccRes :=
  match a.parts with
  | [p] =>
    match p.got, p.tgt with
    | some bs, _ => (s, .done (natOf bs))
    | none, some g =>
      match s.atomTarget a.ctx.world.toNat g p.attr a.width o a.data.toNat with
      | (s1, .ok v) => (s1, .done v)
      | (s1, .fault c) => (s1, .fault c p.addr)
      | (s1, .held k) => (s1, .held k)
    | none, none => (s, .fault notPresent p.addr)
  | _ => (s, .fault atomicType a.addr.toNat)

/-- Raise a fault of the tile that is no control instruction's own, in this cycle's order (R368). -/
def State.raiseTile (s : State) (t : Nat) (f : PendFault) : State := s.modTile t fun x => { x with faults := x.faults ++ [f] }

/-- The signal of an AMOS after it has performed (R112): a release of Q2. -/
def State.amosSignal (s : State) (q : SeqId) (a : Acc) : State :=
  match q with
  | .keeper _ => s
  | .tile t =>
    let w := a.cmp.toNat
    let sem := w % 256
    let inc := w / 256 % 16 + 1
    let s := if bitOf 12 w then
        match (s.tile t).semAdd sem inc with
        | some x => s.setTile t x
        | none =>
          let c := (s.tile t).seq
          s.raiseTile t { code := semOvf, slot := 0, eaddr := BitVec.ofNat 64 c.csr.ltile.toNat, epc := c.pc }
      else s
    if bitOf 13 w then
      match (s.tile t).seq.csr.ptile (w / 2 ^ 14 % 1024) with
      | some u => s.sendIncrement t u sem inc
      | none => s
    else s

/-- The value a load delivers (R107). -/
def loadValue (signed : Bool) (width v : Nat) : Word :=
  if signed then BitVec.ofInt 64 (asInt true (8 * width) v) else BitVec.ofNat 64 v

/-- What an access does when it performs (R107 to R113). -/
def State.performAcc (s : State) (q : SeqId) (a : Acc) : State × AccRes :=
  match a.kind with
  | .load _ => s.readParts a.ctx.world.toNat a.parts []
  | .store => s.writeParts q a
  | .amo f | .amos f => s.atomPart a (.fn f)
  | .cas => s.atomPart a (.cas a.cmp.toNat)

/-- The cycles from performing to the value's return. -/
def Acc.returnLat (q : SeqId) (a : Acc) : Nat :=
  (a.parts.map fun p => match p.tgt with
    | some g => Machine.returnLat (seqDie q) ((seqTile? q).getD 0) g a.latKind
    | none => 0).foldl max 0

/-- Finish a performed access: its value to g[rd] with the cycle it becomes readable (R97). -/
def State.finishAcc (s : State) (q : SeqId) (a : Acc) (v : Nat) : State :=
  let ready := s.now + a.returnLat q
  let s := s.modAcc q a.id fun b => { b with performed := true, readyAt := ready }
  let s := if a.ordered then
      s.modSeq q fun x => { x with accs := x.accs.map fun b =>
        if b.open_ && b.ordered && b.stage = .timed then { b with performAt := max b.performAt (s.now + (b.performAt - b.issuedAt)) } else b }
    else s
  match a.kind with
  | .load sg => s.modSeq q fun x => x.setG (BitVec.ofNat 6 a.rd) (loadValue sg a.width v) ready
  | .amo _ | .cas => s.modSeq q fun x => x.setG (BitVec.ofNat 6 a.rd) (BitVec.ofNat 64 v) ready
  | .amos _ =>
    match q with
    | .keeper _ => s
    | .tile t =>
      -- the signal fires in its turn of this cycle; at system scope once the combiners are written back and the host link is
      -- through (R263)
      let (s, at_) := if a.scope = 4 then (s.writeBackAll fun _ => true).hostFlush t 4 else (s, none)
      s.modAcc q a.id fun b => { b with stage := .signalling, performAt := at_.getD s.now }
  | .store => s

/-- An access that is still to be sent to a peer when its turn comes (R268, R387): it is sent, and performs with the answer. -/
def Acc.unsent (a : Acc) : Bool := a.stage = .timed && a.parts.any a.owed

/-- An access acts: its effect at the home and its return, its deferred fault, known where a result would be readable, or its
wait for a line in motion. -/
def State.actAcc (s : State) (q : SeqId) (a : Acc) : State :=
  match s.performAcc q a with
  | (s1, .done v) => s1.finishAcc q a v
  | (s1, .fault c e) => s1.failAcc q a.id c e (s.now + a.returnLat q)
  | (s1, .held k) => (s1.modAcc q a.id fun b => { b with stage := .held k }).waitLine k (.acc q a.id 0)

/-- Perform an access whose turn it is: it is sent to its peer, or acts and spends its VD's tokens. -/
def State.runAcc (s : State) (q : SeqId) (a : Acc) : State :=
  if a.unsent then s.sendPeer q a else
  let s := match q with
    | .tile t => a.parts.foldl (fun (s : State) (p : AccPart) =>
        let s := s.spend (s.tile t).vd p.tgt
        match a.kind, p.tgt with
        | .load _, _ | _, none => s
        | _, some g => s.hostWrote t a.q g) s
    | .keeper _ => s
  s.actAcc q a

/-- A load or atomic takes its value at its home, and its result is due (R97, R99, R258, R441); the signal of an AMOS fires in
its turn after that (R112, R122). -/
def execCsqAccessReturn (q : SeqId) (id : Nat) (s : State) : Out' :=
  match s.acc? q id with
  | some a =>
    if a.q ≠ 1 ∧ s.accDue q a then .next (s.runAcc q a)
    else if a.performed ∧ a.stage = .signalling ∧ a.performAt ≤ s.now then
      .next ((s.modAcc q id fun a => { a with stage := .timed }).amosSignal q a)
    else .refused (.notEnabled "CSQ_ACCESS_RETURN")
  | none => .refused (.notEnabled "CSQ_ACCESS_RETURN")

/-- A store writes its value at its home (R107, R108, R258). -/
def execCsqStorePerform (q : SeqId) (id : Nat) (s : State) : Out' :=
  match s.acc? q id with
  | some a => if a.q = 1 ∧ s.accDue q a then .next (s.runAcc q a) else .refused (.notEnabled "CSQ_STORE_PERFORM")
  | none => .refused (.notEnabled "CSQ_STORE_PERFORM")

/-- A translation has come for part `i` of an access, or its fault. -/
def State.resumeAcc (s : State) (q : SeqId) (id i : Nat) (r : Except Nat (Target × PageAttr)) : State :=
  match s.acc? q id with
  | none => s
  | some a =>
    match r with
    | .error code => s.failAcc q id code (a.partAddr i) s.now
    | .ok (tgt, attr) => (s.setPart q a i tgt attr s.now).advanceAcc q id

/-- A peer has answered part `i` of an access, or both (2): the bytes, or a fault. -/
def State.answerAcc (s : State) (q : SeqId) (id i : Nat) (r : Except Nat (List Byte)) : State :=
  match r with
  | .error code => s.failAcc q id code (((s.acc? q id).map (Acc.partAddr · i)).getD 0) s.now
  | .ok bs =>
    let give (a : Acc) : Acc :=
      if i = 2 then { a with parts := a.parts.map fun p => { p with got := some ((bs.drop (p.addr - a.addr.toNat)).take p.len) } }
      else { a with parts := a.parts.modify i fun p => { p with got := some bs } }
    let s := s.modAcc q id give
    match s.acc? q id with
    | some a =>
      match a.kind, a.parts.any a.owed with
      | .load _, true => s
      | _, true => (s.modAcc q id fun a => { a with stage := .timed }).sendPeer q { a with stage := .timed }
      | _, false => s.modAcc q id fun a => { a with stage := .timed, performAt := max a.performAt s.now }
    | none => s

end Sys2Proof.Machine
end

