-- ==== Sys2Proof/Machine/Flags.lean ====
section
/-! DEFINITION. Results computed from 64-bit operands: the ALU functions of R100 and R101 and the comparisons of R105. No
control form sets a flag (R100); the flags of R26 are computed where values are rounded, in `Machine/Numbers.lean`, and
gathered per cluster by the vector slots. -/
namespace Sys2Proof.Machine
open Sys2Proof

/-- Leading zero bits; 64 for zero. -/
def cntlz (n : Nat) (x : BitVec n) : Nat := if x = 0#n then n else n - 1 - Nat.log2 x.toNat

/-- One bits. -/
def cntpop (n : Nat) (x : BitVec n) : Nat := (List.range n).countP (x.getLsbD ·)

/-- Bits [127:64] of a product, both signed or both unsigned (R100). -/
def mulHigh (signed : Bool) (a b : Word) : Word :=
  if signed then ((a.signExtend 128 * b.signExtend 128) >>> 64).setWidth 64
  else ((a.setWidth 128 * b.setWidth 128) >>> 64).setWidth 64

/-- R101. -/
def quotS (a b : Word) : Word := if b = 0#64 then BitVec.allOnes 64 else a.sdiv b
def quotU (a b : Word) : Word := if b = 0#64 then BitVec.allOnes 64 else a / b
def remS (a b : Word) : Word := if b = 0#64 then a else a.srem b
def remU (a b : Word) : Word := if b = 0#64 then a else a % b

/-- 1 or 0. -/
def bit01 (b : Bool) : Word := if b then 1#64 else 0#64

/-- The shift amount of a register operand, b[5:0] (R100). -/
def shamt (b : Word) : Nat := b.toNat % 64

/-- `a[pos+len-1:pos]`, sign- or zero-extended (R103). -/
def extractField (signed : Bool) (a : Word) (pos len : Nat) : Word :=
  let up := a <<< (64 - (pos + len))
  if signed then up.sshiftRight (64 - len) else up >>> (64 - len)

/-- `t[pos+len-1:pos] := a[len-1:0]` (R103). -/
def insertField (t a : Word) (pos len : Nat) : Word :=
  let m := (BitVec.allOnes 64 >>> (64 - len)) <<< pos
  (t &&& ~~~m) ||| ((a <<< pos) &&& m)

end Sys2Proof.Machine
end

