-- ==== Sys2Proof/Machine/Alu.lean ====
section
/-! DEFINITION. The integer forms of the control sequencer: R100 to R104. -/
namespace Sys2Proof.Machine
open Sys2Proof

/-- An R-form of R100: g[rd] := f a b after `lat` cycles. -/
def aluR (s : State) (d a b : BitVec 6) (lat : Nat) (f : Word → Word → Word) : Out' :=
  issueValue s [a, b] d lat true fun q => f (q.gr a) (q.gr b)

/-- An I-form of R102: g[rd] := f a sext(imm). -/
def aluI (s : State) (d a : BitVec 6) (i : BitVec 13) (f : Word → Word → Word) : Out' :=
  issueValue s [a] d 1 true fun q => f (q.gr a) (sext i)

/-- An immediate shift of R102. -/
def aluShift (s : State) (d a : BitVec 6) (n : BitVec 6) (f : Word → Nat → Word) : Out' :=
  issueValue s [a] d 1 true fun q => f (q.gr a) n.toNat

/-- ADD (R100). -/
def execAdd (d a b : BitVec 6) (s : State) : Out' := aluR s d a b 1 fun x y => x + y
/-- SUB (R100). -/
def execSub (d a b : BitVec 6) (s : State) : Out' := aluR s d a b 1 fun x y => x - y
/-- AND (R100). -/
def execAnd (d a b : BitVec 6) (s : State) : Out' := aluR s d a b 1 fun x y => x &&& y
/-- OR (R100). -/
def execOr (d a b : BitVec 6) (s : State) : Out' := aluR s d a b 1 fun x y => x ||| y
/-- XOR (R100). -/
def execXor (d a b : BitVec 6) (s : State) : Out' := aluR s d a b 1 fun x y => x ^^^ y
/-- ANDN (R100). -/
def execAndn (d a b : BitVec 6) (s : State) : Out' := aluR s d a b 1 fun x y => x &&& ~~~y
/-- SHL (R100). -/
def execShl (d a b : BitVec 6) (s : State) : Out' := aluR s d a b 1 fun x y => x <<< shamt y
/-- SHR, zeros shifted in (R100). -/
def execShr (d a b : BitVec 6) (s : State) : Out' := aluR s d a b 1 fun x y => x >>> shamt y
/-- SRA, a[63] shifted in (R100). -/
def execSra (d a b : BitVec 6) (s : State) : Out' := aluR s d a b 1 fun x y => x.sshiftRight (shamt y)
/-- MUL (R100). -/
def execMul (d a b : BitVec 6) (s : State) : Out' := aluR s d a b 3 fun x y => x * y
/-- MULH (R100). -/
def execMulh (d a b : BitVec 6) (s : State) : Out' := aluR s d a b 3 fun x y => mulHigh true x y
/-- MULHU (R100). -/
def execMulhu (d a b : BitVec 6) (s : State) : Out' := aluR s d a b 3 fun x y => mulHigh false x y
/-- DIV (R101). -/
def execDiv (d a b : BitVec 6) (s : State) : Out' := aluR s d a b 24 fun x y => quotS x y
/-- DIVU (R101). -/
def execDivu (d a b : BitVec 6) (s : State) : Out' := aluR s d a b 24 fun x y => quotU x y
/-- REM (R101). -/
def execRem (d a b : BitVec 6) (s : State) : Out' := aluR s d a b 24 fun x y => remS x y
/-- REMU (R101). -/
def execRemu (d a b : BitVec 6) (s : State) : Out' := aluR s d a b 24 fun x y => remU x y
/-- MIN (R100). -/
def execMin (d a b : BitVec 6) (s : State) : Out' := aluR s d a b 1 fun x y => if x.slt y then x else y
/-- MAX (R100). -/
def execMax (d a b : BitVec 6) (s : State) : Out' := aluR s d a b 1 fun x y => if x.slt y then y else x
/-- SLT (R100). -/
def execSlt (d a b : BitVec 6) (s : State) : Out' := aluR s d a b 1 fun x y => bit01 (x.slt y)
/-- SLTU (R100). -/
def execSltu (d a b : BitVec 6) (s : State) : Out' := aluR s d a b 1 fun x y => bit01 (x.ult y)
/-- SEQ (R100). -/
def execSeq (d a b : BitVec 6) (s : State) : Out' := aluR s d a b 1 fun x y => bit01 (x == y)
/-- CNTLZ (R100); rb is not read. -/
def execCntlz (d a : BitVec 6) (s : State) : Out' := issueValue s [a] d 1 true fun q => BitVec.ofNat 64 (cntlz 64 (q.gr a))
/-- CNTPOP (R100). -/
def execCntpop (d a : BitVec 6) (s : State) : Out' := issueValue s [a] d 1 true fun q => BitVec.ofNat 64 (cntpop 64 (q.gr a))

/-- ADDI (R102). -/
def execAddi (d a : BitVec 6) (i : BitVec 13) (s : State) : Out' := aluI s d a i fun x y => x + y
/-- ANDI (R102). -/
def execAndi (d a : BitVec 6) (i : BitVec 13) (s : State) : Out' := aluI s d a i fun x y => x &&& y
/-- ORI (R102). -/
def execOri (d a : BitVec 6) (i : BitVec 13) (s : State) : Out' := aluI s d a i fun x y => x ||| y
/-- XORI (R102). -/
def execXori (d a : BitVec 6) (i : BitVec 13) (s : State) : Out' := aluI s d a i fun x y => x ^^^ y
/-- SLTI (R102). -/
def execSlti (d a : BitVec 6) (i : BitVec 13) (s : State) : Out' := aluI s d a i fun x y => bit01 (x.slt y)
/-- SHLI (R102). -/
def execShli (d a n : BitVec 6) (s : State) : Out' := aluShift s d a n fun x n => x <<< n
/-- SHRI (R102). -/
def execShri (d a n : BitVec 6) (s : State) : Out' := aluShift s d a n fun x n => x >>> n
/-- SRAI (R102). -/
def execSrai (d a n : BitVec 6) (s : State) : Out' := aluShift s d a n fun x n => x.sshiftRight n

/-- EXTR (R103). -/
def execExtr (d a l p : BitVec 6) (s : State) : Out' :=
  issueValue s [a] d 1 (fieldOk l p) fun q => extractField true (q.gr a) p.toNat (l.toNat + 1)
/-- EXTRZ (R103). -/
def execExtrz (d a l p : BitVec 6) (s : State) : Out' :=
  issueValue s [a] d 1 (fieldOk l p) fun q => extractField false (q.gr a) p.toNat (l.toNat + 1)
/-- INSR (R103), which reads g[rd] too. -/
def execInsr (d a l p : BitVec 6) (s : State) : Out' :=
  issueValue s [a] d 1 (fieldOk l p) fun q => insertField (q.gr d) (q.gr a) p.toNat (l.toNat + 1)
/-- LUI (R104). -/
def execLui (d : BitVec 6) (i : BitVec 19) (s : State) : Out' := issueValue s [] d 1 true fun _ => sext i <<< 13
/-- LCAT (R104), which reads g[rd]. -/
def execLcat (d : BitVec 6) (i : BitVec 19) (s : State) : Out' :=
  issueValue s [] d 1 true fun q => (q.gr d <<< 19) ||| zext i

end Sys2Proof.Machine
end

