-- ==== Sys2Proof/Machine/Hash.lean ====
section
/-! DEFINITION. Byte strings, and the hash standards the part follows (R17): SHA-256 (FIPS 180-4), HMAC-SHA-256, the KDF of
R411, and the SHA-3 family (FIPS 202) that ML-KEM uses. Words are kept as numbers below their power of two. A digest is a bit
vector whose lowest byte is the digest's first. -/
namespace Sys2Proof.Machine
open Sys2Proof

/-! ## Byte strings -/

/-- `n` bytes of a string at `off`; bytes beyond its end are missing. -/
def slice (bs : List Byte) (off n : Nat) : List Byte := (bs.drop off).take n
/-- A field of `n` bytes, lowest byte first. -/
def field (bs : List Byte) (off n : Nat) : Nat := natOf (slice bs off n)
/-- All bytes are zero. -/
def allZero (bs : List Byte) : Bool := bs.all (· = 0#8)
/-- A list cut into pieces of `k`; the fuel is the number of pieces. -/
def pieces_ (k : Nat) : Nat → List Byte → List (List Byte)
  | 0, _ => []
  | n + 1, bs => bs.take k :: pieces_ k n (bs.drop k)
/-- Bytes as a 256-bit value, in their order. -/
def hashOf (bs : List Byte) : BitVec 256 := BitVec.ofNat 256 (natOf bs)
/-- The bytes of a 256-bit value, in their order. -/
def hashBytes (h : BitVec 256) : List Byte := bytesOf 32 h.toNat
/-- The `n` low bytes of a number, highest first (R411). -/
def bigBytes (n v : Nat) : List Byte := (bytesOf n v).reverse
/-- The number that bytes hold, highest first. -/
def bigNat (bs : List Byte) : Nat := natOf bs.reverse
/-- Bytes added bit by bit. -/
def xorBytes (a b : List Byte) : List Byte := List.zipWith (· ^^^ ·) a b
/-- The bytes of an ASCII string. -/
def asciiBytes (t : String) : List Byte := t.toList.map fun c => BitVec.ofNat 8 c.toNat

/-! ## SHA-256 -/

/-- A 32-bit word turned right. -/
def rotr32 (x n : Nat) : Nat := x / 2 ^ n ||| x * 2 ^ (32 - n) % 2 ^ 32

/-- The primes below 361: every number there that no number from 2 to 18 divides but itself. -/
def smallPrimes : List Nat :=
  (List.range 361).filter fun n => 2 ≤ n && (List.range 19).all fun d => d < 2 || n ≤ d || n % d ≠ 0

/-- The greatest `x` below `lo + 2 ^ n` with `x ^ k ≤ v`, found bit by bit; `lo` is known to be small enough. -/
def rootFrom (k v lo : Nat) : Nat → Nat
  | 0 => lo
  | n + 1 => rootFrom k v (if (lo + 2 ^ n) ^ k ≤ v then lo + 2 ^ n else lo) n

/-- The first 32 bits behind the point of the `k`-th root of `p`, which is below 2 ^ 8. -/
def rootBits (k p : Nat) : Nat := rootFrom k (p * 2 ^ (32 * k)) 0 40 % 2 ^ 32

/-- The round constants: from the cube roots of the first 64 primes. -/
def shaK : List Nat := (smallPrimes.take 64).map (rootBits 3)

/-- The eight words of the hash before its first block: from the square roots of the first 8 primes. -/
def shaInit : List Nat := (smallPrimes.take 8).map (rootBits 2)

/-- The message schedule, its newest word first: `n` more words after those of `w`. -/
def shaSchedule : Nat → List Nat → List Nat
  | 0, w => w
  | n + 1, w =>
    let a := w.getD 14 0
    let b := w.getD 1 0
    let s0 := rotr32 a 7 ^^^ rotr32 a 18 ^^^ a / 2 ^ 3
    let s1 := rotr32 b 17 ^^^ rotr32 b 19 ^^^ b / 2 ^ 10
    shaSchedule n ((w.getD 15 0 + s0 + w.getD 6 0 + s1) % 2 ^ 32 :: w)

/-- One round on the eight words. -/
def shaRound (h : List Nat) (kw : Nat) : List Nat :=
  match h with
  | [a, b, c, d, e, f, g, x] =>
    let s1 := rotr32 e 6 ^^^ rotr32 e 11 ^^^ rotr32 e 25
    let ch := (e &&& f) ^^^ ((2 ^ 32 - 1 - e) &&& g)
    let t1 := x + s1 + ch + kw
    let s0 := rotr32 a 2 ^^^ rotr32 a 13 ^^^ rotr32 a 22
    let maj := (a &&& b) ^^^ (a &&& c) ^^^ (b &&& c)
    [(t1 + s0 + maj) % 2 ^ 32, a, b, c, (d + t1) % 2 ^ 32, e, f, g]
  | _ => h

/-- The hash goes on by one block of 64 bytes. -/
def shaBlock (h : List Nat) (blk : List Byte) : List Nat :=
  let w := (shaSchedule 48 ((pieces_ 4 16 blk).map bigNat).reverse).reverse
  let y := (shaK.zip w).foldl (fun h kw => shaRound h (kw.1 + kw.2)) h
  List.zipWith (fun a b => (a + b) % 2 ^ 32) h y

/-- The padding of a message of `n` bytes. -/
def shaPad (n : Nat) : List Byte := 0x80#8 :: List.replicate ((119 - n % 64) % 64) 0#8 ++ bigBytes 8 (8 * n)

/-- The digest's bytes. -/
def shaBytes (m : List Byte) : List Byte :=
  let p := m ++ shaPad m.length
  ((pieces_ 64 (p.length / 64) p).foldl shaBlock shaInit).flatMap (bigBytes 4)

/-- SHA-256 (R95). -/
def sha256 (m : List Byte) : BitVec 256 := hashOf (shaBytes m)

/-- HMAC-SHA-256 under a key of 32 bytes. -/
def hmacSha256 (k : BitVec 256) (m : List Byte) : BitVec 256 :=
  let key := hashBytes k ++ List.replicate 32 0#8
  sha256 (key.map (· ^^^ 0x5C#8) ++ shaBytes (key.map (· ^^^ 0x36#8) ++ m))

/-- KDF(K, label, ctx) of R411: the counter, the label, a zero byte, the context and the length, integers big-endian. -/
def kdf (k : BitVec 256) (label : String) (ctx : List Byte) : BitVec 256 :=
  hmacSha256 k (bigBytes 4 1 ++ asciiBytes label ++ [0#8] ++ ctx ++ bigBytes 4 256)

/-! ## The SHA-3 family -/

/-- A 64-bit lane turned left. -/
def rotl64 (x n : Nat) : Nat := x * 2 ^ n % 2 ^ 64 ||| x / 2 ^ (64 - n)

/-- The turns of the lanes x + 5y. -/
def keccakTurns : List Nat :=
  [0, 1, 62, 28, 27, 36, 44, 6, 55, 20, 3, 10, 43, 25, 39, 41, 45, 15, 21, 8, 18, 2, 61, 56, 14]

/-- The round constants. -/
def keccakRc : List Nat :=
  [0x0000000000000001, 0x0000000000008082, 0x800000000000808A, 0x8000000080008000, 0x000000000000808B, 0x0000000080000001,
   0x8000000080008081, 0x8000000000008009, 0x000000000000008A, 0x0000000000000088, 0x0000000080008009, 0x000000008000000A,
   0x000000008000808B, 0x800000000000008B, 0x8000000000008089, 0x8000000000008003, 0x8000000000008002, 0x8000000000000080,
   0x000000000000800A, 0x800000008000000A, 0x8000000080008081, 0x8000000000008080, 0x0000000080000001, 0x8000000080008008]

/-- A round of Keccak-f[1600] on 25 lanes, lane x + 5y. -/
def keccakRound (a : List Nat) (rc : Nat) : List Nat :=
  let c := (List.range 5).map fun x => (List.range 5).foldl (fun p y => p ^^^ a.getD (x + 5 * y) 0) 0
  let d := (List.range 5).map fun x => c.getD ((x + 4) % 5) 0 ^^^ rotl64 (c.getD ((x + 1) % 5) 0) 1
  let b := (a.zip keccakTurns).zipIdx.map fun ((v, r), i) => rotl64 (v ^^^ d.getD (i % 5) 0) r
  -- lane (x, y) of the next state comes from lane (x + 3y, x)
  let p := (List.range 25).map fun i => b.getD ((i % 5 + 3 * (i / 5)) % 5 + 5 * (i % 5)) 0
  (List.range 25).map fun i =>
    let row (k : Nat) : Nat := p.getD ((i % 5 + k) % 5 + 5 * (i / 5)) 0
    row 0 ^^^ ((2 ^ 64 - 1 - row 1) &&& row 2) ^^^ (if i = 0 then rc else 0)

def keccakF (a : List Nat) : List Nat := keccakRc.foldl keccakRound a

/-- Take a block of `rate` bytes in. -/
def keccakAbsorb (a : List Nat) (blk : List Byte) : List Nat :=
  let lanes := (pieces_ 8 (blk.length / 8) blk).map natOf
  keccakF (a.zipIdx.map fun (v, i) => v ^^^ lanes.getD i 0)

/-- Give `n` blocks of `rate` bytes out. -/
def keccakSqueeze (rate : Nat) : Nat → List Nat → List Byte
  | 0, _ => []
  | n + 1, a => (a.flatMap (bytesOf 8)).take rate ++ keccakSqueeze rate n (keccakF a)

/-- The sponge: a message with its domain bits, and `n` bytes of output. -/
def keccak (rate : Nat) (domain : Byte) (m : List Byte) (n : Nat) : List Byte :=
  let gap := rate - m.length % rate
  let pad := if gap = 1 then [domain ^^^ 0x80#8] else domain :: List.replicate (gap - 2) 0#8 ++ [0x80#8]
  let p := m ++ pad
  (keccakSqueeze rate ((n + rate - 1) / rate) ((pieces_ rate (p.length / rate) p).foldl keccakAbsorb (List.replicate 25 0))).take n

def sha3_256 (m : List Byte) : List Byte := keccak 136 0x06#8 m 32
def sha3_512 (m : List Byte) : List Byte := keccak 72 0x06#8 m 64
def shake128 (m : List Byte) (n : Nat) : List Byte := keccak 168 0x1F#8 m n
def shake256 (m : List Byte) (n : Nat) : List Byte := keccak 136 0x1F#8 m n

end Sys2Proof.Machine
end

