-- ==== Sys2Proof/Machine/Aes.lean ====
section
/-! DEFINITION. AES-256 (FIPS 197) and the modes the part uses it in (R17): Galois/counter mode with its GMAC
(SP 800-38D), under IVs of 96 bits, and key wrap (RFC 3394). Keys, blocks and IVs are byte strings. -/
namespace Sys2Proof.Machine
open Sys2Proof

/-! ## The cipher -/

/-- A product in GF(2^8) with the reduction polynomial `p` (its bits below 2^8), by the bits of `a` from the lowest. -/
def gfTimes (p : Byte) : Nat → Byte → Byte → Byte
  | 0, _, _ => 0#8
  | n + 1, a, b =>
    (if a.getLsbD 0 then b else 0#8) ^^^ gfTimes p n (a >>> 1) ((b <<< 1) ^^^ (if b.getLsbD 7 then p else 0#8))

/-- The product of AES: x^8 + x^4 + x^3 + x + 1. -/
def aesMul (a b : Byte) : Byte := gfTimes 0x1B#8 8 a b

/-- A byte's inverse, 0 its own: its power 254. -/
def aesInv (a : Byte) : Byte :=
  let sq (x : Byte) : Byte := aesMul x x
  let a2 := sq a
  let a3 := aesMul a2 a
  let a12 := sq (sq a3)
  let a15 := aesMul a12 a3
  let a240 := sq (sq (sq (sq a15)))
  aesMul (aesMul a240 a12) a2

/-- SubBytes of a byte, and its inverse. -/
def aesSub (a : Byte) : Byte :=
  let b := aesInv a
  b ^^^ b.rotateLeft 1 ^^^ b.rotateLeft 2 ^^^ b.rotateLeft 3 ^^^ b.rotateLeft 4 ^^^ 0x63#8
def aesUnsub (a : Byte) : Byte := aesInv (a.rotateLeft 1 ^^^ a.rotateLeft 3 ^^^ a.rotateLeft 6 ^^^ 0x05#8)

/-- ShiftRows of a block laid out column by column, and its inverse. -/
def aesShift (b : List Byte) : List Byte := (List.range 16).map fun i => b.getD ((i + 4 * (i % 4)) % 16) 0#8
def aesUnshift (b : List Byte) : List Byte := (List.range 16).map fun i => b.getD ((i + 12 * (i % 4)) % 16) 0#8

/-- A column mixed with the four coefficients given. -/
def aesMix (c : List Byte) (b : List Byte) : List Byte :=
  (List.range 16).map fun i => (List.range 4).foldl (fun x j => x ^^^ aesMul (c.getD ((4 + j - i % 4) % 4) 0#8) (b.getD (i / 4 * 4 + j) 0#8)) 0#8

/-- `n` more words of the key schedule after those of `w`, the newest first; `i` is the number of the next. -/
def aesExpand : Nat → Nat → Byte → List (List Byte) → List (List Byte)
  | 0, _, _, w => w
  | n + 1, i, rc, w =>
    let t := w.headD []
    let t := if i % 8 = 0 then xorBytes ((t.drop 1 ++ t.take 1).map aesSub) [rc, 0#8, 0#8, 0#8] else if i % 8 = 4 then t.map aesSub else t
    aesExpand n (i + 1) (if i % 8 = 0 then aesMul rc 2#8 else rc) (xorBytes t (w.getD 7 []) :: w)

/-- The fifteen round keys of a key of 32 bytes. -/
def aesKeys (key : List Byte) : List (List Byte) := pieces_ 16 15 ((aesExpand 52 8 1#8 (pieces_ 4 8 key).reverse).reverse.flatten)

/-- Encrypt a block under round keys. -/
def aesEnc (rk : List (List Byte)) (b : List Byte) : List Byte :=
  let mid := ((rk.drop 1).take 13).foldl (fun b k => xorBytes (aesMix [2#8, 3#8, 1#8, 1#8] (aesShift (b.map aesSub))) k) (xorBytes b (rk.getD 0 []))
  xorBytes (aesShift (mid.map aesSub)) (rk.getD 14 [])

/-- Decrypt a block. -/
def aesDec (rk : List (List Byte)) (b : List Byte) : List Byte :=
  let mid := ((rk.drop 1).take 13).reverse.foldl
    (fun b k => aesMix [14#8, 11#8, 13#8, 9#8] (xorBytes ((aesUnshift b).map aesUnsub) k)) (xorBytes b (rk.getD 14 []))
  xorBytes ((aesUnshift mid).map aesUnsub) (rk.getD 0 [])

/-! ## Counter mode -/

/-- `n` bytes of the key stream from counter `c` on: each block encrypts IV ‖ counter. -/
def ctrStream (rk : List (List Byte)) (iv : List Byte) (c n : Nat) : List Byte :=
  (((List.range ((n + 15) / 16)).map fun i => aesEnc rk (iv ++ bigBytes 4 (c + i))).flatten).take n

/-! ## GCM -/

/-- A product in GF(2^128) in GCM's order of bits: bit 127 of a number is the coefficient of 1; by the bits of `a` from the
highest. -/
def ghashTimes : Nat → Nat → Nat → Nat
  | 0, _, _ => 0
  | n + 1, a, b =>
    (if a.testBit n then b else 0) ^^^ ghashTimes n a (b / 2 ^ 1 ^^^ (if b.testBit 0 then 0xE1 * 2 ^ 120 else 0))

/-- Bytes filled up with zeros to whole blocks. -/
def blockPad (bs : List Byte) : List Byte := bs ++ List.replicate ((16 - bs.length % 16) % 16) 0#8

/-- GHASH of authenticated data and ciphertext. -/
def ghash (h : Nat) (aad ct : List Byte) : Nat :=
  let m := blockPad aad ++ blockPad ct ++ bigBytes 8 (8 * aad.length) ++ bigBytes 8 (8 * ct.length)
  (pieces_ 16 (m.length / 16) m).foldl (fun y b => ghashTimes 128 (y ^^^ bigNat b) h) 0

/-- The 16-byte tag. -/
def gcmTag (rk : List (List Byte)) (iv aad ct : List Byte) : List Byte :=
  xorBytes (bigBytes 16 (ghash (bigNat (aesEnc rk (List.replicate 16 0#8))) aad ct)) (aesEnc rk (iv ++ bigBytes 4 1))

/-- AES-256-GCM: ciphertext and tag. -/
def gcmSeal (key iv aad pt : List Byte) : List Byte × List Byte :=
  let rk := aesKeys key
  let ct := xorBytes pt (ctrStream rk iv 2 pt.length)
  (ct, gcmTag rk iv aad ct)

/-- AES-256-GCM decryption; none when the first bytes of the tag, as many as are given, fail. -/
def gcmOpen (key iv aad ct tag : List Byte) : Option (List Byte) :=
  let rk := aesKeys key
  if (gcmTag rk iv aad ct).take tag.length = tag then some (xorBytes ct (ctrStream rk iv 2 ct.length)) else none

/-- GMAC: the tag with no plaintext (R61). -/
def gmac (key iv aad : List Byte) : List Byte := gcmTag (aesKeys key) iv aad []

/-! ## Key wrap -/

/-- Undo step `t` on the register and the wrapped words: `A` first, then `n` words. -/
def unwrapStep (rk : List (List Byte)) (n : Nat) (w : List (List Byte)) (t : Nat) : List (List Byte) :=
  let i := (t - 1) % n + 1
  let b := aesDec rk (xorBytes (w.headD []) (bigBytes 8 t) ++ w.getD i [])
  (w.set i (b.drop 8)).set 0 (b.take 8)

/-- AES key unwrap of RFC 3394: 40 bytes to a key of 32; none when it does not unwrap (R413). -/
def aesUnwrap (key ct : List Byte) : Option (List Byte) :=
  let w := (List.range 24).foldl (fun w j => unwrapStep (aesKeys key) 4 w (24 - j)) (pieces_ 8 5 ct)
  if ct.length = 40 ∧ w.headD [] = List.replicate 8 0xA6#8 then some (w.drop 1).flatten else none

end Sys2Proof.Machine
end

