-- ==== Sys2Proof/Machine/Queue.lean ====
section
/-! DEFINITION. Control-queue pushes (R84, R116, R117) and semaphores (R118 to R122). -/
namespace Sys2Proof.Machine
open Sys2Proof

/-! ## Entries of the CQ (R84) -/

def tripEntry (epi : BitVec 8) (clamp : BitVec 1) (loop : BitVec 4) (count : Word32) : Word :=
  1#4 ++ epi ++ clamp ++ loop ++ 0#15 ++ count
def maskEntry (kidx : BitVec 3) (cset : BitVec 8) (lanes : BitVec 16) : Word := 2#4 ++ 0#33 ++ kidx ++ cset ++ lanes
def outcEntry (taken : Bool) (target : BitVec 20) : Word := 3#4 ++ 0#39 ++ BitVec.ofBool taken ++ target
def blkEntry (target : BitVec 20) : Word := 4#4 ++ 0#40 ++ target
def valEntry (sidx : BitVec 5) (value : Word32) : Word := 5#4 ++ 0#23 ++ sidx ++ value

/-- Append an entry, or wait while the CQ holds 64 (R117). A keeper sequencer has no CQ (R308). -/
def pushForm (s : State) (name : String) (regs : List (BitVec 6)) (legal : Bool) (entry : Seq → Word) : Out' :=
  issueCtl s regs false legal true fun q =>
    match s.cur with
    | .keeper _ => .refused (.keeperLacks name)
    | .tile t =>
      if 64 ≤ (s.tile t).bsq.cq.length then .next s.waitCsq
      else (s.modTile t fun x => x.modBsq fun b =>
        { b with cq := b.cq ++ [{ w := entry q, pushedAt := s.now, pos := q.nextAcc }] }).retireWith id

/-- PUSHT (R116). -/
def execPusht (a : BitVec 6) (e : BitVec 8) (c : BitVec 1) (l : BitVec 4) (s : State) : Out' :=
  pushForm s "PUSHT" [a] true fun q => tripEntry e c l ((q.gr a).setWidth 32)
/-- PUSHM (R116); k = 0 is illegal (R69). -/
def execPushm (a : BitVec 6) (k : BitVec 3) (c : BitVec 8) (s : State) : Out' :=
  pushForm s "PUSHM" [a] (k != 0) fun q => maskEntry k c ((q.gr a).setWidth 16)
/-- PUSHO (R116): TAKEN when g[rd] is not zero. -/
def execPusho (d : BitVec 6) (t : BitVec 19) (s : State) : Out' :=
  pushForm s "PUSHO" [d] true fun q => outcEntry (q.gr d != 0#64) (t.setWidth 20)
/-- PUSHB (R116). -/
def execPushb (t : BitVec 19) (s : State) : Out' := pushForm s "PUSHB" [] true fun _ => blkEntry (t.setWidth 20)
/-- PUSHV (R116). -/
def execPushv (a : BitVec 6) (i : BitVec 5) (s : State) : Out' :=
  pushForm s "PUSHV" [a] true fun q => valEntry i ((q.gr a).setWidth 32)

/-! ## Semaphores -/

/-- SEMWAIT (R118): the test sees no local increment of this cycle (R119); a consuming wait subtracts when it succeeds. -/
def execSemwait (c : BitVec 1) (t : BitVec 8) (i : BitVec 8) (s : State) : Out' :=
  issueCtl s [] false (!(c == 1 && t == 0)) true fun _ =>
    match s.cur with
    | .keeper _ => .refused (.keeperLacks "SEMWAIT")
    | .tile u =>
      let x := s.tile u
      if x.semSeen i.toNat < t.toNat then .next s.waitCsq
      else if c = 1 then (s.setTile u (x.setSem i.toNat (x.semVal i.toNat - t.toNat))).retireWith id
      else s.retireWith id

/-- A local signal by the CSQ: overflow raises SEMOVF at the SEMSIG (R120). -/
def localSignal (s : State) (t sem inc : Nat) : Out' :=
  match (s.tile t).semAdd sem inc with
  | some x => (s.setTile t x).retireWith id
  | none => .next (s.raise semOvf 0#64)

/-- SEMSIG (R119): a gate and a release of Q0 to Q2; a signal to the tile's own logical number is local (R256). -/
def execSemsig (a : BitVec 6) (f : BitVec 1) (i : BitVec 4) (sem : BitVec 8) (s : State) : Out' :=
  issueCtl s (if f = 1 then [a] else []) true (f == 1 || a == 0) true fun q =>
    let inc := i.toNat + 1
    let far := q.csr.ptile (q.gr a).toNat
    match s.cur with
    | .keeper _ => if f = 1 then .next (s.raise spadBounds 0#64) else .refused (.keeperLacks "SEMSIG")
    | .tile t =>
      if f = 1 && far.isNone then .next (s.raise spadBounds 0#64)
      else if !q.allReleased then .next s.waitCsq
      else
        let s := s.flushWc t 7
        if (s.tile t).flushHeld 7 then .next s.waitCsq else
        let u := if f = 1 then far.getD t else t
        if u = t then localSignal s t sem.toNat inc
        else (s.sendIncrement t u sem.toNat inc).retireWith id

/-- SEMRD (R121). -/
def execSemrd (d : BitVec 6) (sem : BitVec 8) (s : State) : Out' :=
  issueCtl s [d] false true true fun _ =>
    match s.cur with
    | .keeper _ => .refused (.keeperLacks "SEMRD")
    | .tile t => s.retireWith fun q => q.setG d (BitVec.ofNat 64 ((s.tile t).semVal sem.toNat)) (s.now + 1)

/-- SEMINIT (R121): a value above 65 535 raises SEMOVF. -/
def execSeminit (a : BitVec 6) (sem : BitVec 8) (s : State) : Out' :=
  issueCtl s [a] false true true fun q =>
    match s.cur with
    | .keeper _ => .refused (.keeperLacks "SEMINIT")
    | .tile t =>
      if 65535 < (q.gr a).toNat then .next (s.raise semOvf 0#64)
      else (s.modTile t fun x => x.setSem sem.toNat (q.gr a).toNat).retireWith id

/-- A far increment arrives (R119, R120, R258, R417): applied at any tile of the team, running or not, and seen by waits
from the next cycle on, as the timeline of chapter 11 has it. An overflow is a
fault of the unit of the holding tile, held while another is reported (R368), or of the team when no unit runs. -/
def execFarIncrementArrival (t sem inc src wtag : Nat) (s : State) : Out' :=
  if Config.tiles ≤ t then .fault (.noSuchUnit "FAR_INCREMENT_ARRIVAL" t)
  else if !s.tagOk t wtag then .next (s.dropTag t)
  else
    let x := s.tile t
    match x.semAdd sem inc with
    | some y => .next (s.setTile t y)
    | none =>
      let f : PendFault := { code := semOvf, slot := 0, eaddr := BitVec.ofNat 64 src, epc := x.seq.pc, far := true }
      if x.use = .running then
        if x.frozen && x.seq.csr.mode = 0#2 then .next (s.setTile t { x with held := x.held ++ [f] })
        else .next (s.raiseTile t f)
      else
        .next (s.raiseIdle t f)

end Sys2Proof.Machine
end

