-- ==== Sys2Proof/Machine/Syllables.lean ====
section
/-! DEFINITION. The bundle encodings (R72 to R83): headers, the fields of the four syllable shapes, what each code uses,
and the check of a present syllable on its first issue (R75). A syllable that breaks both kinds of rule reports
ILLEGAL_ENC before REG_NAME. -/
namespace Sys2Proof.Machine
open Sys2Proof

/-! ## Headers (R72 to R74) -/

/-- The fields of a bundle header (R72). -/
structure Header where
  pres : Nat
  rep : Nat
  flow : Nat
  xpop : Nat
  ftz : Bool
  low : Nat
  deriving DecidableEq, Repr

def headerOf (w : Word) : Header :=
  let n := w.toNat
  { pres := bitsOf 63 44 n, rep := bitsOf 43 38 n, flow := bitsOf 37 34 n, xpop := bitsOf 33 32 n, ftz := bitOf 31 n
    low := bitsOf 30 0 n }

/-- Slot `i` in R73 order: 0 is S, 1 M, 2 C0, 3 C1, 4 + 2c + b the vector slots. -/
def Header.has (h : Header) (i : Nat) : Bool := bitOf (19 - i) h.pres

/-- Units of a bundle (R73). -/
def Header.units (h : Header) : Nat := 1 + cntBits 20 h.pres
where cntBits (n v : Nat) : Nat := (List.range n).countP fun i => bitOf i v

/-- The unit of slot `i`'s syllable, counted from the header. -/
def Header.place (h : Header) (i : Nat) : Nat := 1 + (List.range i).countP fun j => h.has j

/-- The slot field of ECAUSE for slot `i` (R35). -/
abbrev slotField (i : Nat) : Nat := i + 1
/-- The slot field of a fault of the bundle as a whole. -/
abbrev bundleField : Nat := 21

abbrev flowLoop : Nat := 1
abbrev flowEndl : Nat := 2
abbrev flowSel : Nat := 3
abbrev flowJblk : Nat := 4
abbrev flowHalt : Nat := 7

/-- The kind of the entry FLOW pops (R74, R84). -/
def flowPops : Nat → Option Nat
  | 1 => some 1 | 3 => some 3 | 4 => some 4 | 5 => some 2 | 6 => some 5 | _ => none

/-- Entries the bundle pops. -/
def Header.pops (h : Header) : Nat := h.xpop + if (flowPops h.flow).isSome then 1 else 0

/-! ## Fields of a syllable (R76, R77, R81) -/

/-- A source field: KIND and VAL. -/
structure Src where
  kind : Nat
  val : Nat
  deriving DecidableEq, Repr

def srcOf (f : Nat) : Src := { kind := bitsOf 13 12 f, val := bitsOf 11 0 f }

/-- Shape A. -/
structure SylA where
  opc : Nat
  k : Nat
  dest : Nat
  f1 : Nat
  f2 : Nat
  f3 : Nat
  low : Nat
  deriving DecidableEq, Repr

def sylA (w : Word) : SylA :=
  let n := w.toNat
  { opc := bitsOf 63 54 n, k := bitsOf 53 51 n, dest := bitsOf 50 44 n, f1 := bitsOf 43 30 n, f2 := bitsOf 29 16 n
    f3 := bitsOf 15 2 n, low := bitsOf 1 0 n }

abbrev SylA.op7 (a : SylA) : Nat := a.opc / 8
abbrev SylA.mod (a : SylA) : Nat := a.opc % 8
abbrev SylA.s1 (a : SylA) : Src := srcOf a.f1
abbrev SylA.s2 (a : SylA) : Src := srcOf a.f2
abbrev SylA.s3 (a : SylA) : Src := srcOf a.f3

/-- A signed field of n bits. -/
def signedField (n v : Nat) : Int := asInt true n v

/-- Shape M: VLD and VST. -/
structure SylM where
  k : Nat
  reg : Nat
  base : Nat
  offset : Nat
  step : Int
  low : Nat
  deriving DecidableEq, Repr

def sylM (w : Word) : SylM :=
  let n := w.toNat
  { k := bitsOf 53 51 n, reg := bitsOf 50 44 n, base := bitsOf 43 39 n, offset := bitsOf 38 18 n
    step := signedField 10 (bitsOf 17 8 n), low := bitsOf 7 0 n }

/-- The WAIT and SIGNAL fields (R81). -/
structure WaitSig where
  wsem : Nat
  wthr : Nat
  wcon : Bool
  ssem : Nat
  sinc : Nat
  stgt : Nat
  deriving DecidableEq, Repr

def waitSig (w : Word) : WaitSig :=
  let n := w.toNat
  { wsem := bitsOf 57 50 n, wthr := bitsOf 49 42 n, wcon := bitOf 41 n, ssem := bitsOf 40 33 n, sinc := bitsOf 32 29 n
    stgt := bitsOf 28 27 n }

/-- The limits of R81. -/
def WaitSig.legal (v : WaitSig) (far : Bool) : Bool :=
  !(v.wcon && v.wthr = 0) && !(v.stgt = 0 && (v.ssem ≠ 0 || v.sinc ≠ 0)) && (far || v.stgt < 2)

/-- Shape X. -/
structure SylX where
  opc : Nat
  abase : Nat
  bbase : Nat
  acc : Nat
  zero : Bool
  tb : Bool
  stepa : Int
  stepb : Int
  stepbRaw : Nat
  low : Nat
  deriving DecidableEq, Repr

def sylX (w : Word) : SylX :=
  let n := w.toNat
  { opc := bitsOf 63 58 n, abase := bitsOf 26 22 n, bbase := bitsOf 21 17 n, acc := bitsOf 16 15 n, zero := bitOf 14 n
    tb := bitOf 13 n, stepa := signedField 6 (bitsOf 12 7 n), stepb := signedField 6 (bitsOf 6 1 n)
    stepbRaw := bitsOf 6 1 n, low := bitsOf 0 0 n }

/-- Shape C. -/
structure SylC where
  opc : Nat
  s1 : Nat
  s2 : Nat
  s3 : Nat
  flags : Nat
  deriving DecidableEq, Repr

def sylC (w : Word) : SylC :=
  let n := w.toNat
  { opc := bitsOf 63 58 n, s1 := bitsOf 26 22 n, s2 := bitsOf 21 17 n, s3 := bitsOf 16 12 n, flags := bitsOf 11 0 n }

abbrev SylC.fn (c : SylC) : Nat := c.flags / 256
abbrev SylC.scope (c : SylC) : Nat := c.flags / 32 % 8

/-- The IDLE syllable of any slot (R78, R80, R82, R83). -/
abbrev isIdle (w : Word) : Bool := w == 0#64

/-! ## What a vector-slot code uses (R78) -/

/-- The use of a source field. -/
inductive Use where
  | no                 -- must be zero
  | op                 -- a source of any kind
  | uni                -- a source of KIND 0b01, 0b10 or 0b11 (R170, R175, R176)
  | lit                -- a control literal
  | mask               -- a k register (R180)
  | full               -- a full vector name
  deriving DecidableEq, Repr

/-- What DEST names. -/
inductive Dst where
  | none | v | k | s
  deriving DecidableEq, Repr

/-- The uses of a code's fields, and the modifiers it accepts (R79). -/
structure Form where
  d : Dst
  u1 : Use
  u2 : Use := .no
  u3 : Use := .no
  mods : List Nat := [0]
  deriving DecidableEq, Repr

abbrev modes : List Nat := [0, 1, 2, 3, 4]

/-- The shape-A and shape-K forms of the vector slots; none for IDLE, VLD, VST and the codes R78 does not list. -/
def vecForm (op7 : Nat) : Option Form :=
  match op7 with
  | 0x04 | 0x05 | 0x06 | 0x08 | 0x09 | 0x0A | 0x0C | 0x0D | 0x0E =>
    some { d := .v, u1 := .op, u2 := .op, mods := modes }
  | 0x10 | 0x11 | 0x12 | 0x14 | 0x15 | 0x16 | 0x18 | 0x19 | 0x1A | 0x1C | 0x1D | 0x1E =>
    some { d := .v, u1 := .op, u2 := .op, u3 := .op, mods := modes }
  | 0x20 | 0x21 | 0x22 | 0x24 | 0x25 | 0x26 => some { d := .v, u1 := .op, u2 := .op }
  | 0x28 | 0x29 | 0x2A => some { d := .k, u1 := .op, u2 := .op, mods := modes }
  | 0x2C | 0x2D => some { d := .v, u1 := .op, u2 := .op, u3 := .op, mods := modes }
  | 0x30 | 0x31 | 0x33 => some { d := .v, u1 := .op, u3 := .lit }
  | 0x32 => some { d := .v, u1 := .op, u2 := .op, u3 := .lit }
  | 0x34 | 0x35 | 0x36 | 0x37 | 0x38 | 0x39 | 0x3A => some { d := .v, u1 := .op, mods := modes }
  | 0x3C | 0x3D | 0x3E | 0x40 => some { d := .v, u1 := .op, u2 := .op, u3 := .lit, mods := modes }
  | 0x3F => some { d := .v, u1 := .op, u2 := .lit }
  | 0x41 => some { d := .v, u1 := .op, u2 := .lit, mods := modes }
  | 0x48 | 0x49 | 0x4A => some { d := .v, u1 := .op, u2 := .op, mods := [0, 1, 2, 3] }
  | 0x4B | 0x4D | 0x4E => some { d := .v, u1 := .op, u2 := .op, mods := [0, 2] }
  | 0x4C => some { d := .v, u1 := .op, u2 := .op, u3 := .op, mods := [0, 1, 2, 3] }
  | 0x4F => some { d := .v, u1 := .op, mods := [0, 1] }
  | 0x50 => some { d := .k, u1 := .op, u2 := .op, mods := [0, 1, 2, 3, 4, 5] }
  | 0x58 | 0x59 | 0x5A | 0x5B | 0x5D | 0x5E | 0x5F | 0x60 | 0x61 | 0x62 => some { d := .v, u1 := .op, u2 := .op }
  | 0x5C | 0x66 | 0x67 | 0x68 => some { d := .v, u1 := .op }
  | 0x63 | 0x64 | 0x65 | 0x6B | 0x6C => some { d := .v, u1 := .op, u2 := .op, u3 := .op }
  | 0x69 => some { d := .v, u1 := .op, u2 := .op, u3 := .lit }
  | 0x6A => some { d := .v, u1 := .op, u2 := .uni }
  | 0x6D | 0x6E => some { d := .v, u1 := .op, u2 := .lit, mods := modes }
  | 0x6F => some { d := .v, u1 := .full }
  | 0x72 => some { d := .v, u1 := .uni, u2 := .uni }
  | 0x73 => some { d := .none, u1 := .uni, u2 := .uni, u3 := .op }
  | 0x74 => some { d := .v, u1 := .op, u2 := .uni }
  | 0x75 => some { d := .none, u1 := .op, u2 := .uni, u3 := .op }
  | 0x76 => some { d := .v, u1 := .op, u2 := .uni, u3 := .lit }
  | 0x77 => some { d := .v, u1 := .op, u2 := .op, u3 := .lit }
  | 0x78 | 0x79 => some { d := .k, u1 := .mask, u2 := .mask }
  | 0x7A => some { d := .k, u1 := .mask }
  | 0x7B => some { d := .v, u1 := .mask }
  | _ => none

/-- Positions of a float format code (chapter 05); 0 for codes 5 to 7. -/
def floatPos : Nat → Nat
  | 0 => 1 | 1 => 2 | 2 => 2 | 3 => 4 | 4 => 4 | _ => 0
/-- Positions of an integer type code of ICVT (R160). -/
def intPos : Nat → Nat
  | 0 => 4 | 1 => 4 | 2 => 2 | 3 => 2 | 4 => 1 | 5 => 1 | _ => 0
/-- Positions of a source type of UNPACK (R162). -/
def unpackPos : Nat → Nat
  | 0 => 2 | 1 => 2 | 2 => 4 | 3 => 4 | 4 => 4 | 5 => 4 | 6 => 2 | _ => 2

/-- Which fields a FCVT or ICVT uses follows its literal: a 32-bit destination takes no merge source. -/
def destWide (op7 v3 : Nat) : Bool :=
  match op7 with
  | 0x3C => v3 / 8 % 8 = 0
  | 0x3D => if bitOf 6 v3 then v3 % 8 = 4 || v3 % 8 = 5 else v3 / 8 % 8 = 0
  | _ => false

/-- The form of a syllable, its literals taken into account. -/
def formOf (a : SylA) : Option Form :=
  (vecForm a.op7).map fun f => if destWide a.op7 a.s3.val then { f with u2 := .no } else f

/-- The limits of the control literals (R142). An UNPACK position beyond those of its 16-bit source types raises ILLEGAL_ENC,
as R159 has it for FCVT: DESIGN CHOICE (log 100). -/
def literalOk (a : SylA) : Bool :=
  let v2 := a.s2.val
  let v3 := a.s3.val
  match a.op7 with
  | 0x30 | 0x31 | 0x32 | 0x33 => v3 < 3
  | 0x3C => v3 % 8 ≤ 4 && v3 / 8 % 8 ≤ 4 && v3 / 64 % 4 < floatPos (v3 % 8) && v3 / 256 % 4 < floatPos (v3 / 8 % 8) && v3 < 2048
  | 0x3D =>
    let it := v3 % 8
    let ft := v3 / 8 % 8
    let (sn, dn) := if bitOf 6 v3 then (floatPos ft, intPos it) else (intPos it, floatPos ft)
    it ≤ 5 && ft ≤ 4 && v3 / 128 % 4 < sn && v3 / 512 % 4 < dn && v3 < 2048
  | 0x3E => v3 < 8 && (v3 % 4 < 2 || a.mod = 0)
  | 0x3F => v2 < 32 && v2 / 8 < unpackPos (v2 % 8)
  | 0x40 => v3 ≤ 4 && a.k = 0
  | 0x41 => v2 < 16 && v2 % 8 ≤ 4
  | 0x69 => v3 < 8
  | 0x6D | 0x6E => v2 < 8 && (v2 = 0 || a.mod = 0)
  | 0x76 => 1 ≤ v3 && v3 ≤ 14
  | 0x77 => v3 ≤ 8
  | _ => true

/-- What a source field of a given use may hold: none, or the fault. -/
def srcCheck (u : Use) (f : Nat) : Option Nat :=
  let v := srcOf f
  let reg := if v.val / 128 ≠ 0 then some illegalEnc else if 80 ≤ v.val then some regName else none
  let sreg := if v.val / 32 ≠ 0 then some regName else none
  match u with
  | .no => if f = 0 then none else some illegalEnc
  | .op => if v.kind = 0 then reg else if v.kind = 1 then sreg else none
  | .uni => if v.kind = 0 then some illegalEnc else if v.kind = 1 then sreg else none
  | .lit => if v.kind = 3 then none else some illegalEnc
  | .mask => if v.kind = 0 ∧ v.val < 8 then none else some illegalEnc
  | .full => if v.kind ≠ 0 ∨ 1024 ≤ v.val then some illegalEnc else if 80 ≤ v.val % 128 then some regName else none

/-- What a DEST field may hold. -/
def dstCheck (d : Dst) (dest : Nat) : Option Nat :=
  match d with
  | .none => if dest = 0 then none else some illegalEnc
  | .v => if dest < 80 then none else some regName
  | .k => if dest < 8 then none else some illegalEnc
  | .s => if dest < 32 then none else some regName

/-- The first ILLEGAL_ENC of a list of checks, else the first REG_NAME. -/
def worst (l : List (Option Nat)) : Option Nat :=
  if l.contains (some illegalEnc) then some illegalEnc else l.findSome? id

/-- The check of a vector-slot syllable on its first issue. -/
def vecCheck (w : Word) : Option Nat :=
  let a := sylA w
  if a.op7 = 0 then (if isIdle w then none else some illegalEnc)
  else if a.op7 = 0x70 ∨ a.op7 = 0x71 then
    let m := sylM w
    worst [if a.mod = 0 ∧ m.low = 0 then none else some illegalEnc, dstCheck .v m.reg]
  else match formOf a with
    | none => some illegalEnc
    | some f =>
      worst [if f.mods.contains a.mod ∧ a.low = 0 ∧ literalOk a then none else some illegalEnc,
        dstCheck f.d a.dest, srcCheck f.u1 a.f1, srcCheck f.u2 a.f2, srcCheck f.u3 a.f3]

/-! ## The S slot (R80, R148 to R152) -/

/-- The forms of the S slot; none for the codes R80 does not list. An operand of KIND 0b00 is illegal there. -/
def sForm (opc : Nat) : Option Form :=
  match opc with
  | 0x001 | 0x002 | 0x003 | 0x004 | 0x005 | 0x006 | 0x007 | 0x008 | 0x009 | 0x00A | 0x00B | 0x010 =>
    some { d := .s, u1 := .uni, u2 := .uni }
  | 0x00C => some { d := .s, u1 := .lit, u2 := .lit, u3 := .lit }
  | 0x00D => some { d := .s, u1 := .uni }
  | 0x00E => some { d := .s, u1 := .uni, u2 := .uni, u3 := .uni }
  | 0x011 => some { d := .none, u1 := .uni, u2 := .uni, u3 := .uni }
  | 0x018 => some { d := .none, u1 := .full, u2 := .lit, u3 := .uni }
  | 0x019 => some { d := .s, u1 := .full, u2 := .lit }
  | 0x020 => some { d := .none, u1 := .uni, u2 := .lit }
  | 0x021 => some { d := .s, u1 := .lit }
  | _ => none

/-- The limits of the S slot's literals. -/
def sLiteralOk (a : SylA) : Bool :=
  match a.opc with
  | 0x018 | 0x019 => a.s2.val < 16
  | 0x020 => a.s2.val < 256
  | 0x021 => a.s1.val ≤ 4
  | _ => true

/-- The check of an S syllable on its first issue. -/
def sCheck (w : Word) : Option Nat :=
  let a := sylA w
  if a.opc = 0 then (if isIdle w then none else some illegalEnc)
  else match sForm a.opc with
    | none => some illegalEnc
    | some f =>
      worst [if a.k = 0 ∧ a.low = 0 ∧ sLiteralOk a then none else some illegalEnc,
        dstCheck f.d a.dest, srcCheck f.u1 a.f1, srcCheck f.u2 a.f2, srcCheck f.u3 a.f3]

/-! ## The M slot (R82) and the copy slots (R83) -/

abbrev opTcfg : Nat := 1
abbrev opMma : Nat := 2
abbrev opAccz : Nat := 3
abbrev opAccld : Nat := 4
abbrev opAccst : Nat := 5
abbrev opAccmv : Nat := 6
abbrev opAccxp : Nat := 7
abbrev opMsig : Nat := 8

/-- The check of an M syllable on its first issue. -/
def mCheck (w : Word) : Option Nat :=
  let x := sylX w
  if x.opc = 0 then (if isIdle w then none else some illegalEnc)
  else
    let noA := x.abase = 0
    let noB := x.bbase = 0
    let noAcc := x.acc = 0
    let noFlags := !x.zero && !x.tb
    let noSa := x.stepa = 0
    let noSb := x.stepbRaw = 0
    let ok := match x.opc with
      | 1 => noB && noAcc && noFlags && noSa && noSb
      | 2 => true
      | 3 | 7 => noA && noB && noFlags && noSa && noSb
      | 4 => noB && noFlags && noSb
      | 5 => noB && noFlags && x.stepbRaw % 8 < 4 && x.stepbRaw / 8 < 4
      | 6 => noFlags && noSb
      | 8 => noA && noB && noAcc && noFlags && noSa && noSb
      | _ => false
    if ok && x.low = 0 && (waitSig w).legal false then none else some illegalEnc

abbrev opCpy : Nat := 1
abbrev opCpym : Nat := 2
abbrev opCpyr : Nat := 3
abbrev opCgth : Nat := 4
abbrev opCsct : Nat := 5
abbrev opCfill : Nat := 6
abbrev opCamo : Nat := 7
abbrev opCcas : Nat := 8
abbrev opCfence : Nat := 9
abbrev opCsig : Nat := 10
abbrev opCprf : Nat := 11

/-- The check of a C0 or C1 syllable on its first issue. -/
def cCheck (w : Word) : Option Nat :=
  let c := sylC w
  if c.opc = 0 then (if isIdle w then none else some illegalEnc)
  else
    let noS := c.s1 = 0 && c.s2 = 0 && c.s3 = 0
    let plain := c.flags % 32 = 0 && c.scope ≤ 4
    let ok := match c.opc with
      | 1 | 2 | 3 | 4 | 5 | 6 | 8 => plain && c.fn = 0
      | 7 => plain && c.fn ≤ 8
      | 9 => noS && c.flags < 512
      | 10 => noS && plain && c.fn = 0
      | 11 => c.s2 = 0 && plain && c.fn = 0
      | _ => false
    if ok && (waitSig w).legal (c.opc < 9) then none else some illegalEnc

/-- The check of slot `i`'s syllable. -/
def slotCheck (i : Nat) (w : Word) : Option Nat :=
  match i with
  | 0 => sCheck w
  | 1 => mCheck w
  | 2 | 3 => cCheck w
  | _ => vecCheck w

end Sys2Proof.Machine
end

