-- ==== Sys2Proof/Machine/VectorOps.lean ====
section
/-! DEFINITION. The values of the vector-slot forms (R142, R153 to R173, R180): from the sixteen lanes of each source to
the sixteen lanes or bits of the result and the flags of R58. -/
namespace Sys2Proof.Machine
open Sys2Proof

/-! ## Lanes -/

/-- Lane `l` of a register (R19). -/
def laneOf (x : Line) (l : Nat) : Nat := x.toNat / 2 ^ (32 * l) % 2 ^ 32
def lanesOf (x : Line) : List Nat := (List.range 16).map (laneOf x)

/-- Sixteen lanes as a register. -/
def packLanes (xs : List Nat) : Line := BitVec.ofNat 512 ((xs.zipIdx.map fun e => e.1 % 2 ^ 32 * 2 ^ (32 * e.2)).sum)

/-- Sixteen truth values as mask bits. -/
def packBits (xs : List Bool) : Nat := (xs.zipIdx.map fun e => if e.1 then 2 ^ e.2 else 0).sum

/-- A source operand as its slot read it: lanes, or a literal whose reading its role fixes (R142). -/
inductive Val where
  | lanes (xs : List Nat)
  | lit (l : BitVec 12)
  deriving DecidableEq, Repr

/-- Lane `l` of an integer or logic operand. -/
def Val.int : Val → Nat → Nat
  | .lanes xs, l => xs.getD l 0
  | .lit v, _ => (v.signExtend 32).toNat

/-- Element `p` of lane `l` of a floating operand, FTZ applied (R57). A compact literal (R47) read as an E4M3 or E5M2 element,
as FCVT, ICVT and UNPACK may read one, has its exact value, whatever the position: DESIGN CHOICE (log 97). -/
def Val.float (v : Val) (f : Fmt) (ftz : Bool) (l p : Nat) : FVal :=
  match v with
  | .lanes xs => ftzIn f ftz (f.value (xs.getD l 0 / 2 ^ (f.width * p) % 2 ^ f.width))
  | .lit x => ftzIn f ftz (literalValue x)

/-- The sign bit of a floating element, a NaN's included; a literal NaN is the canonical one, whose sign is 0 (R42, R47). -/
def Val.signBit (v : Val) (f : Fmt) (l p : Nat) : Bool :=
  match v with
  | .lanes xs => bitOf (f.width * p + f.width - 1) (xs.getD l 0)
  | .lit x => x.getLsbD 11 && literalValue x ≠ .nan

abbrev activeCount (m : BitVec 16) : Nat := cntpop 16 m
/-- Active lanes below `l`. -/
def activeBelow (m : BitVec 16) (l : Nat) : Nat := (List.range l).countP (m.getLsbD ·)

/-- The OR of flags. -/
def orFlags (l : List (BitVec 5)) : BitVec 5 := l.foldl (· ||| ·) 0#5

/-- One element a lane: `f` gives lane `l` its value, with the piece of R53. -/
def mapLanes (m : BitVec 16) (pieces : List Nat) (f : Nat → Nat → Nat × BitVec 5) : List Nat × BitVec 5 :=
  let rs := (List.range 16).map fun l => if m.getLsbD l then f l (pieces.getD (activeBelow m l) 0) else (0, 0#5)
  (rs.map Prod.fst, orFlags (rs.map Prod.snd))

/-- Two 16-bit elements a lane, element 2l + h in R53 order. -/
def mapPairs (m : BitVec 16) (pieces : List Nat) (f : Nat → Nat → Nat → Nat × BitVec 5) : List Nat × BitVec 5 :=
  mapLanes m [] fun l _ =>
    let j := 2 * activeBelow m l
    let lo := f l 0 (pieces.getD j 0)
    let hi := f l 1 (pieces.getD (j + 1) 0)
    (lo.1 + hi.1 * 2 ^ 16, lo.2 ||| hi.2)

/-- Elements of a type (R78): one F32 a lane, or two of BF16 or F16. -/
def mapElems (ty : Nat) (m : BitVec 16) (pieces : List Nat) (f : Fmt → Nat → Nat → Nat → Nat × BitVec 5) :
    List Nat × BitVec 5 :=
  match ty with
  | 0 => mapLanes m pieces fun l r => f .fp32 l 0 r
  | 1 => mapPairs m pieces (f .bf16)
  | _ => mapPairs m pieces (f .fp16)

def withNv (b : Bool) (r : Nat × BitVec 5) : Nat × BitVec 5 := if b then (r.1, r.2 ||| flagNV) else r

/-! ## Floating forms -/

/-- The exact value of an arithmetic form of R153 and whether it is invalid. -/
def arithExact (op7 : Nat) (rd : Bool) (a b d : FVal) : FVal × Bool :=
  match op7 / 4 with
  | 1 => sumExact rd [a, b]
  | 2 => sumExact rd [a, b.negate]
  | 3 => fmulExact a b
  | k =>
    let (p, nv) := fmulExact a b
    let p := if k = 6 ∨ k = 7 then p.negate else p
    let d := if k = 5 ∨ k = 7 then d.negate else d
    let (s, nv2) := sumExact rd [p, d]
    (s, nv || nv2)

/-- The predicates of R155. -/
def fpredHolds (p : Nat) (x y : FVal) : Bool :=
  match p with
  | 0 => x.eq y
  | 1 => !x.eq y
  | 2 => x.lt y
  | 3 => x.lt y || x.eq y
  | _ => x.isNan || y.isNan

/-- The class bitmap of R157. -/
def classBit (f : Fmt) (x : FVal) : Nat :=
  match x with
  | .nan => 256
  | .inf n => if n then 1 else 128
  | .fin n 0 _ => if n then 8 else 16
  | .fin n m e => if (Nat.log2 m : Int) + e < f.emin then (if n then 4 else 32) else (if n then 2 else 64)

/-- The special functions of R158: the exact value, or the result its table gives, with the flags. -/
def specialFn (op7 : Nat) (x : FVal) : FVal × BitVec 5 :=
  let invalid : FVal × BitVec 5 := (.nan, flagNV)
  let one (n : Bool) : FVal := .fin n 1 0
  let zero (n : Bool) : FVal := .fin n 0 0
  match op7, x with
  | _, .nan => (.nan, 0#5)
  | 0x34, .inf n => (zero n, 0#5)
  | 0x34, .fin n 0 _ => (.inf n, flagDZ)
  | 0x34, .fin n m e => ((recipExact m e).withSign n, 0#5)
  | 0x35, .inf n => if n then invalid else (zero false, 0#5)
  | 0x35, .fin n 0 _ => (.inf n, flagDZ)
  | 0x35, .fin n m e => if n then invalid else (rsqrtExact m e, 0#5)
  | 0x36, .inf n => if n then invalid else (.inf false, 0#5)
  | 0x36, .fin n 0 _ => (zero n, 0#5)
  | 0x36, .fin n m e => if n then invalid else (sqrtExact m e, 0#5)
  | 0x37, .inf n => if n then (zero false, 0#5) else (.inf false, 0#5)
  | 0x37, .fin _ 0 _ => (one false, 0#5)
  | 0x37, .fin n m e => (exp2Exact n m e, 0#5)
  | 0x38, .inf n => if n then invalid else (.inf false, 0#5)
  | 0x38, .fin _ 0 _ => (.inf true, flagDZ)
  | 0x38, .fin n m e => if n then invalid else (log2Exact m e, 0#5)
  | 0x39, .inf n => (one n, 0#5)
  | 0x39, .fin n 0 _ => (zero n, 0#5)
  | 0x39, .fin n m e => ((tanhExact m e).withSign n, 0#5)
  | _, .inf _ => invalid
  | _, .fin n 0 _ => (zero n, 0#5)
  | _, .fin n m e => (if n then (sinExact m e).negate else sinExact m e, 0#5)

/-- The encoding of a value its format holds exactly. -/
def exactCode (f : Fmt) (x : FVal) : Nat := (roundTo f {} x).1

/-- The typed groups of R153 and R154. -/
def floatLanes (op7 : Nat) (cx : RCtx) (m : BitVec 16) (pieces : List Nat) (v1 v2 v3 : Val) : List Nat × BitVec 5 :=
  mapElems (op7 % 4) m pieces fun f l h r =>
    let a := v1.float f cx.ftz l h
    let b := v2.float f cx.ftz l h
    if op7 / 4 = 8 ∨ op7 / 4 = 9 then (exactCode f (minMaxNumber (op7 / 4 = 9) a b), 0#5)
    else
      let (x, nv) := arithExact op7 (cx.mode = .rd) a b (v3.float f cx.ftz l h)
      withNv nv (roundTo f { cx with rnd := r } x)

/-- FDOT2 (R63, R156). -/
def dotLanes (f : Fmt) (cx : RCtx) (m : BitVec 16) (pieces : List Nat) (v1 v2 v3 : Val) : List Nat × BitVec 5 :=
  mapLanes m pieces fun l r =>
    let (p, n1) := fmulExact (v1.float f cx.ftz l 0) (v2.float f cx.ftz l 0)
    let (q, n2) := fmulExact (v1.float f cx.ftz l 1) (v2.float f cx.ftz l 1)
    let (x, n3) := sumExact (cx.mode = .rd) [p, q, v3.float .fp32 cx.ftz l 0]
    withNv (n1 || n2 || n3) (roundTo .fp32 { cx with rnd := r } x)

/-- FABS, FNEG, FCPYS and FCLASS (R157). -/
def signLanes (op7 ty : Nat) (ftz : Bool) (m : BitVec 16) (v1 v2 : Val) : List Nat × BitVec 5 :=
  mapElems ty m [] fun f l h _ =>
    let x := v1.float f ftz l h
    (match op7 with
      | 0x30 => exactCode f (x.withSign false)
      | 0x31 => exactCode f x.negate
      | 0x32 => exactCode f (x.withSign (v2.signBit f l h))
      | _ => classBit f x, 0#5)

/-! ## Conversions -/

/-- The formats of a float format code. -/
def fmtOfCode : Nat → Fmt
  | 0 => .fp32 | 1 => .bf16 | 2 => .fp16 | 3 => .e4m3 | _ => .e5m2

/-- The integer types of ICVT (R160): signed, bits. -/
def intOfCode : Nat → Bool × Nat
  | 0 => (true, 8) | 1 => (false, 8) | 2 => (true, 16) | 3 => (false, 16) | 4 => (true, 32) | _ => (false, 32)

/-- Element `p` of width `w` of a lane replaced. -/
def mergeElem (base y w p : Nat) : Nat :=
  let k := 2 ^ (w * p)
  base - base / k % 2 ^ w * k + y % 2 ^ w * k

/-- FCVT (R159). -/
def fcvtLanes (v : Nat) (cx : RCtx) (m : BitVec 16) (pieces : List Nat) (v1 v2 : Val) : List Nat × BitVec 5 :=
  let df := fmtOfCode (v / 8 % 8)
  mapLanes m pieces fun l r =>
    let (y, fl) := roundTo df { cx with sat := bitOf 10 v, rnd := r } (v1.float (fmtOfCode (v % 8)) cx.ftz l (v / 64 % 4))
    (if df = .fp32 then y else mergeElem (v2.int l) y df.width (v / 256 % 4), fl)

/-- ICVT (R160). -/
def icvtLanes (v : Nat) (cx : RCtx) (m : BitVec 16) (pieces : List Nat) (v1 v2 : Val) : List Nat × BitVec 5 :=
  let (sg, w) := intOfCode (v % 8)
  let ft := fmtOfCode (v / 8 % 8)
  let sp := v / 128 % 4
  let dp := v / 512 % 4
  mapLanes m pieces fun l r =>
    if bitOf 6 v then
      let (y, fl) := toInteger sg w { cx with rnd := r } (v1.float ft cx.ftz l sp)
      (if w = 32 then wrapInt 32 y else mergeElem (v2.int l) (wrapInt w y) w dp, fl)
    else
      let (y, fl) := roundTo ft { cx with rnd := r } (ofInteger (asInt sg w (v1.int l / 2 ^ (w * sp))))
      (if ft = .fp32 then y else mergeElem (v2.int l) y ft.width dp, fl)

/-- PACK (R161). -/
def packForm (v : Nat) (cx : RCtx) (m : BitVec 16) (pieces : List Nat) (v1 v2 : Val) : List Nat × BitVec 5 :=
  let sat := bitOf 2 v
  mapPairs m pieces fun l h r =>
    let src := if h = 0 then v1 else v2
    match v % 4 with
    | 0 => roundTo .bf16 { cx with sat := sat, rnd := r } (src.float .fp32 cx.ftz l 0)
    | 1 => roundTo .fp16 { cx with sat := sat, rnd := r } (src.float .fp32 cx.ftz l 0)
    | k =>
      let x := asInt true 32 (src.int l)
      if sat then
        let y := satInt (k = 2) 16 x
        (wrapInt 16 y, if y = x then 0#5 else flagOF)
      else (wrapInt 16 x, 0#5)

/-- UNPACK (R162). -/
def unpackLanes (v : Nat) (ftz : Bool) (m : BitVec 16) (v1 : Val) : List Nat × BitVec 5 :=
  mapLanes m [] fun l _ =>
    let p := v / 8
    match v % 8 with
    | 4 => (wrapInt 32 (asInt true 8 (v1.int l / 2 ^ (8 * p))), 0#5)
    | 5 => (v1.int l / 2 ^ (8 * p) % 2 ^ 8, 0#5)
    | 6 => (wrapInt 32 (asInt true 16 (v1.int l / 2 ^ (16 * p))), 0#5)
    | 7 => (v1.int l / 2 ^ (16 * p) % 2 ^ 16, 0#5)
    | k => (exactCode .fp32 (v1.float (fmtOfCode (k + 1)) ftz l p), 0#5)

/-- The MX element formats of MXQ and MXDQ (R163). -/
def mxFmt : Nat → Fmt
  | 0 => .e4m3 | 1 => .e5m2 | 2 => .e3m2 | 3 => .e2m3 | _ => .e2m1

/-- MXQ (R163): the packed elements from byte 0 and the scale at byte 32. -/
def mxqLine (v : Nat) (cx : RCtx) (pieces : List Nat) (v1 v2 : Val) : List Nat × BitVec 5 :=
  let f := mxFmt v
  let xs := (List.range 16).map (fun l => v1.float .fp32 cx.ftz l 0) ++ (List.range 16).map (fun l => v2.float .fp32 cx.ftz l 0)
  let (sc, es, fl) := mxQuantise f cx ((List.range 32).map (pieces.getD · 0)) xs
  let block := (es.zipIdx.map fun e => e.1 * 2 ^ (f.width * e.2)).sum
  (lanesOf (BitVec.ofNat 512 (block + sc * 2 ^ 256)), fl)

/-- MXDQ (R164). -/
def mxdqLanes (v : Nat) (cx : RCtx) (m : BitVec 16) (pieces : List Nat) (v1 : Val) : List Nat × BitVec 5 :=
  let f := mxFmt (v % 8)
  let block := (packLanes ((List.range 16).map v1.int)).toNat
  let scale := block / 2 ^ 256 % 256
  mapLanes m pieces fun l r =>
    let e := 16 * (v / 8 % 2) + l
    roundTo .fp32 { cx with rnd := r } (mxValue f scale (block / 2 ^ (f.width * e) % 2 ^ f.width))

/-! ## Integer and logic forms -/

/-- The integer forms of R165. -/
def intLanes (op7 mod : Nat) (m : BitVec 16) (v1 v2 v3 : Val) : List Nat × BitVec 5 :=
  let sg := mod / 2 = 0
  mapLanes m [] fun l _ =>
    let x := asInt sg 32 (v1.int l)
    let y := asInt sg 32 (v2.int l)
    let z := asInt sg 32 (v3.int l)
    let r : Int := match op7 with
      | 0x48 => x + y
      | 0x49 => x - y
      | 0x4A => x * y
      | 0x4B => x * y / 2 ^ 32
      | 0x4C => x * y + z
      | 0x4D => if x ≤ y then x else y
      | 0x4E => if x ≤ y then y else x
      | _ => x.natAbs
    if mod % 2 = 1 then
      let c := satInt sg 32 r
      (wrapInt 32 c, if c = r then 0#5 else flagOF)
    else (wrapInt 32 r, 0#5)

/-- The predicates of R166. -/
def ipredHolds (p x y : Nat) : Bool :=
  let sx := asInt true 32 x
  let sy := asInt true 32 y
  match p with
  | 0 => x = y
  | 1 => x ≠ y
  | 2 => sx < sy
  | 3 => sx ≤ sy
  | 4 => x < y
  | _ => x ≤ y

/-- The bit-field forms of R168. -/
def bitField (op7 x d t : Nat) : Nat :=
  let pos := d % 32
  let w := min (d / 32 % 64) (32 - pos)
  let fld := x / 2 ^ pos % 2 ^ w
  match op7 with
  | 0x61 => if w = 0 then 0 else wrapInt 32 (asInt true w fld)
  | 0x62 => if w = 0 then 0 else fld
  | _ => if w = 0 then t else t - t / 2 ^ pos % 2 ^ w * 2 ^ pos + x % 2 ^ w * 2 ^ pos

/-- The logic forms of R167 to R169 on one lane. -/
def logicLane (op7 a b t : Nat) : Nat :=
  let x : Word32 := BitVec.ofNat 32 a
  let y : Word32 := BitVec.ofNat 32 b
  let n := b % 32
  let w : Word := BitVec.ofNat 64 (a * 2 ^ 32 + b)
  match op7 with
  | 0x58 => (x &&& y).toNat
  | 0x59 => (x ||| y).toNat
  | 0x5A => (x ^^^ y).toNat
  | 0x5B => (x &&& ~~~y).toNat
  | 0x5C => (~~~x).toNat
  | 0x5D => (x <<< n).toNat
  | 0x5E => (x >>> n).toNat
  | 0x5F => (x.sshiftRight n).toNat
  | 0x60 => (x.rotateLeft n).toNat
  | 0x64 => (w <<< (t % 64)).toNat / 2 ^ 32
  | 0x65 => (w >>> (t % 64)).toNat % 2 ^ 32
  | 0x66 => cntpop 32 x
  | 0x67 => cntlz 32 x
  | _ => bitField op7 a b t

/-- The moves of R170, R171 and R173 on one lane; `kj` is the selecting mask of SEL. -/
def moveLane (op7 : Nat) (kj : BitVec 16) (v1 v2 v3 : Val) (l : Nat) : Nat :=
  match op7 with
  | 0x69 => if kj.getLsbD l then v1.int l else v2.int l
  | 0x6A => v1.int (v2.int l % 16)
  | 0x6B => let i := v2.int l; if bitOf 4 i then v3.int (i % 16) else v1.int (i % 16)
  | 0x6C =>
    let n := l + v3.int l % 32
    if n < 16 then v1.int n else if n < 32 then v2.int (n - 16) else 0
  | _ => v1.int l

/-! ## SCAN and RED (R64, R172) -/

/-- An order-free operation of R172. -/
def combine32 (op : Nat) (ftz : Bool) (x y : Nat) : Nat :=
  let f (n : Nat) : FVal := ftzIn .fp32 ftz (Fmt.fp32.value n)
  match op with
  | 1 => (x + y) % 2 ^ 32
  | 2 => exactCode .fp32 (minMaxNumber true (f x) (f y))
  | 3 => exactCode .fp32 (minMaxNumber false (f x) (f y))
  | 4 => if asInt true 32 x < asInt true 32 y then y else x
  | 5 => if asInt true 32 x < asInt true 32 y then x else y
  | 6 => max x y
  | _ => min x y

/-- One rounded addition of F32 encodings. -/
def addRounded (cx : RCtx) (r x y : Nat) : Nat × BitVec 5 :=
  let (v, nv) := sumExact (cx.mode = .rd) [Fmt.fp32.value x, Fmt.fp32.value y]
  withNv nv (roundTo .fp32 { cx with rnd := r } v)

/-- The lanes SCAN and RED combine: F32 values as an F32 operation takes them (R42, R57). -/
def foldInput (op : Nat) (ftz : Bool) (v1 : Val) (l : Nat) : Nat :=
  if op = 0 ∨ op = 2 ∨ op = 3 then exactCode .fp32 (v1.float .fp32 ftz l 0) else v1.int l

/-- SCAN from lane `l` on: the partial, if any, and the next piece. -/
def scanFrom (op : Nat) (cx : RCtx) (m : BitVec 16) (v1 : Val) :
    Nat → Nat → Option Nat → List Nat → List Nat × BitVec 5
  | 0, _, _, _ => ([], 0#5)
  | n + 1, l, part, pieces =>
    if m.getLsbD l then
      let x := foldInput op cx.ftz v1 l
      let (y, fl) := match part with
        | none => (x, 0#5)
        | some p => if op = 0 then addRounded cx (pieces.headD 0) p x else (combine32 op cx.ftz p x, 0#5)
      let (t, fl2) := scanFrom op cx m v1 n (l + 1) (some y) pieces.tail
      (y :: t, fl ||| fl2)
    else
      let (t, fl2) := scanFrom op cx m v1 n (l + 1) part pieces
      (0 :: t, fl2)

/-- One level of the tree of R64: the nodes above, the flags and the pieces left. -/
def redLevel (op : Nat) (cx : RCtx) : List (Option Nat) → List Nat → List (Option Nat) × BitVec 5 × List Nat
  | some x :: some y :: t, ps =>
    let (z, fl) := if op = 0 then addRounded cx (ps.headD 0) x y else (combine32 op cx.ftz x y, 0#5)
    let (u, fl2, q) := redLevel op cx t (if op = 0 then ps.tail else ps)
    (some z :: u, fl ||| fl2, q)
  | some x :: none :: t, ps => let (u, fl, q) := redLevel op cx t ps; (some x :: u, fl, q)
  | none :: y :: t, ps => let (u, fl, q) := redLevel op cx t ps; (y :: u, fl, q)
  | l, ps => (l, 0#5, ps)

/-- The levels of the tree; the fuel is their number. -/
def redTree (op : Nat) (cx : RCtx) : Nat → List (Option Nat) → List Nat → Option Nat × BitVec 5
  | 0, l, _ => ((l.headD none), 0#5)
  | n + 1, l, ps =>
    let (u, fl, q) := redLevel op cx l ps
    let (r, fl2) := redTree op cx n u q
    (r, fl ||| fl2)

/-- RED: the result in every lane. -/
def redLanes (op : Nat) (cx : RCtx) (m : BitVec 16) (pieces : List Nat) (v1 : Val) : List Nat × BitVec 5 :=
  let (r, fl) := redTree op cx 4
    ((List.range 16).map fun l => if m.getLsbD l then some (foldInput op cx.ftz v1 l) else none) pieces
  (List.replicate 16 (r.getD 0), fl)

/-! ## All vector values -/

/-- Elements the form rounds, for its draw (R53, R163, R172). -/
def drawCount (a : SylA) (m : BitVec 16) : Nat :=
  let n := activeCount m
  match a.op7 with
  | 0x2C | 0x2D | 0x34 | 0x35 | 0x36 | 0x37 | 0x38 | 0x39 | 0x3A | 0x3C | 0x3D | 0x41 => n
  | 0x3E => 2 * n
  | 0x40 => 32
  | 0x6D => if a.s2.val = 0 then n else 0
  | 0x6E => if a.s2.val = 0 then n - 1 else 0
  | k => if k < 0x20 then (if k % 4 = 0 then n else 2 * n) else 0

/-- The lanes of a vector form that accesses no memory. -/
def vecLanes (a : SylA) (ftz : Bool) (m : BitVec 16) (pieces : List Nat) (kj : BitVec 16) (v1 v2 v3 : Val) :
    List Nat × BitVec 5 :=
  let cx : RCtx := { mode := (RMode.ofCode a.mod).getD .rne, ftz := ftz }
  let c2 := a.s2.val
  let c3 := a.s3.val
  match a.op7 with
  | 0x2C => dotLanes .bf16 cx m pieces v1 v2 v3
  | 0x2D => dotLanes .fp16 cx m pieces v1 v2 v3
  | 0x30 | 0x31 | 0x32 | 0x33 => signLanes a.op7 c3 ftz m v1 v2
  | 0x34 | 0x35 | 0x36 | 0x37 | 0x38 | 0x39 | 0x3A =>
    mapLanes m pieces fun l r =>
      let (x, fl) := specialFn a.op7 (v1.float .fp32 ftz l 0)
      let (y, fl2) := roundTo .fp32 { cx with rnd := r } x
      (y, fl ||| fl2)
  | 0x3C => fcvtLanes c3 cx m pieces v1 v2
  | 0x3D => icvtLanes c3 cx m pieces v1 v2
  | 0x3E => packForm c3 cx m pieces v1 v2
  | 0x3F => unpackLanes c2 ftz m v1
  | 0x40 => mxqLine c3 cx pieces v1 v2
  | 0x41 => mxdqLanes c2 cx m pieces v1
  | 0x48 | 0x49 | 0x4A | 0x4B | 0x4C | 0x4D | 0x4E | 0x4F => intLanes a.op7 a.mod m v1 v2 v3
  | 0x68 | 0x69 | 0x6A | 0x6B | 0x6C | 0x6F => mapLanes m [] fun l _ => (moveLane a.op7 kj v1 v2 v3 l, 0#5)
  | 0x6D => scanFrom c2 cx m v1 16 0 none pieces
  | 0x6E => redLanes c2 cx m pieces v1
  | k =>
    if k < 0x28 then floatLanes k { cx with mode := if k < 0x20 then cx.mode else .rne } m pieces v1 v2 v3
    else mapLanes m [] fun l _ => (logicLane k (v1.int l) (v2.int l) (v3.int l), 0#5)

/-- The bits of FCMP and ICMP (R155, R166): both elements of a packed lane must hold. -/
def cmpBits (a : SylA) (ftz : Bool) (v1 v2 : Val) : BitVec 16 :=
  BitVec.ofNat 16 (packBits ((List.range 16).map fun l =>
    match a.op7 with
    | 0x28 => fpredHolds a.mod (v1.float .fp32 ftz l 0) (v2.float .fp32 ftz l 0)
    | 0x29 => fpredHolds a.mod (v1.float .bf16 ftz l 0) (v2.float .bf16 ftz l 0) &&
        fpredHolds a.mod (v1.float .bf16 ftz l 1) (v2.float .bf16 ftz l 1)
    | 0x2A => fpredHolds a.mod (v1.float .fp16 ftz l 0) (v2.float .fp16 ftz l 0) &&
        fpredHolds a.mod (v1.float .fp16 ftz l 1) (v2.float .fp16 ftz l 1)
    | _ => ipredHolds a.mod (v1.int l) (v2.int l)))

/-- KAND, KOR and KNOT (R180). -/
def maskBits (op7 : Nat) (x y : BitVec 16) : BitVec 16 :=
  match op7 with
  | 0x78 => x &&& y
  | 0x79 => x ||| y
  | _ => ~~~x

end Sys2Proof.Machine
end

