-- ==== Sys2Proof/Machine/Slots.lean ====
section
/-! DEFINITION. One issue of an S-slot or vector-slot syllable (R142 to R152, R174 to R180): its sources and stream
pops, its run-time checks in the order of R147, its draws, its results with their latencies and its stores. -/
namespace Sys2Proof.Machine
open Sys2Proof

/-! ## The issue under way -/

/-- What the slots before have done to the issue. -/
structure Iss where
  x : Tile                           -- the tile, with the issue's CQ pops, stream pops and draws
  now : Nat
  ftz : Bool
  res : List PendRes := []
  stores : List PendStore := []
  seeds : List (Nat × Word) := []    -- SRSEED's writes, after the issue's draws (R151)
  lines : Nat := 0                   -- lines the vector slots access
  pops : NMap Nat := []              -- stream pops and reservations by port (R231)
  resv : NMap Nat := []
  poison : Option Nat := none        -- the offset of a poisoned element this slot popped (R228)
  deriving DecidableEq, Repr

/-- A slot's fault: its code and address. -/
abbrev SlotFault := Nat × Word

/-- The stream port of a full name (R24). -/
def portOfName (name : Nat) : Option Nat := if 72 ≤ name % 128 ∧ name % 128 < 80 then some (8 * (name / 128) + name % 128 - 72) else none

def Tile.port (x : Tile) (p : Nat) : Port := x.ports.get {} p
def Tile.setPort (x : Tile) (p : Nat) (y : Port) : Tile := { x with ports := x.ports.set {} p y }

/-- The port of a register while it is bound, and whether it is a write stream. -/
def Tile.stream? (x : Tile) (name : Nat) : Option (Nat × Bool) :=
  match portOfName name with
  | some p => if (x.port p).bound then some (p, (x.port p).write) else none
  | none => none

/-- The first element not yet popped. -/
def Port.front? (p : Port) : Option Elem := p.buf.find? fun e => !e.popped

/-- Mark the first element not yet popped. -/
def popMark : List Elem → List Elem
  | [] => []
  | e :: t => if e.popped then e :: popMark t else { e with popped := true } :: t

/-- Read a vector register, popping a read stream (R145). -/
def Iss.readV (w : Iss) (name : Nat) : List Nat × Iss :=
  match w.x.stream? name with
  | some (p, false) =>
    let q := w.x.port p
    match q.front? with
    | some e =>
      (lanesOf e.data,
        { w with
          x := w.x.setPort p { q with buf := popMark q.buf }
          pops := w.pops.set 0 p (w.pops.get 0 p + 1)
          poison := match w.poison with | some o => some o | none => if e.poison then some e.off else none })
    | none => (List.replicate 16 0, w)
  | _ => (lanesOf (w.x.vr name), w)

/-- A source field of a vector slot of cluster `c` (R142). -/
def Iss.source (w : Iss) (c : Nat) (u : Use) (f : Nat) : Val × Iss :=
  let v := srcOf f
  match u with
  | .op | .uni =>
    match v.kind with
    | 0 => let (xs, w) := w.readV (128 * c + v.val); (.lanes xs, w)
    | 1 => (.lanes (List.replicate 16 ((w.x.sr v.val).toNat % 2 ^ 32)), w)
    | 2 => (.lanes (List.replicate 16 (w.x.constWord v.val).toNat), w)
    | _ => (.lit (BitVec.ofNat 12 v.val), w)
  | .full => let (xs, w) := w.readV v.val; (.lanes xs, w)
  | _ => (.lanes [], w)

/-- The 64-bit value of a source of KIND 0b01 to 0b11 (R148, R175). -/
def Tile.wide (x : Tile) (f : Nat) : Word :=
  let v := srcOf f
  match v.kind with
  | 1 => x.sr v.val
  | 2 => sext (x.constWord v.val)
  | 3 => sext (BitVec.ofNat 12 v.val)
  | _ => 0#64

/-! ## Latencies (R143, R243) -/

/-- Native and profile-4 latency of a vector form. -/
def vecLat (op7 : Nat) : Nat × Nat :=
  match op7 with
  | 0x70 => (6, 4)
  | 0x76 => (10, 8)
  | 0x72 | 0x6D | 0x6E | 0x40 => (6, 6)
  | 0x74 | 0x77 => (10, 10)
  | 0x34 | 0x35 | 0x36 | 0x37 | 0x38 | 0x39 | 0x3A => (12, 12)
  | 0x2C | 0x2D | 0x6F => (4, 4)
  | 0x3C | 0x3D | 0x3E | 0x3F | 0x41 | 0x6A | 0x6B | 0x6C => (3, 3)
  | k => if k < 0x20 then (4, 4) else (2, 2)

/-- Latency of an S form. -/
def sLat (opc : Nat) : Nat :=
  match opc with
  | 0x018 | 0x019 => 2
  | 0x010 => 6
  | _ => 1

/-! ## Name checks (R24, R147) -/

/-- Whether a source field names a register bound to a write stream. -/
def Tile.badRead (x : Tile) (c : Nat) (u : Use) (f : Nat) : Bool :=
  let v := srcOf f
  let name := match u with
    | .full => some v.val
    | .op => if v.kind = 0 then some (128 * c + v.val) else none
    | _ => none
  match name with
  | some n => match x.stream? n with
    | some (_, wr) => wr
    | none => false
  | none => false

/-- Whether a vector destination is bound to a read stream. -/
def Tile.badWrite (x : Tile) (name : Nat) : Bool :=
  match x.stream? name with
  | some (_, wr) => !wr
  | none => false

/-! ## Results -/

/-- Add a result; a write of a bound write stream takes a reservation (R229). -/
def Iss.result (w : Iss) (slot : Nat) (tgt : ResTgt) (data : Line) (cluster : Nat) (flags : BitVec 5) (lat : Nat × Nat) : Iss :=
  let r : PendRes :=
    { tgt := tgt, data := data, cluster := cluster, flags := flags, due := w.now + lat.1, refDue := w.x.bsq.rho + lat.2
      order := w.x.bsq.nextOrder + slot }
  match tgt with
  | .push p _ =>
    let q := w.x.port p
    { w with res := w.res ++ [r], x := w.x.setPort p { q with resv := q.resv + 1 }, resv := w.resv.set 0 p (w.resv.get 0 p + 1) }
  | _ => { w with res := w.res ++ [r] }

/-- A vector destination: the register, or its write stream. -/
def Iss.vdest (w : Iss) (name : Nat) (lanes : BitVec 16) : ResTgt :=
  match w.x.stream? name with
  | some (p, _) => .push p lanes
  | none => .vreg name lanes

/-- The due time of a slot store at the port: 2 cycles on, counted in ρ under profile 4 (R247, R442). -/
def Iss.storeDue (w : Iss) : Nat := if w.x.bsq.profile4 then w.x.bsq.rho + 2 else w.now + 2

def Iss.store (w : Iss) (slot : Nat) (st : SlotStore) : Iss :=
  { w with stores := w.stores ++ [{ st := st, due := w.storeDue, order := w.x.bsq.nextOrder + slot }] }

/-! ## Addresses (R174 to R178) -/

/-- An aligned access of `n` bytes wholly below LSPEXT. -/
def Tile.inBounds (x : Tile) (a : Word) (n : Nat) : Bool := a.toNat % n = 0 && a.toNat + n ≤ x.live

/-- The address of each lane of a word-access form. -/
def wordAddrs (x : Tile) (a : SylA) (v1 : Val) : List Word :=
  (List.range 16).map fun l =>
    let i := BitVec.ofNat 64 (v1.int l)
    match a.op7 with
    | 0x72 | 0x73 => x.wide a.f1 + BitVec.ofNat 64 l * x.wide a.f2
    | 0x76 => x.wide a.f2 + 4#64 * BitVec.ofNat 64 (v1.int l % 2 ^ a.s3.val)
    | 0x77 => i
    | _ => x.wide a.f2 + i

/-- The first active lane whose address breaks R178, then the first that reads a poisoned line. -/
def Tile.wordFault (x : Tile) (loads : Bool) (act : List Nat) (addrs : List Word) : Option SlotFault :=
  match act.find? fun l => !x.inBounds (addrs.getD l 0#64) 4 with
  | some l => some (spadBounds, addrs.getD l 0#64)
  | none =>
    if loads then
      match act.find? fun l => x.poisoned (addrs.getD l 0#64).toNat with
      | some l => some (poisonF, addrs.getD l 0#64)
      | none => none
    else none

/-- The tile as the loads of a cluster, or of the S slot, see its scratchpad: under profile 4 a store of the cluster that
performed in a freeze is not seen before ρ reaches its due, the youngest store's replaced bytes first (R179, R247). The poison
bit it sees is the present one, as R179 speaks of bytes: DESIGN CHOICE (log 137). -/
def Tile.loadView (x : Tile) (cluster : Option Nat) : Tile :=
  (x.bsq.shadows.filter fun h => h.cluster = cluster && x.bsq.rho < h.due).reverse.foldl
    (fun (y : Tile) h => h.old.foldl (fun (y : Tile) e => y.writeSpad e.1 [e.2]) y) x

/-- Distinct lines of a list of addresses. -/
def lineCount (l : List Nat) : Nat := ((l.map (· / 64)).eraseDups).length

/-- A poisoned element raises POISON after the other checks of its slot (R228). -/
def Iss.streamFault (w : Iss) : Option SlotFault := w.poison.map fun o => (poisonF, BitVec.ofNat 64 o)

/-! ## Vector slots -/

/-- VLD and VST (R146, R174): `ea` is the address of this issue. -/
def Iss.lineForm (w : Iss) (slot c : Nat) (syl : Word) (ea : Word) : Except SlotFault Iss :=
  let m := sylM syl
  let ld := (sylA syl).op7 = 0x70
  let name := 128 * c + m.reg
  let mask := w.x.kr c m.k
  let some_ := mask ≠ 0#16
  if (if ld then w.x.badWrite name else w.x.badRead c .op m.reg) then .error (regName, 0#64)
  else if some_ && !w.x.inBounds ea 64 then .error (spadBounds, ea)
  else if ld && some_ && w.x.poisoned ea.toNat then .error (poisonF, ea)
  else
    let w := if some_ then { w with lines := w.lines + 1 } else w
    if ld then
      let data := if some_ then natOf ((w.x.loadView (some c)).bytes ea.toNat 64) else 0
      .ok (w.result slot (w.vdest name mask) (BitVec.ofNat 512 data) c 0#5 (vecLat 0x70))
    else
      let (xs, w) := w.readV name
      match w.streamFault with
      | some f => .error f
      | none =>
        let bytes := (activeLanes mask).flatMap fun l =>
          (bytesOf 4 (xs.getD l 0)).zipIdx.map fun (b, i) => (ea.toNat + 4 * l + i, b)
        .ok (if some_ then w.store slot (.write bytes (if mask = 0xFFFF#16 then some (ea.toNat / 64) else none)) else w)
where activeLanes (m : BitVec 16) : List Nat := (List.range 16).filter m.getLsbD

/-- The active lanes of a mask. -/
def activeOf (m : BitVec 16) : List Nat := (List.range 16).filter m.getLsbD

/-- VLDS, VSTS, VGTH, VSCT, LUT and VAMO (R175 to R178). -/
def Iss.wordForm (w : Iss) (slot c : Nat) (a : SylA) (mask : BitVec 16) (v1 v2 v3 : Val) : Except SlotFault Iss :=
  let act := activeOf mask
  let addrs := wordAddrs w.x a v1
  let loads := a.op7 ≠ 0x73 ∧ a.op7 ≠ 0x75
  match w.x.wordFault loads act addrs with
  | some f => .error f
  | none =>
    match w.streamFault with
    | some f => .error f
    | none =>
      let off (l : Nat) : Nat := (addrs.getD l 0#64).toNat
      let w := { w with lines := w.lines + lineCount (act.map off) }
      let name := 128 * c + a.dest
      match a.op7 with
      | 0x73 | 0x75 =>
        let bytes := act.flatMap fun l => (bytesOf 4 (v3.int l)).zipIdx.map fun (b, i) => (off l + i, b)
        .ok (if act.isEmpty then w else w.store slot (.write bytes none))
      | 0x77 =>
        let ops := act.map fun l => (l, off l, BitVec.ofNat 32 (v2.int l))
        let tgt := w.vdest name mask
        if act.isEmpty then .ok (w.result slot tgt 0#512 c 0#5 (vecLat 0x77))
        else
          let st : PendStore :=
            { st := .vamo a.s3.val c tgt ops, due := w.storeDue, order := w.x.bsq.nextOrder + slot
              resDue := w.now + 10, resRef := w.x.bsq.rho + 10 }
          let w := { w with stores := w.stores ++ [st] }
          -- the result's place is reserved now; its value joins the pending results when the port performs it
          .ok (match tgt with
            | .push p _ =>
              let q := w.x.port p
              { w with x := w.x.setPort p { q with resv := q.resv + 1 }, resv := w.resv.set 0 p (w.resv.get 0 p + 1) }
            | _ => w)
      | _ =>
        let y := w.x.loadView (some c)
        let xs := (List.range 16).map fun l => if mask.getLsbD l then y.readNat (off l) 4 else 0
        .ok (w.result slot (w.vdest name mask) (packLanes xs) c 0#5 (vecLat a.op7))

/-- An issue of a vector-slot syllable; `ea` is the stepped address of shape M. -/
def Iss.vector (w : Iss) (slot : Nat) (syl ea : Word) : Except SlotFault Iss :=
  let c := (slot - 4) / 2
  let a := sylA syl
  let w := { w with poison := none }
  if a.op7 = 0x70 ∨ a.op7 = 0x71 then w.lineForm slot c syl ea
  else match formOf a with
    | none => .ok w
    | some f =>
      let name := 128 * c + a.dest
      let mask := w.x.kr c a.k
      let kOf (fld : Nat) : BitVec 16 := w.x.kr c (fld % 8)
      if w.x.badRead c f.u1 a.f1 || w.x.badRead c f.u2 a.f2 || w.x.badRead c f.u3 a.f3 ||
          (f.d = .v && w.x.badWrite name) then .error (regName, 0#64)
      else
        let (v1, w) := w.source c f.u1 a.f1
        let (v2, w) := w.source c f.u2 a.f2
        let (v3, w) := w.source c f.u3 a.f3
        if 0x72 ≤ a.op7 ∧ a.op7 ≤ 0x77 then w.wordForm slot c a mask v1 v2 v3
        else match w.streamFault with
          | some e => .error e
          | none =>
            if a.op7 = 0x28 ∨ a.op7 = 0x29 ∨ a.op7 = 0x2A ∨ a.op7 = 0x50 then
              .ok (w.result slot (.kreg (8 * c + a.dest) mask) ((cmpBits a w.ftz v1 v2).setWidth 512) c 0#5 (2, 2))
            else if 0x78 ≤ a.op7 ∧ a.op7 ≤ 0x7A then
              .ok (w.result slot (.kreg (8 * c + a.dest) mask) ((maskBits a.op7 (kOf a.f1) (kOf a.f2)).setWidth 512) c 0#5 (2, 2))
            else if a.op7 = 0x7B then
              .ok (w.result slot (w.vdest name mask) (packLanes (List.replicate 16 (activeCount (kOf a.f1)))) c 0#5 (2, 2))
            else
              let n := if a.mod = 4 then drawCount a mask else 0
              let (bits, st) := rsBits ((n + 3) / 4) (w.x.srstate c)
              let pieces := (List.range n).map fun j => piece bits j
              let w := if n = 0 then w else { w with x := w.x.setSrstate c st }
              let (xs, fl) := vecLanes a w.ftz mask pieces (kOf a.f3) v1 v2 v3
              .ok (if a.op7 = 0x6E ∧ mask = 0#16 then w else w.result slot (w.vdest name mask) (packLanes xs) c fl (vecLat a.op7))

/-! ## The S slot -/

/-- The values of the arithmetic forms of R148. -/
def sArith (opc : Nat) (a b c : Word) : Word :=
  match opc with
  | 0x001 => a + b
  | 0x002 => a - b
  | 0x003 => a * b
  | 0x004 => a &&& b
  | 0x005 => a ||| b
  | 0x006 => a ^^^ b
  | 0x007 => a <<< (b.toNat % 64)
  | 0x008 => a >>> (b.toNat % 64)
  | 0x009 => a.sshiftRight (b.toNat % 64)
  | 0x00A => if a.slt b then a else b
  | 0x00B => if a.slt b then b else a
  | 0x00D => a
  | _ => if a ≠ 0#64 then b else c

/-- The counter SCNT selects (R152). -/
def Tile.counter (x : Tile) (sel : Nat) : Word :=
  match sel with
  | 0 => x.seq.csr.cycle
  | 1 => x.seq.csr.bndret
  | 2 => x.seq.csr.stalls
  | 3 => BitVec.ofNat 64 x.bsq.cq.length
  | _ => match x.bsq.loops with
    | l :: _ => BitVec.ofNat 64 l.lastcyc
    | [] => 0#64

/-- An issue of an S syllable. A full name of MOVSV or MOVVS that is bound to a stream raises REG_NAME (R150), though R145
speaks of its pop: DESIGN CHOICE (log 101). -/
def Iss.scalar (w : Iss) (syl : Word) : Except SlotFault Iss :=
  let a := sylA syl
  let x := w.x
  let put (v : Word) : Except SlotFault Iss := .ok (w.result 0 (.sreg (a.dest % 32)) (v.setWidth 512) 0 0#5 (sLat a.opc, sLat a.opc))
  let ea := x.wide a.f1 + x.wide a.f2
  match a.opc with
  | 0x00C => put (sext (BitVec.ofNat 36 (a.s1.val * 2 ^ 24 + a.s2.val * 2 ^ 12 + a.s3.val)))
  | 0x010 =>
    if !x.inBounds ea 8 then .error (spadBounds, ea)
    else if x.poisoned ea.toNat then .error (poisonF, ea)
    else put (BitVec.ofNat 64 ((x.loadView none).readNat ea.toNat 8))
  | 0x011 =>
    if !x.inBounds ea 8 then .error (spadBounds, ea)
    else .ok (w.store 0 (.write ((bytesOf 8 (x.wide a.f3).toNat).zipIdx.map fun (b, i) => (ea.toNat + i, b)) none))
  | 0x018 =>
    if (x.stream? a.s1.val).isSome then .error (regName, 0#64)
    else
      let l := a.s2.val % 16
      .ok (w.result 0 (.vreg a.s1.val (1#16 <<< l)) (packLanes (List.replicate 16 ((x.wide a.f3).toNat % 2 ^ 32))) 0 0#5 (2, 2))
  | 0x019 =>
    if (x.stream? a.s1.val).isSome then .error (regName, 0#64)
    else put (sext (BitVec.ofNat 32 (laneOf (x.vr a.s1.val) (a.s2.val % 16))))
  | 0x020 =>
    let cs := (List.range 8).filter fun c => bitOf c a.s2.val
    .ok { w with seeds := cs.map fun c => (c, x.wide a.f1) }
  | 0x021 => put (x.counter a.s1.val)
  | k => put (sArith k (x.wide a.f1) (x.wide a.f2) (x.wide a.f3))

/-! ## Static reads, for stalls and the interlock -/

/-- The vector registers with the lanes read, s registers and masks an issue of slot `i` reads (R246), with multiplicity
and in pop order. -/
structure Reads where
  v : List (Nat × BitVec 16) := []
  s : List Nat := []
  k : List Nat := []           -- 8 × cluster + index
  dest : Option Nat := none    -- the vector register written
  deriving DecidableEq, Repr

/-- What a source field reads. -/
def Reads.add (r : Reads) (c : Nat) (u : Use) (f : Nat) : Reads :=
  let v := srcOf f
  match u, v.kind with
  | .op, 0 => { r with v := r.v ++ [(128 * c + v.val, 0xFFFF#16)] }
  | .op, 1 | .uni, 1 => { r with s := r.s ++ [v.val] }
  | .full, _ => { r with v := r.v ++ [(v.val, 0xFFFF#16)] }
  | .mask, _ => { r with k := r.k ++ [8 * c + v.val % 8] }
  | _, _ => r

/-- `first` says that the slot is present in this execution's first issue: VLD and VST read s[BASE] then only (R146). A BCAST,
SHUF or SLIDE counts as reading all 16 lanes of FIRST, whichever it uses: DESIGN CHOICE (log 136). -/
def slotReads (i : Nat) (syl : Word) (first : Bool) : Reads :=
  let a := sylA syl
  if isIdle syl ∨ i = 1 ∨ i = 2 ∨ i = 3 then {}
  else if i = 0 then
    match sForm a.opc with
    | some f =>
      let r := (({} : Reads).add 0 f.u2 a.f2).add 0 f.u3 a.f3
      if a.opc = 0x018 then r
      else if a.opc = 0x019 then { r with v := [(a.s1.val, 1#16 <<< (a.s2.val % 16))] }
      else r.add 0 f.u1 a.f1
    | none => {}
  else
    let c := (i - 4) / 2
    if a.op7 = 0x70 ∨ a.op7 = 0x71 then
      let m := sylM syl
      { v := if a.op7 = 0x71 then [(128 * c + m.reg, 0xFFFF#16)] else []
        s := if first then [m.base] else []
        k := [8 * c + m.k]
        dest := if a.op7 = 0x70 then some (128 * c + m.reg) else none }
    else match formOf a with
      | some f =>
        let r : Reads := ((({ k := [8 * c + a.k] } : Reads).add c f.u1 a.f1).add c f.u2 a.f2).add c f.u3 a.f3
        { r with
          k := if a.op7 = 0x69 then r.k ++ [8 * c + a.s3.val % 8] else r.k
          dest := if f.d = .v then some (128 * c + a.dest) else none }
      | none => {}

end Sys2Proof.Machine
end

