-- ==== Sys2Proof/Machine/MatrixForms.lean ====
section
/-! DEFINITION. The issue of M-slot commands (R85, R86, R181, R182, R188 to R196): the TCFG block, the configuration in
view, the operand places of R190, stepping and the checks an issue makes. -/
namespace Sys2Proof.Machine
open Sys2Proof

/-! ## Formats of the array (R86) -/

/-- The code names an MX format. -/
abbrev isMx (f : Nat) : Bool := 4 ≤ f && f ≤ 8
/-- Bits of an element (R190). -/
def fmtWidth : Nat → Nat
  | 0 => 16 | 1 => 16 | 6 => 6 | 7 => 6 | 8 => 4 | _ => 8
/-- Bytes of an MX block (R44, R192). -/
def blockBytes : Nat → Nat
  | 6 => 24 | 7 => 24 | 8 => 16 | _ => 32

/-- The pairings of R86. -/
def pairOk (a b : Nat) (s32 : Bool) : Bool :=
  match a with
  | 0 => b = 0 && !s32
  | 1 => b = 1 && !s32
  | 2 | 3 => (b = 2 || b = 3) && !s32
  | 4 | 5 | 6 | 7 | 8 => isMx b && !s32
  | 9 => b = 9 && s32
  | _ => false

/-- G, the K-steps of a group. -/
def Tcfg.g (c : Tcfg) : Nat := if c.afmt ≤ 1 then 1 else if c.afmt = 8 ∧ c.bfmt = 8 then 8 else 2
/-- Groups of an MMA. -/
def Tcfg.groups (c : Tcfg) : Nat := (c.k + c.g - 1) / c.g

/-- The block of R85 from its sixteen words; none where it breaks a limit. -/
def tcfgOf (w : List Nat) : Option Tcfg :=
  let at_ (i : Nat) : Nat := w.getD i 0
  let c : Tcfg :=
    { m := bitsOf 6 0 (at_ 0), n := bitsOf 14 8 (at_ 0), k := bitsOf 31 16 (at_ 0)
      afmt := bitsOf 3 0 (at_ 1), bfmt := bitsOf 7 4 (at_ 1), s32 := bitOf 8 (at_ 1)
      apitch := at_ 2, bpitch := at_ 3, ascl := asInt true 32 (at_ 4), bscl := asInt true 32 (at_ 5)
      aspitch := at_ 6, bspitch := at_ 7 }
  let ok := 1 ≤ c.m && c.m ≤ 64 && 1 ≤ c.n && c.n ≤ 64 && 1 ≤ c.k &&
    !bitOf 7 (at_ 0) && !bitOf 15 (at_ 0) && bitsOf 31 9 (at_ 1) = 0 &&
    (!(isMx c.afmt || isMx c.bfmt) || c.k % 32 = 0) &&
    pairOk c.afmt c.bfmt c.s32 && c.apitch % 64 = 0 && c.bpitch % 64 = 0 &&
    (isMx c.afmt || (c.ascl = 0 && c.aspitch = 0)) && (isMx c.bfmt || (c.bscl = 0 && c.bspitch = 0)) &&
    (List.range 8).all fun i => at_ (8 + i) = 0
  if ok then some c else none

/-- The sixteen words of a configuration (R28, R325). -/
def Tcfg.words (c : Tcfg) : List Nat :=
  [c.m + c.n * 2 ^ 8 + c.k * 2 ^ 16, c.afmt + c.bfmt * 16 + (if c.s32 then 256 else 0), c.apitch, c.bpitch,
    wrapInt 32 c.ascl, wrapInt 32 c.bscl, c.aspitch, c.bspitch] ++ List.replicate 8 0

/-- The configuration in view (R188): the last TCFG issued, else the latched block. -/
def Matrix.inView (x : Matrix) : Tcfg :=
  match x.queue.reverse.find? fun c => c.op = opTcfg with
  | some c => c.cfg
  | none => x.latched

/-! ## Operand places (R190, R194) -/

/-- A row address: 64-bit arithmetic wraps. -/
abbrev rowAt (base pitch i : Nat) : Nat := (base + i * pitch) % 2 ^ 64

/-- Rows of equal length: their starts. -/
structure Rows where
  base : Nat
  pitch : Nat
  n : Nat
  len : Nat
  deriving DecidableEq, Repr

def Rows.starts (r : Rows) : List Nat := (List.range r.n).map (rowAt r.base r.pitch)

/-- The lowest byte of the rows at or beyond `lim`. -/
def Rows.beyond (r : Rows) (lim : Nat) : Option Nat :=
  r.starts.foldl (fun m s =>
    if r.len ≠ 0 ∧ lim < s + r.len then
      match m with
      | some x => some (min x (max s lim))
      | none => some (max s lim)
    else m) none

/-- Some byte of the rows lies at or beyond `lim`. -/
def Rows.reaches (r : Rows) (lim : Nat) : Bool := (r.beyond lim).isSome

abbrev rowBytes (f n : Nat) : Nat := (n * fmtWidth f + 7) / 8

def Tcfg.rowsA (c : Tcfg) (a : Nat) : Rows := { base := a, pitch := c.apitch, n := c.m, len := rowBytes c.afmt c.k }
def Tcfg.scalesA (c : Tcfg) (al : Nat) : Rows :=
  { base := al, pitch := c.aspitch, n := if isMx c.afmt then c.m else 0, len := c.k / 32 }
def Tcfg.rowsB (c : Tcfg) (tb : Bool) (b : Nat) : Rows :=
  if tb then { base := b, pitch := c.bpitch, n := c.n, len := rowBytes c.bfmt c.k }
  else { base := b, pitch := c.bpitch, n := c.k, len := rowBytes c.bfmt c.n }
def Tcfg.scalesB (c : Tcfg) (be : Nat) : Rows :=
  { base := be, pitch := c.bspitch, n := if isMx c.bfmt then c.n else 0, len := c.k / 32 }

/-- Bytes of an ACCST element (R194). -/
def storeBytesOf : Nat → Nat
  | 0 => 4 | 3 => 1 | _ => 2
/-- The row pitch P of R194. -/
def Tcfg.pitchP (c : Tcfg) (e : Nat) : Nat := (c.n * e + 63) / 64 * 64
/-- The region of an ACCLD or ACCST. -/
def Tcfg.region (c : Tcfg) (d e : Nat) : Rows := { base := d, pitch := c.pitchP e, n := c.m, len := c.n * e }

/-- The element bytes an ACCLD or ACCST moves. -/
def MCmd.elemBytes (c : MCmd) : Nat := if c.op = opAccst then storeBytesOf ((sylX c.syl).stepbRaw % 8) else 4

/-- The byte rows a command in the queue was checked for (R33, R182). -/
def MCmd.rows (c : MCmd) : List Rows :=
  if c.op = opMma then
    [c.cfg.rowsA c.a, c.cfg.scalesA c.al, c.cfg.rowsB (sylX c.syl).tb c.b, c.cfg.scalesB c.be]
  else if c.op = opAccld ∨ c.op = opAccst then [c.cfg.region c.a c.elemBytes]
  else []

/-! ## The issue of a command -/

/-- The bound check of an operand; an address that must lie on a line is checked first. -/
def boundFault (lim : Nat) (aligned : Bool) (r : Rows) : Option SlotFault :=
  if aligned && r.base % 64 ≠ 0 then some (spadBounds, BitVec.ofNat 64 r.base)
  else (r.beyond lim).map fun o => (spadBounds, BitVec.ofNat 64 o)

/-- A 64-bit sum with a signed displacement. -/
abbrev plusInt (x : Word) (d : Int) : Word := x + BitVec.ofInt 64 d

/-- Issue an M syllable (R181, R182): the command without its serial, and the stepped addresses. `present` says that the
slot is present in this execution's first issue. -/
def Tile.issueM (x : Tile) (now : Nat) (st : SlotSt) (present : Bool) : Except SlotFault (MCmd × SlotSt) :=
  let f := sylX st.syl
  let v := x.mat.inView
  let cmd : MCmd := { serial := 0, op := f.opc, syl := st.syl, baddr := x.bsq.pc, cfg := v, issuedAt := now }
  let needs := f.opc = opMma || f.opc = opAccld || f.opc = opAccst || f.opc = opAccmv
  if f.opc = opTcfg then
    let w := (x.sr f.abase).toNat
    if w % 16 ≠ 0 ∨ 4080 < w then .error (illegalEnc, 0#64)
    else match tcfgOf ((List.range 16).map fun i => (x.constWord (w + i)).toNat) with
      | some c => .ok ({ cmd with cfg := c }, st)
      | none => .error (illegalEnc, 0#64)
  else if needs && v.m = 0 then .error (illegalEnc, 0#64)
  else if f.opc = opMma then
    let ba := blockBytes v.afmt
    let bb := blockBytes v.bfmt
    let stp : SlotSt :=
      if present then
        let a := x.sr f.abase
        let b := x.sr f.bbase
        { st with ea := a, b := b, al := plusInt a v.ascl, be := plusInt b v.bscl }
      else { st with
        ea := plusInt st.ea (64 * f.stepa), b := plusInt st.b (64 * f.stepb)
        al := plusInt st.al (64 * f.stepa / ba), be := plusInt st.be (64 * f.stepb / bb) }
    if isMx v.bfmt && !f.tb then .error (illegalEnc, 0#64)
    else if (isMx v.afmt && 64 * f.stepa % ba ≠ 0) || (isMx v.bfmt && 64 * f.stepb % bb ≠ 0) then .error (illegalEnc, 0#64)
    else
      let c := { cmd with a := stp.ea.toNat, b := stp.b.toNat, al := stp.al.toNat, be := stp.be.toNat }
      let checks := [boundFault x.live true (v.rowsA c.a), boundFault x.live false (v.scalesA c.al),
        boundFault x.live true (v.rowsB f.tb c.b), boundFault x.live false (v.scalesB c.be)]
      match checks.findSome? id with
      | some e => .error e
      | none => .ok (c, stp)
  else if f.opc = opAccld ∨ f.opc = opAccst then
    let stp := { st with ea := if present then x.sr f.abase else plusInt st.ea (64 * f.stepa) }
    let c := { cmd with a := stp.ea.toNat }
    if f.opc = opAccst && f.stepbRaw % 8 = 3 && v.s32 then .error (illegalEnc, 0#64)
    else match boundFault x.live true (v.region c.a c.elemBytes) with
      | some e => .error e
      | none => .ok (c, stp)
  else if f.opc = opAccmv then
    let stp := { st with
      ea := if present then x.sr f.abase else plusInt st.ea f.stepa
      b := if present then x.sr f.bbase else st.b }
    let name := stp.b.toNat
    if 63 < stp.ea.toNat then .error (illegalEnc, 0#64)
    else if 1024 ≤ name ∨ 79 < name % 128 + 3 then .error (regName, 0#64)
    else if (List.range 4).any fun q => (x.stream? (name + q)).isSome then .error (regName, 0#64)
    else .ok ({ cmd with a := stp.ea.toNat, b := name }, stp)
  else .ok (cmd, st)

end Sys2Proof.Machine
end

