-- ==== Sys2Proof/Machine/CopyForms.lean ====
section
/-! DEFINITION. The issue of copy commands (R87, R181, R182, R185, R201 to R203, R209, R211, R218) and the elements of
their patterns. -/
namespace Sys2Proof.Machine
open Sys2Proof

/-! ## Patterns (R87, R202, R211) -/

abbrev patCnt (w : Word) : Nat := bitsOf 59 40 w.toNat
abbrev patStr (w : Word) : Int := asInt true 40 (bitsOf 39 0 w.toNat)
abbrev patTop (w : Word) : Nat := bitsOf 63 60 w.toNat

def CCmd.word (c : CCmd) (i : Nat) : Word := c.pat.getD i 0#64
def CCmd.esize (c : CCmd) : Nat := patTop (c.word 0)
def CCmd.etype (c : CCmd) : Nat := patTop (c.word 4)
def CCmd.wait (c : CCmd) : WaitSig := waitSig c.syl
def MCmd.wait (c : MCmd) : WaitSig := waitSig c.syl

/-- The counts and strides of a side, `b` its first word. -/
def CCmd.dims (c : CCmd) (b : Nat) : List (Nat × Int) := (List.range 4).map fun i => (patCnt (c.word (b + i)), patStr (c.word (b + i)))

def dimCount (l : List (Nat × Int)) : Nat := (l.map Prod.fst).foldl (· * ·) 1

/-- Whether a side is read through an index list (R211): CGTH's source, CSCT's destination. -/
def CCmd.indexed (c : CCmd) (b : Nat) : Bool := (c.op = opCgth && b = 0) || (c.op = opCsct && b = 4)

/-- Elements of a side. -/
def CCmd.sideCount (c : CCmd) (b : Nat) : Nat := if c.indexed b then patCnt (c.word b) else dimCount (c.dims b)

/-- Which sides the form uses (R202). -/
def CCmd.usesSrc (c : CCmd) : Bool := c.op ≠ opCfill && c.op ≠ opCfence && c.op ≠ opCsig
def CCmd.usesDst (c : CCmd) : Bool := c.op ≠ opCprf && c.op ≠ opCfence && c.op ≠ opCsig

/-- Elements of the command. -/
def CCmd.count (c : CCmd) : Nat :=
  if c.usesSrc then c.sideCount 0 else if c.usesDst then c.sideCount 4 else 0

/-- The displacement of element `n` (R202). -/
def dimOff : List (Nat × Int) → Nat → Int
  | [], _ => 0
  | (k, s) :: t, n => (n % k : Nat) * s + dimOff t (n / k)

/-- The address of element `n` of an ordinary side. -/
def CCmd.elemAddr (c : CCmd) (b : Nat) (base : Word) (n : Nat) : Word := plusInt base (dimOff (c.dims b) n)

/-- Bytes of an element on the source side and on the destination side: CCAS pairs on the source (R214). -/
def CCmd.srcBytes (c : CCmd) : Nat := 2 ^ c.esize
def CCmd.dstBytes (c : CCmd) : Nat := if c.op = opCcas then 2 ^ c.esize / 2 else 2 ^ c.esize

/-- The index list (R211): its address, the bytes of an index, whether it is signed, and the shift. -/
def CCmd.indexWord (c : CCmd) : Nat := (c.word (if c.op = opCgth then 0 else 4)).toNat
def CCmd.ilist (c : CCmd) : Word := c.word (if c.op = opCgth then 1 else 5)
def CCmd.iBytes (c : CCmd) : Nat := if bitsOf 39 38 c.indexWord = 2 then 8 else 4
/-- The address an index names. -/
def CCmd.indexAddr (c : CCmd) (base : Word) (v : Nat) : Word :=
  let x : Word := if bitsOf 39 38 c.indexWord = 1 then sext (BitVec.ofNat 32 v) else BitVec.ofNat 64 v
  base + (x <<< bitsOf 37 32 c.indexWord)

/-- The limits of a side's words (R87, R211): they hold for a side the form does not use too. -/
def CCmd.sideOk (c : CCmd) (b : Nat) : Bool :=
  if c.indexed b then
    bitsOf 39 38 (c.word b).toNat ≠ 3 && bitsOf 31 0 (c.word b).toNat = 0 && c.word (b + 2) = 0#64 && c.word (b + 3) = 0#64
  else (List.range 3).all fun i => patTop (c.word (b + 1 + i)) = 0

/-- ETYPE and ESIZE agree with the form (R203). -/
def CCmd.typesOk (c : CCmd) : Bool :=
  let t := c.etype
  let e := c.esize
  if c.op = opCpyr then 1 ≤ t && t ≤ 7 && e = [2, 1, 1, 2, 3, 2, 3].getD (t - 1) 0
  else if c.op = opCamo then 4 ≤ t && t ≤ 7 && e = (if t % 2 = 0 then 2 else 3)
  else if c.op = opCcas then 4 ≤ t && t ≤ 7 && e = (if t % 2 = 0 then 3 else 4)
  else t = 0 && e ≤ 12

/-! ## Bases (R31, R201) -/

/-- CANON for a base: the reserved space, or a bit R31 requires zero. -/
def badCanon (a : Word) : Bool :=
  let n := a.toNat
  match n / 2 ^ 62 with
  | 0 => n / 2 ^ 56 ≠ 0
  | 1 => n / 2 ^ 31 % 2 ^ 31 ≠ 0
  | 2 => n / 2 ^ 21 % 2 ^ 41 ≠ 0
  | _ => true

abbrev spaceOf (a : Word) : Nat := a.toNat / 2 ^ 62

/-- The check of one base. -/
def baseFault (a : Word) (dvaOk : Bool) : Option SlotFault :=
  if badCanon a then some (canon, a) else if spaceOf a = 0 && !dvaOk then some (illegalEnc, 0#64) else none

/-- The far tile of a destination base (R185): none where there is none or it is absent. -/
def Tile.farTile (x : Tile) (t : Nat) (a : Word) : Option Nat :=
  match spaceOf a with
  | 1 => x.seq.csr.ptile (a.toNat / 2 ^ 21 % 1024)
  | 2 => some t
  | _ => none

/-- The destination tiles of a CPYM, as logical numbers (R209). -/
def Tile.bitmapAt (x : Tile) (w : Nat) : List Nat := (List.range 1024).filter fun n => (x.constWord (w + n / 32)).getLsbD (n % 32)

/-- Issue a copy syllable of tile `t` (R181, R182, R218): the command without its serial. -/
def Tile.issueC (x : Tile) (t now : Nat) (syl : Word) : Except SlotFault CCmd :=
  let f := sylC syl
  let w := (x.sr f.s3).toNat
  let v := waitSig syl
  let c : CCmd :=
    { serial := 0, op := f.opc, syl := syl, s1 := x.sr f.s1, s2 := x.sr f.s2, baddr := x.bsq.pc, ctx := x.seq.csr.ctx
      issuedAt := now }
  if f.opc = opCfence ∨ f.opc = opCsig then .ok c
  else
    let c := { c with
      pat := (List.range 8).map fun i => (x.constWord (w + 2 * i + 1) ++ x.constWord (w + 2 * i) : BitVec 64)
      bitmap := if f.opc = opCpym then x.bitmapAt (w + 16) else [] }
    let sides := c.sideOk 0 && c.sideOk 4 && c.typesOk
    let counts := (!c.usesSrc || c.sideCount 0 ≤ 2 ^ 48) && (!c.usesDst || c.sideCount 4 ≤ 2 ^ 48) &&
      (!(c.usesSrc && c.usesDst) || c.sideCount 0 = c.sideCount 4)
    if w % 16 ≠ 0 ∨ (if f.opc = opCpym then 4048 else 4080) < w then .error (illegalEnc, 0#64)
    else if !sides || !counts then .error (illegalEnc, 0#64)
    else
      let src := if c.usesSrc then baseFault c.s1 true else none
      let dst := if !c.usesDst then none
        else if f.opc = opCpym then (if badCanon c.s2 then some (canon, c.s2) else if c.s2.toNat / 2 ^ 21 ≠ 0 then some (illegalEnc, 0#64) else none)
        else baseFault c.s2 (f.opc ≠ opCpyr)
      let ilist := if f.opc = opCgth ∨ f.opc = opCsct then (if badCanon c.ilist then some (canon, c.ilist) else none) else none
      let far := if 2 ≤ v.stgt ∧ f.opc ≠ opCpym ∧ (x.farTile t c.s2).isNone then some (illegalEnc, 0#64) else none
      let multi := if f.opc ≠ opCpym then none
        else if c.bitmap.isEmpty then some (illegalEnc, 0#64)
        else if c.bitmap.any fun n => (x.seq.csr.ptile n).isNone then some (spadBounds, 0#64) else none
      match [src, dst, ilist, far, multi].findSome? id with
      | some e => .error e
      | none => .ok { c with far := if f.opc = opCpym then c.bitmap.filterMap x.seq.csr.ptile else (x.farTile t c.s2).toList }

end Sys2Proof.Machine
end

