-- ==== Sys2Proof/Machine/Bundle.lean ====
section
/-! DEFINITION. The bundle sequencer's steps (R220 to R232, R245, R246, R442): an issue planned whole before it has any
effect, its stalls, skip mode, retirement, the writing of results and the performing of slot stores. -/
namespace Sys2Proof.Machine
open Sys2Proof

/-! ## Pops (R74, R221) -/

abbrev entKind (e : CqEnt) : Nat := bitsOf 63 60 e.w.toNat

/-- Entries a bundle issued now may pop (R117). -/
def Bsq.poppable (b : Bsq) (now : Nat) : Nat := (b.cq.takeWhile fun e => e.pushedAt + 2 ≤ now).length

/-- The effect of one popped entry on masks and s registers (R221). -/
def Tile.popEntry (x : Tile) (e : CqEnt) : Tile :=
  let n := e.w.toNat
  match entKind e with
  | 2 => ((List.range 8).filter fun c => bitOf (16 + c) n).foldl (fun x c => x.setK c (bitsOf 26 24 n) (BitVec.ofNat 16 n)) x
  | 5 => x.setS (bitsOf 36 32 n) (sext (BitVec.ofNat 32 n))
  | _ => x

/-- The kinds a bundle expects, in pop order. -/
def kindOk (h : Header) (i : Nat) (e : CqEnt) : Bool :=
  if i < h.xpop then entKind e = 2 || entKind e = 5 else some (entKind e) = flowPops h.flow

/-- The tile with the bundle's entries popped. -/
def Tile.popAll (x : Tile) (n : Nat) : Tile :=
  let es := x.bsq.cq.take n
  let y := es.foldl Tile.popEntry x
  { y with
    bsq := { y.bsq with cq := y.bsq.cq.drop n, cqRead := (y.bsq.cqRead + n) % 64, popPos := es.foldl (fun m e => max m e.pos) y.bsq.popPos }
    latch := y.latch || n ≠ 0 }

/-! ## The operations of an issue (R226) -/

/-- A slot's operation in an issue: its syllable with the stepped addresses, and whether it starts afresh. -/
structure SlotOp where
  i : Nat
  st : SlotSt
  fresh : Bool
  deriving DecidableEq, Repr

/-- The header of the bundle at the BSQ's address. -/
def Tile.header (x : Tile) : Header := headerOf (x.bprog.get 0#64 x.bsq.pc)

/-- The syllable a bundle presents in slot `i`. -/
def Tile.presented (x : Tile) (h : Header) (i : Nat) : Word := x.bprog.get 0#64 (x.bsq.pc + h.place i)

/-- What every slot does in the next issue. -/
def Tile.slotOps (x : Tile) (h : Header) : List SlotOp :=
  (List.range 20).filterMap fun i =>
    if x.bsq.first && h.has i then
      let w := x.presented h i
      if isIdle w then none else some { i := i, st := { syl := w }, fresh := true }
    else (x.bsq.slots.find? i).map fun st => { i := i, st := st, fresh := false }

/-- A header at unit `pc` that breaks R73. -/
def Header.bad (h : Header) (pc : Nat) : Bool :=
  Config.bundleUnits ≤ pc || h.low ≠ 0 || 7 < h.flow || Config.bundleUnits < pc + h.units

/-- The header and syllable checks of a first issue (R73, R75): slot field and code. -/
def Tile.encFault (x : Tile) : Option (Nat × Nat) :=
  let h := x.header
  if h.bad x.bsq.pc then some (bundleField, illegalEnc)
  else (List.range 20).findSome? fun i =>
    if h.has i then (slotCheck i (x.presented h i)).map fun c => (slotField i, c) else none

/-! ## Stalls (R227, R246) -/

/-- Elements of a port's pattern (R25). -/
def Port.total (p : Port) : Int := p.cnt.d0 * p.cnt.d1 * p.cnt.d2 * p.cnt.d3

/-- Elements a port can give now (R228). -/
def Port.poppable (p : Port) : Nat := ((p.buf.filter fun e => !e.popped).takeWhile (·.ready)).length

/-- How often a list names a register. -/
def countName (l : List Nat) (n : Nat) : Nat := l.countP (· = n)

/-- A stream stall: a read port too empty, or a write port too full. -/
def Tile.streamStall (x : Tile) (ops : List SlotOp) : Bool :=
  let vs := ops.filter fun o => 4 ≤ o.i
  let rs := vs.map fun o => slotReads o.i o.st.syl o.fresh
  let reads := rs.flatMap fun r => r.v.map Prod.fst
  -- a RED with no active lane pushes nothing (R172)
  let none_ (o : SlotOp) : Bool := (sylA o.st.syl).op7 = 0x6E && x.kr ((o.i - 4) / 2) (sylA o.st.syl).k = 0#16
  let dests := (vs.filter fun o => !none_ o).filterMap fun o => (slotReads o.i o.st.syl o.fresh).dest
  reads.any (fun n => match x.stream? n with
    | some (p, false) => (x.port p).poppable < countName reads n
    | _ => false) ||
  dests.any fun n => match x.stream? n with
    | some (p, true) =>
      let q := x.port p
      let k := countName dests n
      16 < q.buf.length + q.resv + k || q.total < ((q.next + q.resv + k : Nat) : Int)
    | _ => false

/-- Commands of kind CPYM queued across C0 and C1 (R325). -/
def Tile.cpyms (x : Tile) : Nat := ((x.c0.cmds ++ x.c1.cmds).filter (·.op = opCpym)).length

/-- A full command queue, or a ninth CPYM. -/
def Tile.queueStall (x : Tile) (ops : List SlotOp) : Bool :=
  let cp := (ops.filter fun o => (o.i = 2 || o.i = 3) && (sylC o.st.syl).opc = opCpym).length
  ops.any (fun o => (o.i = 1 && 16 ≤ x.mat.queue.length) || (o.i = 2 && 64 ≤ x.c0.cmds.length) ||
    (o.i = 3 && 64 ≤ x.c1.cmds.length)) || (cp ≠ 0 && 8 < x.cpyms + cp)

/-- Whether a result's target is among an issue's reads. -/
def Reads.meets (r : Reads) (t : ResTgt) : Bool :=
  match t with
  | .sreg n => n ≠ 0 && r.s.contains n
  | .vreg name lanes => r.v.any fun e => e.1 = name && e.2 &&& lanes ≠ 0#16
  | .kreg i bits => i % 8 ≠ 0 && bits ≠ 0#16 && r.k.contains i
  | _ => false

/-- The profile-4 interlock (R246). -/
def Tile.interlock (x : Tile) (ops : List SlotOp) : Bool :=
  x.bsq.profile4 && ops.any fun o =>
    let r := slotReads o.i o.st.syl o.fresh
    x.bsq.pend.any fun p => p.refDue ≤ x.bsq.rho && r.meets p.tgt

/-! ## The plan of an issue -/

/-- What the next issue would come to. -/
inductive Plan where
  | stall
  | lock
  | fault (slot code : Nat) (addr : Word)
  | go (x : Tile)

/-- An issue under way with its commands and stepped slots. -/
structure Issue where
  w : Iss
  slots : NMap SlotSt
  m : Option MCmd := none
  c0 : Option CCmd := none
  c1 : Option CCmd := none

/-- The address of this issue of a shape-M syllable (R146). -/
def SlotOp.ea (o : SlotOp) (x : Tile) : Word :=
  let m := sylM o.st.syl
  if o.fresh then x.sr m.base + BitVec.ofNat 64 (64 * m.offset) else plusInt o.st.ea (64 * m.step)

/-- One slot of the issue. -/
def Issue.slot (u : Issue) (t : Nat) (o : SlotOp) : Except SlotFault Issue :=
  let x := u.w.x
  match o.i with
  | 0 => (u.w.scalar o.st.syl).map fun w => { u with w := w, slots := u.slots.insert 0 o.st }
  | 1 => (x.issueM u.w.now o.st o.fresh).map fun (c, st) => { u with m := some c, slots := u.slots.insert 1 st }
  | 2 => (x.issueC t u.w.now o.st.syl).map fun c => { u with c0 := some c, slots := u.slots.insert 2 o.st }
  | 3 => (x.issueC t u.w.now o.st.syl).map fun c => { u with c1 := some c, slots := u.slots.insert 3 o.st }
  | i =>
    let ea := o.ea x
    (u.w.vector i o.st.syl ea).map fun w => { u with w := w, slots := u.slots.insert i { o.st with ea := ea } }

/-- The slots in R73 order; the first fault is the issue's (R147). -/
def Issue.run (u : Issue) (t : Nat) : List SlotOp → Except (Nat × SlotFault) Issue
  | [] => .ok u
  | o :: l =>
    match u.slot t o with
    | .error e => .error (slotField o.i, e)
    | .ok v => v.run t l

/-- The issue accesses scratchpad. -/
def Issue.accesses (u : Issue) (ops : List SlotOp) : Bool :=
  u.w.lines ≠ 0 || !u.w.stores.isEmpty || ops.any fun o => o.i = 0 && (sylA o.st.syl).opc = 0x010

/-- Append a command with its serial (R181); a fence's snapshot counts the whole bundle (R215). -/
def CQueue.append (q : CQueue) (c : CCmd) : CQueue :=
  { q with cmds := q.cmds ++ [{ c with serial := q.nextSerial }], nextSerial := q.nextSerial + 1 }

/-- The fence snapshots of this bundle's CFENCEs. -/
def Tile.fenceSnaps (x : Tile) (now : Nat) : Tile :=
  let snap : FenceSnap := { x.snapshot now with acc := x.bsq.popPos }
  let mine (c : CCmd) : Bool := c.op = opCfence && c.issuedAt = now && c.fence.isNone
  let set0 (c : CCmd) : CCmd := if mine c then { c with fence := some { snap with c0 := c.serial } } else c
  let set1 (c : CCmd) : CCmd := if mine c then { c with fence := some { snap with c1 := c.serial } } else c
  { x with c0 := { x.c0 with cmds := x.c0.cmds.map set0 }, c1 := { x.c1 with cmds := x.c1.cmds.map set1 } }

/-- Begin the execution at `a` (R220). -/
def Bsq.begin (b : Bsq) (a : Nat) : Bsq := { b with pc := a, issued := 0, first := true }

/-- The flow action after the last issue (R221, R223, R224, R238). -/
def Bsq.flow (b : Bsq) (h : Header) : Bsq :=
  let next := b.pc + h.units
  let n := b.flowEnt.toNat
  if h.flow = flowHalt then { b with done := true }
  else if h.flow = flowLoop ∧ bitsOf 31 0 n = 0 then { b with skip := some 1 }.begin next
  else if h.flow = flowEndl then
    match b.loops with
    | l :: rest =>
      let l := { l with lastcyc := l.curcyc, curcyc := 0, rem := l.rem - 1, iter := l.iter + 1 }
      if 0 < l.rem then { b with loops := l :: rest }.begin l.start else { b with loops := rest }.begin next
    | [] => b.begin next
  else if h.flow = flowSel then b.begin (if bitOf 20 n then bitsOf 19 0 n else next)
  else if h.flow = flowJblk then b.begin (bitsOf 19 0 n)
  else b.begin next

/-- The loop a LOOP's first issue opens (R223). -/
def loopOf (e : Word) (start : Nat) : Loop :=
  let n := e.toNat
  { rem := bitsOf 31 0 n, iter := 0, start := start, epi := bitsOf 59 52 n, clamp := bitOf 51 n, loopId := bitsOf 50 47 n }

/-- The tile after an issue whose slots have run. The loop a LOOP opens is the innermost one after its slots have read, so
that SCNT LOOPCYC of that issue does not see it (R152): DESIGN CHOICE (log 103). -/
def Tile.commit (now : Nat) (h : Header) (first : Bool) (popped : List CqEnt) (u : Issue) : Tile :=
  let w := u.w
  let x := w.seeds.foldl (fun (x : Tile) e => x.setSrstate e.1 e.2) w.x
  let flowEnt := if first ∧ (flowPops h.flow).isSome then (popped.getLast?.map (·.w)).getD 0#64 else x.bsq.flowEnt
  let opens := first && h.flow = flowLoop && bitsOf 31 0 flowEnt.toNat ≠ 0
  let last := x.bsq.issued = h.rep
  let b : Bsq := { x.bsq with
    slots := u.slots
    pend := x.bsq.pend ++ w.res
    stores := x.bsq.stores ++ w.stores
    window := x.bsq.window ++
      [({ due := now + 13, cq := popped, pops := w.pops, resv := w.resv, halt := last && h.flow = flowHalt } : Retire)]
    nextOrder := x.bsq.nextOrder + 32
    issued := x.bsq.issued + 1
    first := false
    flowEnt := flowEnt
    loops := if opens then loopOf flowEnt (x.bsq.pc + h.units) :: x.bsq.loops else x.bsq.loops
    issuedNow := true
    stallFrom := none
    portLines := w.lines }
  let x := { x with
    bsq := if last then b.flow h else b
    mat := match u.m with
      | some c => { x.mat with queue := x.mat.queue ++ [{ c with serial := x.mat.nextSerial }], nextSerial := x.mat.nextSerial + 1 }
      | none => x.mat
    c0 := match u.c0 with | some c => x.c0.append c | none => x.c0
    c1 := match u.c1 with | some c => x.c1.append c | none => x.c1 }
  x.fenceSnaps now

/-- The next issue of tile `t` (R220, R230): its encoding first, then its stalls, its pops, and its slots. That an illegal
encoding faults in the first cycle, before what would stall the issue is looked at, is a DESIGN CHOICE (log 135). -/
def Tile.plan (x : Tile) (t now : Nat) : Plan :=
  let first := x.bsq.first
  let h := x.header
  match (if first then x.encFault else none) with
  | some (slot, code) => .fault slot code 0#64
  | none =>
    let n := if first then h.pops else 0
    let ops := x.slotOps h
    let y := x.popAll n
    if x.interlock ops then .lock
    else if x.bsq.poppable now < n || y.queueStall ops || y.streamStall ops then .stall
    else
      let popped := x.bsq.cq.take n
      let bad := popped.zipIdx.any fun (e, i) => !kindOk h i e
      let full := first && h.flow = flowLoop && y.bsq.loops.length = 16 &&
        bitsOf 31 0 ((popped.getLast?.map (·.w)).getD 0#64).toNat ≠ 0
      let empty := first && h.flow = flowEndl && y.bsq.loops.isEmpty
      if bad || full || empty then .fault bundleField cqProtocol 0#64
      else
        let kept := if first then (y.bsq.slots.filter fun e => !h.has e.1) else y.bsq.slots
        let u : Issue := { w := { x := y, now := now, ftz := h.ftz }, slots := kept }
        match u.run t ops with
        | .error (slot, code, addr) => .fault slot code addr
        | .ok u =>
          -- a strongly ordered access that is out lets no later one be accepted (R268)
          if !x.strongSnaps.isEmpty && u.accesses ops then .stall else .go (Tile.commit now h first popped u)

/-- The BSQ may act in this cycle. -/
def Tile.bsqLive (x : Tile) : Bool := x.use = .running && x.freeze.isNone && !x.bsq.done

/-- A fault of the issue at the BSQ's address (R230, R232). -/
def Tile.bundleFault (x : Tile) (slot code : Nat) (addr : Word) : Tile :=
  { x with faults := x.faults ++
      [{ code := code, slot := slot, bsq := true, eaddr := addr, epc := x.seq.pc, ebaddr := x.bsq.pc }] }

/-- A tile's own event; `live` says that it may happen. -/
def tileEvent (name : String) (t : Nat) (s : State) (live : Tile → Bool) (f : Tile → Tile) : Out' :=
  if Config.tiles ≤ t then .fault (.noSuchUnit name t)
  else if live (s.tile t) then .next (s.modTile t f) else .refused (.notEnabled name)

/-- An issue (R220): all of it, or its fault with nothing done (R232). Another fault of the cycle leaves only the
fault (R368). -/
def execBundleIssue (t : Nat) (s : State) : Out' :=
  tileEvent "BUNDLE_ISSUE" t s
    (fun x => x.bsqLive && x.bsq.skip.isNone && !x.bsq.issuedNow && (match x.plan t s.now with
      | .go _ => x.faults.isEmpty
      | .fault _ _ _ => true
      | _ => false))
    fun x => match x.plan t s.now with
      | .go y => y
      | .fault slot code addr => x.bundleFault slot code addr
      | _ => x

/-- A stalled cycle (R227). -/
def execBsqStall (t : Nat) (s : State) : Out' :=
  tileEvent "BSQ_STALL" t s
    (fun x => x.bsqLive && x.bsq.skip.isNone && (match x.plan t s.now with | .stall => true | _ => false))
    fun x => x.modBsq fun b => { b with stallFrom := some (b.stallFrom.getD s.wall) }

/-- A cycle in which the profile-4 interlock holds (R245, R246): ρ does not advance. -/
def execProfile4Interlock (t : Nat) (s : State) : Out' :=
  tileEvent "PROFILE4_INTERLOCK" t s
    (fun x => x.bsqLive && x.bsq.skip.isNone && (match x.plan t s.now with | .lock => true | _ => false))
    fun x => x.modBsq fun b => { b with stallFrom := some (b.stallFrom.getD s.wall), rhoHeld := true }

/-- One bundle of a skipped body (R224). -/
def execSkipWalk (t : Nat) (s : State) : Out' :=
  tileEvent "SKIP_WALK" t s (fun x => x.bsqLive && x.bsq.skip.isSome && x.faults.isEmpty) fun x =>
    let h := x.header
    if h.bad x.bsq.pc then x.bundleFault bundleField illegalEnc 0#64
    else
      let d := (x.bsq.skip.getD 0) + (if h.flow = flowLoop then 1 else 0) - (if h.flow = flowEndl then 1 else 0)
      x.modBsq fun b => { b with skip := if d = 0 then none else some d, stallFrom := none }.begin (b.pc + h.units)

/-! ## Retirement (R231, R179) -/

/-- Remove the `n` oldest popped elements. -/
def dropPopped : Nat → List Elem → List Elem
  | 0, l => l
  | _ + 1, [] => []
  | n + 1, e :: l => if e.popped then dropPopped n l else e :: dropPopped (n + 1) l

/-- Every store, VAMO and stream push issued so far has performed (R179). -/
def Tile.storesDone (x : Tile) : Bool :=
  x.bsq.stores.isEmpty && x.ports.all fun e => !(e.2.bound && e.2.write) || (e.2.buf.isEmpty && e.2.resv = 0)

/-- The oldest record may retire. -/
def Tile.mayRetire (x : Tile) (now : Nat) : Bool :=
  match x.bsq.window with
  | r :: _ => r.due ≤ now && (!r.halt || x.storesDone)
  | [] => false

/-- The BSQ freezes in this cycle: a fault has been found in it, or its issue or skipped bundle raises one. -/
def Tile.faultsNow (x : Tile) (t now : Nat) : Bool :=
  !x.faults.isEmpty || x.bsqLive && (match x.bsq.skip with
    | some _ => x.header.bad x.bsq.pc
    | none => !x.bsq.issuedNow && (match x.plan t now with
      | .fault _ _ _ => true
      | _ => false))

/-- Retire the oldest issue: BNDRET counts it and its record is released. From the cycle of a freeze on the records are
held (R233). Loop entries still active when a HALT retires are discarded (R225). -/
def execBundleRetire (t : Nat) (s : State) : Out' :=
  tileEvent "BUNDLE_RETIRE" t s
    (fun x => x.freeze.isNone && x.use = .running && x.mayRetire s.now && !x.faultsNow t s.now) fun x =>
    match x.bsq.window with
    | [] => x
    | r :: rest =>
      let x := r.pops.foldl (fun (x : Tile) (p, n) =>
        let q := x.port p
        x.setPort p { q with buf := dropPopped n q.buf }) x
      let x := x.modCsr fun c => { c with bndret := c.bndret + 1 }
      { x with
        latch := x.latch || r.halt
        bsq := { x.bsq with
          window := rest
          haltRetired := x.bsq.haltRetired || r.halt
          loops := if r.halt then [] else x.bsq.loops } }

/-! ## Results (R143 to R145, R245) -/

/-- The lanes or bits of `r` that `e` reaches too; all of them for an s register or a port. -/
def ResTgt.shared (e r : ResTgt) : BitVec 16 :=
  match e, r with
  | .sreg m, .sreg n => if m = n then 0xFFFF#16 else 0#16
  | .vreg m l, .vreg n k => if m = n then l &&& k else 0#16
  | .kreg m l, .kreg n k => if m = n then l &&& k else 0#16
  | .push p _, .push q _ => if p = q then 0xFFFF#16 else 0#16
  | _, _ => 0#16

/-- A target cut to the lanes or bits of `m`; none where nothing is left. An s register and a port are one piece. -/
def ResTgt.only (r : ResTgt) (m : BitVec 16) : Option ResTgt :=
  match r with
  | .vreg n l => if l &&& m = 0#16 then none else some (.vreg n (l &&& m))
  | .kreg n l => if l &&& m = 0#16 then none else some (.kreg n (l &&& m))
  | r => if m = 0xFFFF#16 then some r else none

/-- The part of a result on the lanes of `m`. -/
def PendRes.only (r : PendRes) (m : BitVec 16) : Option PendRes := (r.tgt.only m).map fun t => { r with tgt := t }

/-- The order of a profile-4 run: reference due, then issue and slot order (R144, R245, R248, R250). -/
def PendRes.before (a b : PendRes) : Bool := a.refDue < b.refDue || a.refDue = b.refDue && a.order < b.order

/-- A result in its place in that order. -/
def insertRef (r : PendRes) : List PendRes → List PendRes
  | [] => [r]
  | e :: l => if r.before e then r :: e :: l else e :: insertRef r l

/-- The results of profile 4 written in this cycle, in the order of a profile-4 run, and what stays: each lane, bit or port
waits for the results before it in that order. Flags go with the part written first. -/
def splitRef (now rho : Nat) : List PendRes → List PendRes → List PendRes × List PendRes
  | [], kept => ([], kept)
  | r :: l, kept =>
    if r.due ≤ now && r.refDue ≤ rho then
      let held := kept.foldl (fun m e => m ||| e.tgt.shared r.tgt) 0#16
      if held = 0#16 then
        let (w, k) := splitRef now rho l kept
        (r :: w, k)
      else
        match r.only (~~~held) with
        | some part =>
          let (w, k) := splitRef now rho l (kept ++ (({ r with flags := 0#5 } : PendRes).only held).toList)
          (part :: w, k)
        | none => splitRef now rho l (kept ++ [r])
    else splitRef now rho l (kept ++ [r])

/-- The results written in this cycle and those that stay. Under profile 6 a result is written in its cycle, and those of
one cycle in issue order and within an issue in slot order, pushes of different issues included (R144, R145: the manual
gives pushes of one cycle slot order only: DESIGN CHOICE, log 102). Under profile 4 the third condition of R245 is read as
R248 and R250 need it, for every result before in reference order (DEDUCED, log 107). -/
def splitDue (p4 : Bool) (now rho : Nat) (pend : List PendRes) : List PendRes × List PendRes :=
  if p4 then splitRef now rho (pend.foldl (fun l r => insertRef r l) []) []
  else (pend.filter fun r => r.due ≤ now, pend.filter fun r => !(r.due ≤ now))

/-- The offset of element `n` of a port's pattern (R128). -/
def Port.elemOff (p : Port) (n : Nat) : Nat :=
  let c0 := p.cnt.d0.toNat
  let c1 := p.cnt.d1.toNat
  let c2 := p.cnt.d2.toNat
  ((p.base : Int) + (n % c0 : Nat) * p.str.d0 + (n / c0 % c1 : Nat) * p.str.d1 +
    (n / c0 / c1 % c2 : Nat) * p.str.d2 + (n / c0 / c1 / c2 : Nat) * p.str.d3).toNat

/-- Lanes of `new` where `m` is set, of `old` elsewhere. -/
def mergeLanes (m : BitVec 16) (old new : Line) : Line :=
  packLanes ((List.range 16).map fun l => if m.getLsbD l then laneOf new l else laneOf old l)

/-- Write one result; what it wrote over is kept for a freeze in this cycle (R233). -/
def Tile.writeResult (x : Tile) (now : Nat) (r : PendRes) : Tile :=
  let set := r.flags &&& ~~~x.fflags r.cluster
  let old (d : Line) : PendRes := { r with data := d, flags := set }
  let x' := if r.flags = 0#5 then x else x.setFflags r.cluster (x.fflags r.cluster ||| r.flags)
  let note (y : Tile) (d : Line) : Tile := y.modBsq fun b => { b with resNow := b.resNow ++ [(r, old d)] }
  match r.tgt with
  | .sreg n => note (x'.setS n (r.data.setWidth 64)) ((x.sr n).setWidth 512)
  | .vreg name lanes => note (x'.setV name (mergeLanes lanes (x.vr name) r.data)) (x.vr name)
  | .kreg i bits =>
    let o := x.kr (i / 8) (i % 8)
    note (x'.setK (i / 8) (i % 8) ((o &&& ~~~bits) ||| (r.data.setWidth 16 &&& bits))) (o.setWidth 512)
  | .push p lanes =>
    let q := x'.port p
    let e : Elem := { off := q.elemOff q.next, data := r.data, lanes := lanes, readyAt := now + 2, order := r.order }
    note (x'.setPort p { q with buf := q.buf ++ [e], next := q.next + 1, resv := q.resv - 1 }) 0#512
  | .none => note x' 0#512

/-- An ACCMV that completes now, its row not written yet. -/
def Tile.rowDue (x : Tile) (now : Nat) (c : MCmd) : Bool :=
  c.op = opAccmv && c.completeAt.any (· ≤ now) && !c.row.isEmpty && !x.matrixHeld

/-- The rows of ACCMVs that complete in this cycle (R195): written before the slots' results, which are kept. R195 checks the
registers at issue; one that STRM has bound since then takes the row as the contents it will show when it is unbound (R24):
DESIGN CHOICE (log 130). -/
def Tile.writeRows (x : Tile) (now : Nat) : Tile :=
  let due := x.rowDue now
  let y := (x.mat.queue.filter due).foldl (fun (y : Tile) c =>
    (List.range 4).foldl (fun (y : Tile) q =>
      y.setV (c.b + q) (packLanes ((c.row.drop (16 * q)).take 16 |>.map (·.toNat)))) y) x
  { y with mat := { y.mat with queue := y.mat.queue.map fun c => if due c then { c with row := [] } else c } }

/-- Whether results are written now. -/
def Tile.resultsDue (x : Tile) (now : Nat) : Bool :=
  (x.freeze.isNone && !(splitDue x.bsq.profile4 now x.bsq.rho x.bsq.pend).1.isEmpty) ||
  x.mat.queue.any (x.rowDue now)

/-- The results due in this cycle are written. -/
def execSlotResultWrite (t : Nat) (s : State) : Out' :=
  tileEvent "SLOT_RESULT_WRITE" t s (fun x => x.resultsDue s.now) fun x =>
    let x := x.writeRows s.now
    if x.freeze.isSome then x
    else
      let (now, later) := splitDue x.bsq.profile4 s.now x.bsq.rho x.bsq.pend
      now.foldl (fun (x : Tile) r => x.writeResult s.now r) (x.modBsq fun b => { b with pend := later })

/-! ## Slot stores (R442) -/

/-- Add a result in issue order. -/
def insertRes (l : List PendRes) (r : PendRes) : List PendRes := (l.takeWhile (·.order < r.order)) ++ r :: (l.dropWhile (·.order < r.order))

/-- The offsets a slot store writes. -/
def SlotStore.offs : SlotStore → List Nat
  | .write bytes _ => bytes.map Prod.fst
  | .vamo _ _ _ ops => ops.flatMap fun e => (List.range 4).map (e.2.1 + ·)

/-- A store of profile 4 that performs in a freeze before its reference due leaves a shadow (R247). -/
def Tile.shade (x : Tile) (p : PendStore) : Tile :=
  if x.bsq.profile4 && x.bsq.rho < p.due then
    let slot := p.order % 32
    let old := p.st.offs.map fun o => (o, BitVec.ofNat 8 (x.readNat o 1))
    x.modBsq fun b => { b with shadows := b.shadows ++ [{ cluster := if slot = 0 then none else some ((slot - 4) / 2), due := p.due, old := old }] }
  else x

/-- Perform one slot store at the port. -/
def Tile.performStore (x : Tile) (p : PendStore) : Tile :=
  let x := x.shade p
  match p.st with
  | .write bytes full =>
    let y := bytes.foldl (fun (y : Tile) (o, b) => y.writeSpad o [b]) x
    match full with
    | some l => y.setPoison (64 * l) false
    | none => y
  | .vamo fn c tgt ops =>
    let (y, olds) := ops.foldl (fun (a : Tile × NMap Nat) (l, off, v) =>
      let old := a.1.readNat off 4
      (a.1.writeSpad off (bytesOf 4 (amoNew fn 32 old v.toNat)), a.2.insert l old)) (x, [])
    let data := packLanes ((List.range 16).map fun l => olds.get 0 l)
    let due := match x.freeze with
      | some f => p.resDue - f.since
      | none => p.resDue
    y.modBsq fun b => { b with
      pend := insertRes b.pend { tgt := tgt, data := data, cluster := c, due := due, refDue := p.resRef, order := p.order } }

/-- A slot store that performs now; under profile 4 its due is in ρ, which stands still in a freeze (R40, R247). -/
def Tile.storeDueNow (x : Tile) (now : Nat) (p : PendStore) : Bool :=
  if x.bsq.profile4 then p.due ≤ x.bsq.rho || x.freeze.isSome else p.due ≤ now

/-- The slot stores of this instant perform, in slot and lane order. -/
def execSlotStorePerform (t : Nat) (s : State) : Out' :=
  tileEvent "SLOT_STORE_PERFORM" t s (fun x => x.bsq.stores.any (x.storeDueNow s.now)) fun x =>
    let (now, later) := x.bsq.stores.partition (x.storeDueNow s.now)
    now.foldl Tile.performStore (x.modBsq fun b => { b with stores := later })

end Sys2Proof.Machine
end

