-- ==== Sys2Proof/Machine/Matrix.lean ====
section
/-! DEFINITION. The matrix unit as it runs (R183, R184, R186 to R200): the start of a command, its cycles at the port and
in the array, and its completion with its signal. -/
namespace Sys2Proof.Machine
open Sys2Proof

/-! ## Commands -/

abbrev MCmd.accNo (c : MCmd) : Nat := (sylX c.syl).acc
/-- Occupancy in cycles (R197). -/
def MCmd.total (c : MCmd) : Nat :=
  match c.op with
  | 1 => 8
  | 2 => c.cfg.groups
  | 4 | 5 => (c.cfg.m * c.cfg.pitchP c.elemBytes + 511) / 512
  | 7 => 16
  | _ => 1
def MCmd.started (c : MCmd) : Bool := c.st != .waiting
def MCmd.writesAcc (c : MCmd) : Bool := c.op = opMma || c.op = opAccz || c.op = opAccld || c.op = opAccxp
def MCmd.usesAcc (c : MCmd) : Bool := c.writesAcc || c.op = opAccst || c.op = opAccmv

/-- The wait of a command is satisfied (R183). -/
def Tile.waitMet (x : Tile) (w : WaitSig) : Bool := w.wthr = 0 || w.wthr ≤ x.semSeen w.wsem

/-- A satisfied wait consumes (R183). -/
def Tile.consume (x : Tile) (w : WaitSig) : Tile := if w.wcon then { x.setSem w.wsem (x.semVal w.wsem - w.wthr) with semTaken := (w.wsem, w.wthr) :: x.semTaken } else x

/-- What holds back a command behind the started ones, its wait apart (R189, R196, R197). -/
def MCmd.free (c : MCmd) (before : List MCmd) : Bool :=
  before.all fun b => b.started && (b.sent || b.st = .finished) &&
    !(c.op = opTcfg || c.op = opMsig || b.op = opTcfg) &&
    !(c.usesAcc && b.writesAcc && b.accNo = c.accNo && b.st ≠ .finished && !(c.op = opMma && b.op = opMma))

/-- The first command not started, with those before it. -/
def Matrix.nextCmd (x : Matrix) : Option (List MCmd × MCmd) :=
  match x.queue.dropWhile (·.started) with
  | c :: _ => some (x.queue.takeWhile (·.started), c)
  | [] => none

/-- The matrix command that would start now but for its wait. -/
def Tile.mHead (x : Tile) (now : Nat) : Option MCmd :=
  match x.mat.nextCmd with
  | some (before, c) => if c.issuedAt < now && c.free before && !x.stopped && !x.mat.worked then some c else none
  | none => none

/-- Change the command of a serial. -/
def Matrix.modCmd (x : Matrix) (n : Nat) (f : MCmd → MCmd) : Matrix :=
  { x with queue := x.queue.map fun c => if c.serial = n then f c else c }
def Tile.modMat (x : Tile) (f : Matrix → Matrix) : Tile := { x with mat := f x.mat }

/-! ## MPROG (R28, R200) -/

def MCmd.mprog (c : MCmd) (active : Bool) : Word :=
  BitVec.ofNat 64 ((if active then 2 ^ 63 else 0) + c.accNo * 2 ^ 48 + c.cfg.groups % 2 ^ 16 * 2 ^ 32 + c.rounded)

/-- The oldest MMA that has started and not completed. -/
def Matrix.activeMma (x : Matrix) : Option MCmd := x.queue.find? fun c => c.op = opMma && c.started && c.st ≠ .finished

/-- Let MPROG describe the MMA in flight, if any. -/
def Tile.showMma (x : Tile) : Tile :=
  match x.mat.activeMma with
  | some c => x.modCsr fun r => { r with mprog := c.mprog true }
  | none => x

/-! ## Accumulators -/

def accIdx (n i j : Nat) : Nat := 4096 * n + 64 * i + j
def Matrix.elem (x : Matrix) (n i j : Nat) : Word32 := x.acc.get 0#32 (accIdx n i j)

/-- Set the elements of rows `i < m`, columns `j < k` of acc `n`. -/
def Matrix.setRegion (x : Matrix) (n m k : Nat) (f : Nat → Nat → Word32) : Matrix :=
  { x with acc := (List.range m).foldl (fun a i => (List.range k).foldl (fun a j => a.set 0#32 (accIdx n i j) (f i j)) a) x.acc }

/-! ## The port (R174, R194, R197, R198) -/

def Tile.storeAcc (x : Tile) (s : AccStore) : Tile :=
  let y := s.bytes.foldl (fun (y : Tile) (o, b) => y.writeSpad o [b]) x
  s.full.foldl (fun (y : Tile) l => y.setPoison (64 * l) false) y

/-- Scratchpad as the unit's own later commands read it: with every ACCST byte on its way (R198). -/
def Tile.matView (x : Tile) : Tile := x.mat.stores.foldl Tile.storeAcc x

/-- The lowest poisoned line of some byte runs. -/
def Tile.poisonedLine (x : Tile) (runs : List (Nat × Nat)) : Option Nat :=
  ((runs.flatMap fun r => linesOf r.1 r.2).filter fun l => x.poisoned (64 * l)).foldl (fun m l => match m with
    | some k => some (min k l)
    | none => some l) none

/-- The code at bit `bit` of the row at `base`. -/
def Tile.codeAt (x : Tile) (base bit w : Nat) : Nat := x.readNat (base + bit / 8) 2 / 2 ^ (bit % 8) % 2 ^ w

/-- The value of an operand code of R86 under its scale byte. -/
def operandValue (f scale code : Nat) : FVal :=
  match f with
  | 0 => Fmt.bf16.value code
  | 1 => Fmt.fp16.value code
  | 2 => Fmt.e4m3.value code
  | 3 => Fmt.e5m2.value code
  | 9 => ofInteger (asInt true 8 code)
  | k => mxValue (mxFmt (k - 4)) scale code

/-- Elements `k0` to `k0 + n − 1` of row `r` of rows packed along K. -/
def Tile.rowValues (x : Tile) (f : Nat) (rows scales : Rows) (r k0 n : Nat) : List FVal :=
  (List.range n).map fun k =>
    let e := k0 + k
    let sc := if isMx f then x.readNat (rowAt scales.base scales.pitch r + e / 32) 1 else 0
    operandValue f sc (x.codeAt (rowAt rows.base rows.pitch r) (e * fmtWidth f) (fmtWidth f))

/-- Column `j` of a B held by rows of K (R190, TB = 0). -/
def Tile.colValues (x : Tile) (f : Nat) (rows : Rows) (j k0 n : Nat) : List FVal :=
  (List.range n).map fun k => operandValue f 0 (x.codeAt (rowAt rows.base rows.pitch (k0 + k)) (j * fmtWidth f) (fmtWidth f))

/-- The bytes of bits `b` to `b + n − 1` of a row. -/
abbrev bitRun (base b n : Nat) : Nat × Nat := (base + b / 8, (b + n - 1) / 8 - b / 8 + 1)

/-- The byte runs group `g` of an MMA reads. -/
def MCmd.groupRuns (c : MCmd) (g : Nat) : List (Nat × Nat) :=
  let v := c.cfg
  let k0 := g * v.g
  let n := min v.k (k0 + v.g) - k0
  let along (f : Nat) (r : Rows) : List (Nat × Nat) := r.starts.map fun s => bitRun s (k0 * fmtWidth f) (n * fmtWidth f)
  let scale (r : Rows) : List (Nat × Nat) := r.starts.map fun s => (s + k0 / 32, 1)
  let tb := (sylX c.syl).tb
  let b := v.rowsB tb c.b
  along v.afmt (v.rowsA c.a) ++ scale (v.scalesA c.al) ++
    (if tb then along v.bfmt b ++ scale (v.scalesB c.be)
     else (List.range n).map fun k => bitRun (rowAt b.base b.pitch (k0 + k)) 0 (v.n * fmtWidth v.bfmt))

/-- Group `g` of an MMA with its operands as read now; it rounds 16 cycles on (R191, R314). -/
def Tile.readGroup (x : Tile) (now : Nat) (c : MCmd) (g : Nat) : Group :=
  let v := c.cfg
  let k0 := g * v.g
  let n := min v.k (k0 + v.g) - k0
  let f := sylX c.syl
  { serial := c.serial, due := now + 16, zero := f.zero && g = 0
    a := (List.range v.m).map fun i => x.rowValues v.afmt (v.rowsA c.a) (v.scalesA c.al) i k0 n
    b := (List.range v.n).map fun j =>
      if f.tb then x.rowValues v.bfmt (v.rowsB true c.b) (v.scalesB c.be) j k0 n
      else x.colValues v.bfmt (v.rowsB false c.b) j k0 n }

/-- The exact integer of a value. -/
def FVal.toInteger : FVal → Int
  | .fin n m e => (if n then -(m : Int) else m) * 2 ^ e.toNat
  | _ => 0

/-- One accumulator element after a group (R62). -/
def accumulate (s32 : Bool) (acc : Word32) (xs ys : List FVal) : Word32 :=
  let ps := List.zipWith (fun x y => (fmulExact x y).1) xs ys
  if s32 then BitVec.ofInt 32 (acc.toInt + (ps.map FVal.toInteger).sum) else mmaRound acc ps

/-- Round a group: ZERO first, then every element of the region (R62, R191). -/
def Matrix.roundGroup (x : Matrix) (c : MCmd) (g : Group) : Matrix :=
  let n := c.accNo
  let x := if g.zero then x.setRegion n c.cfg.m c.cfg.n fun _ _ => 0#32 else x
  x.setRegion n c.cfg.m c.cfg.n fun i j => accumulate c.cfg.s32 (x.elem n i j) (g.a.getD i []) (g.b.getD j [])

/-- The bytes of an M × P region that fall in occupancy cycle `k`, as (row, offset in the row, length). -/
def regionChunk (m p rowLen k : Nat) : List (Nat × Nat × Nat) :=
  (List.range m).filterMap fun i =>
    let lo := max (512 * k) (i * p)
    let hi := min (512 * k + 512) (i * p + rowLen)
    if lo < hi then some (i, lo - i * p, hi - lo) else none

/-- The stored value of an accumulator element (R194). -/
def storeValue (f mode : Nat) (s32 : Bool) (x : Word32) : Nat :=
  let v := if s32 then ofInteger x.toInt else Fmt.fp32.value x.toNat
  let cx : RCtx := { mode := (RMode.ofCode mode).getD .rne }
  match f with
  | 0 => x.toNat
  | 1 => (roundTo .bf16 cx v).1
  | 2 => (roundTo .fp16 cx v).1
  | _ => (roundTo .e4m3 cx v).1

/-- The bytes an ACCST writes in occupancy cycle `k`. -/
def Matrix.storeChunk (x : Matrix) (c : MCmd) (k : Nat) : List (Nat × Byte) :=
  let e := c.elemBytes
  let p := c.cfg.pitchP e
  let raw := (sylX c.syl).stepbRaw
  (regionChunk c.cfg.m p (c.cfg.n * e) k).flatMap fun (i, o, n) =>
    ((List.range (n / e)).flatMap fun q => bytesOf e (storeValue (raw % 8) (raw / 8) c.cfg.s32 (x.elem c.accNo i (o / e + q)))).zipIdx.map
      fun (b, q) => ((c.a + i * p + o + q) % 2 ^ 64, b)

/-- The lines that consecutive byte writes fill. -/
def fullLines (bs : List (Nat × Byte)) : List Nat :=
  ((bs.map fun e => lineOfOff e.1).eraseDups).filter fun l => bs.countP (fun e => lineOfOff e.1 = l) = 64
where lineOfOff (o : Nat) : Nat := o / 64

/-! ## The unit's cycle -/

/-- Lines of the port an occupancy cycle takes: 512 bytes of operands or of a region; ACCST's bytes count when they
perform. -/
def MCmd.portCost (c : MCmd) : Nat := if c.op = opMma || c.op = opAccld then 8 else 0

/-- The command whose occupancy runs. A freeze stops the unit at a group boundary (R200, R233); in one for a save or a halt
the commands that have started run out, but for an MMA (R40, R370). One accepted after a strongly ordered access waits for
it (R268). -/
def Tile.occupier (x : Tile) : Option MCmd :=
  match x.mat.queue.find? fun c => c.started && !c.sent && c.st ≠ .finished with
  | some c =>
    if c.st = .stopped || x.matrixHeld || (c.op = opMma && x.frozen) || x.strongSnaps.any fun f => f.m ≤ c.serial then none else some c
  | none => none

/-- The vector slots of the previous cycle leave the unit no port (R197). -/
def Tile.displaced (x : Tile) (c : MCmd) : Bool := (c.op = opMma || c.op = opAccld || c.op = opAccst) && 6 < x.bsq.portPrev

/-- A running matrix command faults (R187). -/
def Tile.faultM (x : Tile) (c : MCmd) (code : Nat) (addr : Nat) (stop : Bool) : Tile :=
  let y := if stop then x.modMat fun m => m.modCmd c.serial fun c => { c with st := .stopped } else x
  { y with faults := y.faults ++
      [{ code := code, slot := 2, bsq := true, cmd := true, eaddr := BitVec.ofNat 64 addr, epc := y.seq.pc, ebaddr := c.baddr
         prog := c.rounded }] }

/-- One occupancy cycle of command `c`, whether or not it ends it. -/
def Tile.occupy (x : Tile) (now : Nat) (c : MCmd) : Tile :=
  let last := c.occ + 1 = c.total
  let step (d : MCmd) : MCmd := { d with occ := d.occ + 1, sent := last, waitFrom := none }
  if c.op = opMma then
    let v := x.matView
    match v.poisonedLine (c.groupRuns c.occ) with
    | some l => x.faultM c poisonF (64 * l) true
    | none => x.modMat fun m => { m.modCmd c.serial step with groups := m.groups ++ [v.readGroup now c c.occ] }
  else if c.op = opAccld then
    let v := x.matView
    let p := c.cfg.pitchP 4
    let runs := (regionChunk c.cfg.m p (c.cfg.n * 4) c.occ).map fun (i, o, n) => (c.a + i * p + o, n)
    match v.poisonedLine runs with
    | some l => x.faultM { c with rounded := 0 } poisonF (64 * l) true |>.modMat fun m =>
        m.modCmd c.serial fun d => { d with occ := 0, hold := [] }
    | none => x.modMat fun m => m.modCmd c.serial fun d =>
        { step d with
          hold := d.hold ++ runs.flatMap fun r => v.bytes r.1 r.2
          completeAt := if last then some (now + 7) else none }
  else if c.op = opAccst then
    let bs := x.mat.storeChunk c c.occ
    x.modMat fun m => { m.modCmd c.serial fun d => { step d with completeAt := if last then some (now + 5) else none } with
      stores := m.stores ++ [{ due := now + 5, bytes := bs, full := fullLines bs }] }
  else x.modMat fun m => m.modCmd c.serial step

/-- Round the oldest group in the array (R200, R314). -/
def Tile.roundNow (x : Tile) (now : Nat) : Tile :=
  match x.mat.groups with
  | [] => x
  | g :: rest =>
    match x.mat.queue.find? (·.serial = g.serial) with
    | none => x.modMat fun m => { m with groups := rest }
    | some c =>
      let last := c.sent && !rest.any (·.serial = g.serial)
      let y := x.modMat fun m =>
        { (m.roundGroup c g).modCmd c.serial fun d =>
            { d with rounded := d.rounded + 1, completeAt := if last then some (now + 1) else none } with
          groups := rest, undo := some (g, m.acc, x.seq.csr.mprog) }
      y.showMma

/-- What the unit has to do in this cycle. -/
inductive MWork where
  | store
  | round
  | occupy (c : MCmd)
  | none

def Tile.mWork (x : Tile) (now : Nat) : MWork :=
  if x.mat.stores.any (·.due ≤ now) then .store
  else if !x.frozen && (x.mat.groups.take 1).any (·.due ≤ now) && x.mat.undo.isNone then .round
  else match x.occupier with
    | some c => if (if x.saving then x.mat.ranOut else x.mat.worked) || x.displaced c then .none else .occupy c
    | none => .none

/-- The matrix unit's work of a cycle, in the order of the port: ACCST bytes that perform, the group that rounds, and the
occupancy of the running command: an MMA's next group, or the reads and writes of ACCLD and ACCST (R190 to R200, R314). -/
def execMmaGroupRound (t : Nat) (s : State) : Out' :=
  tileEvent "MMA_GROUP_ROUND" t s (fun x => match x.mWork s.now with | .none => false | _ => true) fun x =>
    match x.mWork s.now with
    | .store =>
      let (due, later) := x.mat.stores.partition (·.due ≤ s.now)
      due.foldl Tile.storeAcc (x.modMat fun m => { m with stores := later, lines := m.lines + 8 })
    | .round => x.roundNow s.now
    | .occupy c => (x.modMat fun m => { m with worked := m.worked || !x.saving, ranOut := x.saving, lines := m.lines + c.portCost }).occupy s.now c
    | .none => x

/-! ## Start and completion -/

/-- Start command `c` in cycle `now` (R183, R197): forms without port work have their completion cycle from here. -/
def Tile.startM (x : Tile) (now wall : Nat) (c : MCmd) : Tile :=
  let done : Option Nat :=
    match c.op with
    | 1 => some (now + 8)
    | 3 | 6 => some (now + 4)
    | 7 => some (now + 20)
    | 8 => some now
    | _ => none
  let row := if c.op = opAccmv then (List.range 64).map fun j => x.mat.elem c.accNo c.a j else []
  let y := (x.consume c.wait).modMat fun m => { m.modCmd c.serial fun d =>
    { d with st := .running now, waitFrom := some wall, completeAt := done, row := row, sent := c.op = opMsig } with
      worked := m.worked || c.op = opMsig }
  if c.op = opMma then y.showMma else y

/-- A local increment of a command, or its SEMOVF (R184). -/
def Tile.signalLocal (x : Tile) (w : WaitSig) (f : PendFault) : Tile :=
  if w.stgt % 2 = 1 then
    match x.semAdd w.ssem (w.sinc + 1) with
    | some y => y
    | none => { x with faults := x.faults ++ [f] }
  else x

/-- Signals in queue order (R184): a finished command leaves the queue, with its signal where it has one, once no earlier
signal is still to come; `held` says that one is. -/
def Tile.signalM (x : Tile) (held : Bool) : List MCmd → Tile
  | [] => x
  | c :: rest =>
    if c.st = .finished ∧ (c.wait.stgt = 0 ∨ !held) then
      let f : PendFault := { code := semOvf, slot := 2, bsq := true, cmd := true, epc := x.seq.pc, ebaddr := c.baddr, prog := c.rounded }
      Tile.signalM ((x.modMat fun m => { m with queue := m.queue.filter (·.serial ≠ c.serial) }).signalLocal c.wait f) held rest
    else Tile.signalM x (held || c.wait.stgt ≠ 0) rest

/-- The effects of a completing command (R184, R189, R193 to R195); ACCMV's registers were written with the results. -/
def Tile.effectM (x : Tile) (c : MCmd) : Tile :=
  let y := x.modMat fun m => m.modCmd c.serial fun d => { d with st := .finished }
  match c.op with
  | 1 => (y.modMat fun m => { m with latched := c.cfg, acc := [] }).modCsr fun r => { r with mprog := 0#64 }
  | 2 => (y.modCsr fun r => { r with mprog := c.mprog false }).showMma
  | 3 => y.modMat fun m => { m with acc := m.acc.filter fun e => e.1 / 4096 ≠ c.accNo }
  | 4 =>
    let at_ (i j : Nat) : Word32 := BitVec.ofNat 32 (natOf ((c.hold.drop (4 * (i * c.cfg.n + j))).take 4))
    y.modMat fun m => m.setRegion c.accNo c.cfg.m c.cfg.n at_
  | 7 => y.modMat fun m => m.setRegion c.accNo 64 64 fun i j => m.elem c.accNo j i
  | _ => y

/-- The next command to complete. -/
def Tile.mDone (x : Tile) (now : Nat) : Option MCmd :=
  if x.matrixHeld then none
  else x.mat.queue.find? fun c => (match c.st with | .running _ => true | _ => false) && c.completeAt.any (· ≤ now) && c.row.isEmpty

/-- Complete the next command and apply the signals that may follow. -/
def Tile.completeM (x : Tile) (c : MCmd) : Tile :=
  let y := x.effectM c
  y.signalM false y.mat.queue

end Sys2Proof.Machine
end

