-- ==== Sys2Proof/Machine/System.lean ====
section
/-! DEFINITION. Constant-bank writes, stream binding and the system and privileged forms (R127 to R138). -/
namespace Sys2Proof.Machine
open Sys2Proof

/-! ## Quiescence (R36, R236) -/

/-- A bundle issues in this cycle. -/
def Tile.issuesNow (x : Tile) (t now : Nat) : Bool :=
  x.bsq.issuedNow || (x.bsqLive && x.bsq.skip.isNone && x.faults.isEmpty && match x.plan t now with
    | .go _ => true
    | _ => false)

/-- A result of an earlier issue that a VAMO has not yet produced. -/
def PendStore.vamo (p : PendStore) : Bool :=
  match p.st with
  | .vamo _ _ _ _ => true
  | .write _ _ => false

/-- The BSQ is quiescent in cycle `now`; a frozen one satisfies the waits of R36. -/
def Tile.quiescent (x : Tile) (t now : Nat) : Bool :=
  x.frozen || (x.bsq.pend.isEmpty && x.bsq.resNow.isEmpty && !x.bsq.stores.any (·.vamo) && !x.issuesNow t now)

/-- The same for a sequencer; a keeper sequencer has no BSQ. -/
def State.quiet (s : State) (q : SeqId) : Bool :=
  match q with
  | .tile t => (s.tile t).quiescent t s.now
  | .keeper _ => true

/-! ## CBW and STRM -/

/-- CBW (R127, R237): performs in the next cycle. -/
def execCbw (a : BitVec 6) (w : BitVec 12) (s : State) : Out' :=
  issueCtl s [a] false true true fun q =>
    match s.cur with
    | .keeper _ => .refused (.keeperLacks "CBW")
    | .tile t =>
      (s.modTile t fun x => { x with constPend := x.constPend ++ [(s.now + 1, w.toNat, (q.gr a).setWidth 32)] }).retireWith id

/-- The port a descriptor image gives (R88); none where it breaks a limit. -/
def Tile.descriptor (x : Tile) (a : Nat) (write : Bool) : Option Port :=
  let w (i : Nat) : Nat := (x.constWord (a + i)).toNat
  let base := w 0 + w 1 * 2 ^ 32
  let str (i : Nat) : Int := asInt true 32 (w (6 + i))
  let ok := base < 2 ^ 21 && ((List.range 6).all fun i => w (10 + i) = 0) && (List.range 4).all fun i => str i % 64 = 0
  if ok then
    some { bound := true, write := write, base := base
           cnt := { d0 := w 2, d1 := w 3, d2 := w 4, d3 := w 5 }, str := { d0 := str 0, d1 := str 1, d2 := str 2, d3 := str 3 } }
  else none

/-- The lowest and the highest offset of a pattern's elements; none where it has no element. -/
def Port.span (p : Port) : Option (Int × Int) :=
  if p.total = 0 then none
  else
    let ends := [(p.cnt.d0, p.str.d0), (p.cnt.d1, p.str.d1), (p.cnt.d2, p.str.d2), (p.cnt.d3, p.str.d3)].map fun e => (e.1 - 1) * e.2
    some ((p.base : Int) + (ends.map (min 0 ·)).sum, (p.base : Int) + (ends.map (max 0 ·)).sum)

/-- An element of the pattern outside 0 to LSPEXT − 64. -/
def Port.outside (p : Port) (live : Nat) : Option Word :=
  match p.span with
  | none => none
  | some (lo, hi) =>
    if lo < 0 then some (BitVec.ofInt 64 lo)
    else if (live : Int) < hi + 64 then some (BitVec.ofInt 64 hi)
    else none

/-- The waits of STRM: the CQ empty, the BSQ quiescent, and a bound write port written out. -/
def Tile.strmReady (x : Tile) (t p now : Nat) : Bool :=
  let y := x.port p
  x.bsq.cq.isEmpty && x.quiescent t now && !(y.bound && y.write && !(y.buf.isEmpty && y.resv = 0))

/-- The bank as a later STRM of the CSQ reads it: with every CBW it has issued (R127). -/
def Tile.constView (x : Tile) : Tile :=
  { x with const := x.constPend.foldl (fun (m : NMap Word32) e => m.set 0#32 e.2.1 e.2.2) x.const }

/-- What a STRM makes of its port, or its fault (R128): unbound, or bound by the image at `a`. -/
def Tile.strmPort (x : Tile) (dir : Nat) (a : Word) : Except (Nat × Word) Port :=
  if dir = 0 then .ok {}
  else if 4080 < a.toNat ∨ a.toNat % 16 ≠ 0 then .error (illegalEnc, 0#64)
  else match x.constView.descriptor a.toNat (dir = 3) with
    | none => .error (illegalEnc, 0#64)
    | some y =>
      match y.outside x.live with
      | some e => .error (spadBounds, e)
      | none => .ok y

/-- STRM (R128): once its wait ends it takes 4 cycles. Its faults are found where it issues, at the end of the wait; a
faulting STRM leaves the port as it was (R98). -/
def execStrm (a : BitVec 6) (d : BitVec 2) (p : BitVec 6) (s : State) : Out' :=
  issueCtl s (if d = 0 then [] else [a]) false (d != 2) true fun q =>
    match s.cur with
    | .keeper _ => .refused (.keeperLacks "STRM")
    | .tile t =>
      match q.strmUntil with
      | none =>
        if (s.tile t).strmReady t p.toNat s.now then
          match (s.tile t).strmPort d.toNat (q.gr a) with
          | .error (code, e) => .next (s.raise code e)
          | .ok _ => .next (s.modSeq s.cur fun q => { q with strmUntil := some (s.now + 3), waitFrom := none })
        else .next s.waitCsq
      | some c =>
        if s.now < c then .next s
        else match (s.tile t).strmPort d.toNat (q.gr a) with
          | .error (code, e) => .next (s.raise code e)
          | .ok y =>
            (s.modTile t fun x => x.setPort p.toNat { y with fetchFrom := s.now + 1 }).retireWith fun q => { q with strmUntil := none }

/-! ## TRAP, ERET, RDTIME, WFE -/

/-- TRAP (R130): a gate; the fault TRAP with EPC the next word. -/
def execTrap (c : BitVec 13) (s : State) : Out' :=
  issueCtl s [] true true true fun q => .next (s.csqFault s.cur trapF (zext c) (q.pc + 1))

/-- ERET (R131, R235): PERM in U; an EPC above 16 383, which a TRAP at the last word leaves, and an ESTATUS of 2 or 3 raise
ILLEGAL_ENC. -/
def execEret (s : State) : Out' :=
  let q := s.seq s.cur
  issueCtl s [] false true (q.mode != 0#2) fun q =>
    if q.csr.epcPast ∨ q.csr.estatus = 2#2 ∨ q.csr.estatus = 3#2 then .next (s.raise illegalEnc 0#64)
    else match s.cur with
      | .tile t => .next (s.modTile t fun x => x.leaveHandler s.now)
      | .keeper _ =>
        .next (s.modSeq s.cur fun q => { q.goTo s.now q.csr.epc.toNat 3 with csr := { q.csr with mode := q.csr.estatus } })

/-- RDTIME (R133). -/
def execRdtime (d : BitVec 6) (s : State) : Out' := issueValue s [] d 4 true fun _ => BitVec.ofNat 64 s.tick

/-- WFE (R134): returns, clearing the latch, once the latch is set. -/
def execWfe (s : State) : Out' :=
  issueCtl s [] false true true fun _ =>
    match s.cur with
    | .keeper _ => .refused (.keeperLacks "WFE")
    | .tile t => if (s.tile t).latch then (s.modTile t fun x => { x with latch := false }).retireWith id else .next s.waitCsq

/-! ## Control registers (R35) -/

/-- What a mode may do with a register: read in U, write in U, read in S, write in S. -/
structure CsrRights where
  ur : Bool
  uw : Bool
  sr : Bool
  sw : Bool
  deriving DecidableEq, Repr

/-- The rights of R35; none for a number not listed. -/
def csrRights (n : Nat) : Option CsrRights :=
  let r : CsrRights := ⟨true, false, true, false⟩
  let sOnly : CsrRights := ⟨false, false, true, true⟩
  if 0x008 ≤ n ∧ n ≤ 0x00F then some ⟨true, false, true, true⟩
  else if 0x040 ≤ n ∧ n ≤ 0x04F then some ⟨true, true, true, true⟩
  else if 0x400 ≤ n ∧ n ≤ 0x7FF then some sOnly
  else match n with
    | 0x000 | 0x001 | 0x002 | 0x003 => some r
    | 0x004 => some ⟨false, false, true, false⟩
    | 0x010 | 0x011 | 0x012 | 0x013 | 0x014 | 0x015 => some sOnly
    | 0x020 | 0x021 | 0x022 | 0x023 | 0x024 | 0x025 => some sOnly
    | 0x026 => some ⟨false, false, true, false⟩
    | 0x030 | 0x031 | 0x032 => some r
    | 0x050 => some ⟨true, false, true, true⟩
    | 0x051 => some r
    | 0x052 => some ⟨true, false, true, true⟩
    | 0x053 => some sOnly
    | 0x054 => some r
    | _ => none

/-- The value of a register, zero-extended. -/
def Csr.read (c : Csr) (n : Nat) : Word :=
  if 0x008 ≤ n ∧ n ≤ 0x00F then c.args.get 0#64 (n - 8)
  else if 0x040 ≤ n ∧ n ≤ 0x047 then zext (c.fflags.get 0#5 (n - 0x040))
  else if 0x048 ≤ n ∧ n ≤ 0x04F then c.sr (n - 0x048)
  else if 0x400 ≤ n ∧ n ≤ 0x7FF then zext (c.ltte.get 0#16 (n - 0x400))
  else match n with
    | 0x000 => zext c.ltile
    | 0x001 => zext c.teamsz
    | 0x002 => zext c.unitidx
    | 0x003 => zext c.mode
    | 0x010 => zext c.evec
    | 0x011 => zext c.epc
    | 0x012 => zext c.ebaddr
    | 0x013 => zext c.ecause
    | 0x014 => c.eaddr
    | 0x015 => zext c.estatus
    | 0x020 => c.ctx.hwbase
    | 0x021 => c.ctx.hwlimit
    | 0x022 => c.ctx.hwoffset
    | 0x023 => zext c.ctx.hwkey
    | 0x024 => zext c.ctx.asid
    | 0x025 => c.ctx.ptroot
    | 0x026 => zext c.ctx.world
    | 0x030 => c.cycle
    | 0x031 => c.bndret
    | 0x032 => c.stalls
    | 0x050 => c.mprog
    | 0x052 => zext c.lspext
    | 0x053 => zext c.wdlimit
    | 0x054 => c.lseed
    | _ => 0#64

/-- Write a register whose write R35 permits; reserved bits stay zero (R14). -/
def Csr.write (c : Csr) (n : Nat) (v : Word) : Csr :=
  if 0x008 ≤ n ∧ n ≤ 0x00F then { c with args := c.args.set 0#64 (n - 8) v }
  else if 0x040 ≤ n ∧ n ≤ 0x047 then { c with fflags := c.fflags.set 0#5 (n - 0x040) (v.setWidth 5) }
  else if 0x048 ≤ n ∧ n ≤ 0x04F then { c with srstate := c.srstate.set 0#64 (n - 0x048) (srFix v) }
  else if 0x400 ≤ n ∧ n ≤ 0x7FF then { c with ltte := c.ltte.set 0#16 (n - 0x400) (v.setWidth 16 &&& 0x83FF#16) }
  else match n with
    | 0x010 => { c with evec := v.setWidth 14 }
    | 0x011 => { c with epc := v.setWidth 14, epcPast := false }
    | 0x012 => { c with ebaddr := v.setWidth 20 }
    | 0x013 => { c with ecause := v.setWidth 16 &&& 0x3FFF#16 }
    | 0x014 => { c with eaddr := v }
    | 0x015 => { c with estatus := v.setWidth 2 }
    | 0x020 => { c with ctx := { c.ctx with hwbase := v } }
    | 0x021 => { c with ctx := { c.ctx with hwlimit := v } }
    | 0x022 => { c with ctx := { c.ctx with hwoffset := v } }
    | 0x023 => { c with ctx := { c.ctx with hwkey := v.setWidth 8 } }
    | 0x024 => { c with ctx := { c.ctx with asid := v.setWidth 16 } }
    | 0x025 => { c with ctx := { c.ctx with ptroot := v } }
    | 0x050 => { c with mprog := v &&& 0x8003FFFFFFFFFFFF#64 }
    | 0x052 => { c with lspext := v.setWidth 22 }
    | 0x053 => { c with wdlimit := v.setWidth 32 }
    | _ => c

/-- The registers whose accesses wait for a quiescent BSQ (R36). -/
def csrWaits (n : Nat) : Bool := (0x040 ≤ n && n ≤ 0x050)

/-- The value a sequencer reads: PTILE and CQCNT are its tile's. -/
def State.csrValue (s : State) (q : SeqId) (n : Nat) : Word :=
  match n, q with
  | 0x004, .tile t => BitVec.ofNat 64 t
  | 0x051, .tile t => BitVec.ofNat 64 (s.tile t).bsq.cq.length
  | _, _ => (s.seq q).csr.read n

/-- CSRR (R132): ILLEGAL_ENC for an unlisted number, PERM where the mode may not read it. -/
def execCsrr (d : BitVec 6) (c : BitVec 12) (s : State) : Out' :=
  let n := c.toNat
  let u := (s.seq s.cur).mode = 0#2
  let may := match csrRights n with
    | some r => if u then r.ur else r.sr
    | none => true
  issueCtl s [d] false (csrRights n).isSome may fun _ =>
    if csrWaits n && !s.quiet s.cur then .next s.waitCsq
    else s.retireWith fun q => q.setG d (s.csrValue s.cur n) (s.now + 1)

/-- Commands in C0 and C1 whose context differs from the tile's, by distinct context (R326). -/
def Tile.otherContexts (x : Tile) : Nat :=
  (((x.c0.cmds ++ x.c1.cmds).map (·.ctx)).filter (· ≠ x.seq.csr.ctx)).eraseDups.length

/-- A lower LSPEXT would cut a bound stream's pattern or a matrix command's bytes (R33). -/
def Tile.cutsUse (x : Tile) (lim : Nat) : Bool :=
  (x.ports.any fun e => e.2.bound && match e.2.span with
    | some (_, hi) => (lim : Int) < hi + 64
    | none => false) ||
  x.mat.queue.any fun c => c.rows.any (·.reaches lim)

/-- The check of R33 on a new LSPEXT. -/
def lspextOk (s : State) (v : Word) : Bool :=
  v.toNat % 64 = 0 && v.toNat ≤ 0x200000 &&
  match s.cur with
  | .tile t => (s.tile t).live ≤ v.toNat || !(s.tile t).cutsUse v.toNat
  | .keeper _ => true

/-- CSRW (R33, R36, R37, R132, R326). -/
def execCsrw (a : BitVec 6) (c : BitVec 12) (s : State) : Out' :=
  let n := c.toNat
  let u := (s.seq s.cur).mode = 0#2
  let may := match csrRights n with
    | some r => if u then r.uw else r.sw
    | none => true
  issueCtl s [a] false (csrRights n).isSome may fun q =>
    let full := 0x020 ≤ n && n ≤ 0x025 && match s.cur with
      | .tile t => 4 < (s.tile t).otherContexts
      | .keeper _ => false
    if (csrWaits n || n = 0x052) && !s.quiet s.cur || full then .next s.waitCsq
    else if n = 0x052 && !lspextOk s (q.gr a) then .next (s.raise illegalEnc 0#64)
    else s.retireWith fun q => { q with csr := q.csr.write n (q.gr a) }

/-! ## Privileged forms (R135 to R138) -/

/-- The mode may run TLBKILL and TLBSYNC: S, on a keeper sequencer or a tile. -/
def Seq.privileged (q : Seq) : Bool := q.mode != 0#2

/-- Post a kill of an ASID of a world on `dies` (R136). -/
def State.startKill (s : State) (by_ : Option SeqId) (asid world : Nat) (dies : List Nat) (mig : Option Nat) : State :=
  let (id, s) := s.newId
  let k : Kill := { id := id, by_ := by_, asid := asid, world := world, dies := dies, mig := mig }
  State.postFree { s with kills := s.kills ++ [k] } (.tlbkillComplete id)

/-- TLBKILL (R136): retires at once. -/
def execTlbkill (a : BitVec 6) (r : BitVec 1) (s : State) : Out' :=
  issueCtl s [a] false true (s.seq s.cur).privileged fun q =>
    let n := (q.gr a).toNat
    let dies := if r = 1 then List.range Config.dies else [seqDie s.cur]
    (s.startKill (some s.cur) (n % 4096) (bitsOf 23 16 n) dies none).retireWith id

/-- The translations a kill removes. -/
def Kill.hits (k : Kill) (world asid : Nat) : Bool := k.world = world && k.asid = asid

/-- The VD an engine copies for; 0 for none. -/
def Bulk.ofVd (b : Bulk) : Nat := ((b.pkt.map (·.vd)).or (b.chan.map Prod.fst)).getD 0

/-- An access issued before the kill's removal, translated by what it removed, has not performed; a combined store has not
before its flush point (R268; log 111). -/
def State.usesKilled (s : State) (k : Kill) : Bool :=
  let at_ := k.doneAt.getD s.now
  let acc (a : Acc) : Bool := a.open_ && a.issuedAt ≤ at_ && a.parts.any (·.tgt.isSome) && k.hits a.ctx.world.toNat a.ctx.asidNo
  let line (cmds : List CCmd) (l : CLine) : Bool := l.reqAt ≤ at_ &&
    cmds.any fun c => c.serial = l.cmd && k.hits c.ctx.world.toNat c.ctx.asidNo
  let wc (l : WcLine) : Bool := l.src.since ≤ at_ && k.hits l.world l.asid
  (s.tiles.any fun e => k.dies.contains (dieOf e.1) &&
    (e.2.seq.accs.any acc || e.2.c0.lines.any (line e.2.c0.cmds) || e.2.c1.lines.any (line e.2.c1.cmds) || e.2.wbuf.any wc)) ||
  (s.bulks.any fun e => k.dies.contains (e.1 / 8) && e.2.asked && e.2.askedAt ≤ at_ && match s.vd? e.2.ofVd with
    | some v => k.hits v.world v.ctx.asidNo
    | none => false) ||
  s.keepers.any fun e => k.dies.contains (e.1 / 2) && e.2.accs.any acc

/-- A kill has completed throughout its reach and every access it concerns has performed (R137). -/
def State.killSettled (s : State) (k : Kill) : Bool := k.doneAt.isSome && !s.usesKilled k

/-- TLBSYNC (R137). -/
def execTlbsync (s : State) : Out' :=
  issueCtl s [] false true (s.seq s.cur).privileged fun _ =>
    if s.kills.all fun k => k.by_ ≠ some s.cur || s.killSettled k then
      State.retireWith { s with kills := s.kills.filter fun k => k.by_ ≠ some s.cur } id
    else .next s.waitCsq

/-- A kill's removal completes (R136, R353): micro-TLBs, die TLBs and walk caches of its dies, a walk under way starting
again at its root; page requests of the context that are out are dead (R354). -/
def execTlbkillComplete (id : Nat) (s : State) : Out' :=
  match s.kills.find? fun k => k.id = id && k.doneAt.isNone with
  | none => .refused (.notEnabled "TLBKILL_COMPLETE")
  | some k =>
    let keep (e : TlbEnt) : Bool := !k.hits e.world e.asid
    let s := s.modTiles (fun t => k.dies.contains (dieOf t)) fun x => { x with utlb := x.utlb.filter keep }
    let s := s.modDies k.dies.contains fun d =>
      { d with
        tlb := d.tlb.filter keep, wcache := d.wcache.filter fun w => !k.hits w.world w.asid
        walks := d.walks.map fun w =>
          if k.hits w.ctx.world.toNat w.ctx.asidNo then { w with level := 1, table := w.ctx.root.getD 0 } else w }
    .next { s with
      kills := s.kills.map fun (x : Kill) => if x.id = id then { x with doneAt := some s.now } else x
      hostReqs := s.hostReqs.map fun (r : HostReq) =>
        if k.dies.contains r.die && k.hits r.ctx.world.toNat r.ctx.asidNo then { r with dead := true } else r }

/-- Send a halt broadcast from a sequencer's die (R138). -/
def State.haltTeam (s : State) (from_ : SeqId) (team : Nat) : State :=
  match s.team? team with
  | none => s
  | some l =>
    if team = 0 then s
    else (l.tiles.filter fun t => from_ ≠ .tile t).foldl (fun s t =>
      s.postIn (10 + 8 * dieEdges (seqDie from_) (dieOf t)) (.haltBroadcastArrival t team)) s

/-- HALTB (R135, R138): a tile CSQ may halt only its own team. -/
def execHaltb (a : BitVec 6) (s : State) : Out' :=
  let q := s.seq s.cur
  let team := (q.gr a).toNat % 2 ^ 16
  let own := match s.cur with
    | .tile t => (s.tile t).team = team
    | .keeper _ => true
  issueCtl s [a] false true (q.privileged && own) fun _ => (s.haltTeam s.cur team).retireWith id

/-- A halt broadcast arrives (R138, R370): the CSQ stops at an instruction boundary and the BSQ freezes. A tile already
stopped for the keeper stays so; one in its handler stops for the keeper too. -/
def execHaltBroadcastArrival (t team : Nat) (s : State) : Out' :=
  if Config.tiles ≤ t then .fault (.noSuchUnit "HALT_BROADCAST_ARRIVAL" t)
  else
    let x := s.tile t
    if x.team ≠ team ∨ x.use = .free ∨ x.use = .draining then .refused (.notEnabled "HALT_BROADCAST_ARRIVAL")
    else .next (s.setTile t
      (let y := x.freezeAt s.now s.wall (if (s.team? team).any fun l => l.st = .saving then .save else .keeper)
       { y with seq := { y.seq with fence := none, strmUntil := none } }))

end Sys2Proof.Machine
end

