-- ==== Sys2Proof/Machine/Streams.lean ====
section
/-! DEFINITION. The stream unit (R25, R228, R229): fetching the elements of read ports, and writing those of write
ports. -/
namespace Sys2Proof.Machine
open Sys2Proof

/-- Elements of a read port fetched and not yet popped. -/
def Port.ahead (p : Port) : Nat := p.buf.countP (!·.popped)

/-- A port the stream unit may fetch (R228). -/
def Port.mayFetch (p : Port) (now : Nat) : Bool :=
  p.bound && !p.write && p.fetchFrom ≤ now && p.ahead < 8 && p.buf.length < 16 && (p.next : Int) < p.total

/-- Fetches the port allows in a cycle: two, less what the vector slots and the matrix unit displace (R143, R197). -/
def Tile.fetchBudget (x : Tile) : Nat := min 2 (16 - x.bsq.portLines - x.mat.lines)

/-- The port to serve next: round-robin after the one served last (R228). That one port takes at most one of a cycle's two
fetches is a DESIGN CHOICE (log 134). -/
def Tile.nextFetch (x : Tile) (now : Nat) : Option Nat :=
  if x.frozen || x.use != .running || !x.strongSnaps.isEmpty || x.fetchBudget ≤ x.fetched.length then none
  else ((List.range 64).map fun i => (x.rrPort + 1 + i) % 64).find? fun p => (x.port p).mayFetch now && !x.fetched.contains p

/-- Fetch the next element of port `p`: its line whole, with its poison bit; poppable 8 cycles on (R228). -/
def execStreamFetch (t p : Nat) (s : State) : Out' :=
  tileEvent "STREAM_FETCH" t s (fun x => x.nextFetch s.now = some p) fun x =>
    let q := x.port p
    let off := q.elemOff q.next
    let e : Elem := { off := off, data := BitVec.ofNat 512 (x.readNat off 64), poison := x.poisoned off, readyAt := s.now + 8 }
    { x.setPort p { q with buf := q.buf ++ [e], next := q.next + 1 } with
      rrPort := p, fetched := x.fetched ++ [p] }

/-- The first element of a list that `p` selects becomes ready. -/
def markReady (p : Elem → Bool) : List Elem → List Elem
  | [] => []
  | e :: l => if p e then { e with ready := true } :: l else e :: markReady p l

/-- Whether the element's 8 cycles are over. -/
def Elem.arrives (e : Elem) (now : Nat) : Bool := !e.ready && e.readyAt ≤ now

/-- A fetched element becomes poppable (R228). -/
def execStreamElementReady (t p : Nat) (s : State) : Out' :=
  tileEvent "STREAM_ELEMENT_READY" t s
    (fun x => (x.port p).bound && !(x.port p).write && (x.port p).buf.any (·.arrives s.now))
    fun x => x.setPort p { x.port p with buf := markReady (·.arrives s.now) (x.port p).buf }

/-- Write the lanes of an element: a line written in full loses its poison bit (R174). -/
def Tile.writeElem (x : Tile) (e : Elem) : Tile :=
  let y := (List.range 16).foldl (fun (y : Tile) l =>
    if e.lanes.getLsbD l then y.writeSpad (e.off + 4 * l) (bytesOf 4 (laneOf e.data l)) else y) x
  if e.lanes = 0xFFFF#16 then y.setPoison e.off false else y

/-- A pushed element is written to scratchpad 2 cycles after its push, and its place is freed (R229). -/
def execStreamElementWrite (t p : Nat) (s : State) : Out' :=
  tileEvent "STREAM_ELEMENT_WRITE" t s
    (fun x => (x.port p).bound && (x.port p).write && ((x.port p).buf.take 1).any (fun e => e.readyAt ≤ s.now && x.strongSnaps.all fun f => e.order < f.order))
    fun x =>
      let q := x.port p
      match q.buf with
      | e :: l => (x.writeElem e).setPort p { q with buf := l }
      | [] => x

end Sys2Proof.Machine
end

