-- ==== Sys2Proof/Machine/CopyRequest.lean ====
section
/-! DEFINITION. The line requests of the copy queues (R202, R206 to R208, R211, R217, R268, R387): the next elements of
the running command, their checks and translation, and the request that leaves. -/
namespace Sys2Proof.Machine
open Sys2Proof

/-! ## Forms -/

/-- Forms whose elements go one at a time (R208). -/
def CCmd.oneByOne (c : CCmd) : Bool := c.op = opCpyr || c.op = opCamo || c.op = opCcas
/-- Forms that return an old value. -/
def CCmd.atomic (c : CCmd) : Bool := c.op = opCamo || c.op = opCcas

/-! ## Addresses and pages -/

/-- What an address resolves to. -/
inductive Side where
  | ok (t : Target) (a : PageAttr) (add : Nat)
  | fault (code add : Nat)
  | miss
  deriving DecidableEq, Repr

/-- Resolve an address of a copy command: R31, then translation and the checks of R346. The keeper block is no tile's
(R311). -/
def State.resolve (s : State) (t : Nat) (c : CCmd) (addr : Word) (n : Nat) (needs : List Need) : State × Side :=
  match checkAddr s t addr n with
  | .error code => (s, .fault code 0)
  | .ok (.slice v off) => (s, .ok (.spad v off) {} 0)
  | .ok (.dva x) =>
    if Config.keeperBlock ≤ x ∧ x < Config.keeperBlock + 2 ^ 16 then (s, .fault perm 0)
    else
      let check (tgt : Target) (a : PageAttr) : Option Nat :=
        needs.findSome? fun n => s.pageCheck (tileAgent t) c.ctx.world.toNat tgt a n
      match s.lookup false (tileAgent t) c.ctx x fun tgt a => (check tgt a).isNone with
      | (s, .miss) => (s, .miss)
      | (s, .fault code add) => (s, .fault code add)
      | (s, .ok tgt a add) =>
        match check tgt a with
        | some code => (s, .fault code add)
        | none => (s, .ok tgt a add)

/-- What the strongly ordered element of `c` that is due now comes after: all that the tile has accepted, but for its own
queue from itself on. -/
def Tile.strongSnap (x : Tile) (u : CmdUnit) (now : Nat) (c : CCmd) : FenceSnap :=
  let f := x.snapshot now
  match u with
  | .c1 => { f with c1 := c.serial }
  | _ => { f with c0 := c.serial }

/-- Wait for the translation of an address before the next request: the queue sends nothing beyond it (R349); an access that
will be strongly ordered holds back what is accepted after it from now on (R268). -/
def State.awaitPage (s : State) (t : Nat) (u : CmdUnit) (c : CCmd) (addr : Word) (needs : List Need) : State :=
  let strong := s.typeOf (dieOf t) c.ctx addr.toNat = 3
  let f := (s.tile t).strongSnap u s.now c
  (s.modCq t u fun q => q.modCmd c.serial fun c => { c with
    blocked := true
    strong := if strong then some (c.strong.getD f) else c.strong }).startWalk (dieOf t) c.ctx addr.toNat
    (.index t u c.serial addr.toNat needs)

/-- What a piece of a request comes to. -/
inductive Got (α : Type) where
  | ok (v : α)
  | fault (code : Nat) (addr : Word) (add : Nat)
  | wait                       -- the request waits; the state may hold what it waits for

def Piece.ordered (p : Piece) : Bool := p.srcA.ordered || p.dstA.ordered

/-- No device or strongly ordered access of the tile is outstanding (R268). -/
def Tile.orderedIdle (x : Tile) : Bool :=
  x.seq.accs.all (fun a => !(a.open_ && a.ordered)) && ((x.c0.lines ++ x.c1.lines).all fun l => l.pieces.all (!·.ordered)) &&
  (x.c0.cmds ++ x.c1.cmds).all fun c => !(c.idxOut && c.idxOrd)

/-- Whether an access of `c` to a device page, or a strongly ordered one, may be sent now; a strongly ordered one that may not
holds back what is accepted after it (R268). -/
def State.orderedGo (s : State) (t : Nat) (u : CmdUnit) (c : CCmd) (strong : Bool) : State × Bool :=
  if strong then
    let snap := c.strong.getD ((s.tile t).strongSnap u s.now c)
    let s := s.modCq t u fun q => q.modCmd c.serial fun c => { c with strong := some snap }
    (s, (s.tile t).orderedIdle && (s.tile t).doneBefore s.now 0x1FF snap)
  else (s, (s.tile t).orderedIdle)

/-- Read the bytes of an index now, part by part. An index faults like a source read (R211); that a poisoned one raises POISON,
though a plain copy carries poison, is a DESIGN CHOICE (log 133). -/
def State.readIndex (s : State) (t : Nat) (u : CmdUnit) (c : CCmd) : List AccPart → List Byte → State × Got Nat
  | [], acc => (s, .ok (natOf acc))
  | p :: l, acc =>
    let a := BitVec.ofNat 64 p.addr
    match s.resolve t c a p.len [.read] with
    | (s, .fault code add) => (s, .fault code a add)
    | (s, .miss) => (s.awaitPage t u c a [.read], .wait)
    | (s, .ok tgt at_ _) =>
      let (s, go) := if at_.ordered then s.orderedGo t u c (at_.typ = 3) else (s, true)
      let s := s.modCq t u fun q => q.modCmd c.serial fun c => { c with idxOrd := at_.ordered }
      if !go then (s, .wait)
      else match tgt with
      | .peer pkg pa =>
        let m : Message :=
          { op := .readReq, keyId := at_.keyId, world := c.ctx.world.toNat, len := c.iBytes, pa := pa, origin := t }
        let s := s.modCq t u fun q => q.modCmd c.serial fun c => { c with blocked := true, idxOut := true }
        (s.submit pkg ((t + unitSlot u) % 16) m (some (.index t u c.serial a.toNat [.read])), .wait)
      | tgt => match (s.spend (s.tile t).vd (some tgt)).readTarget c.ctx.world.toNat tgt at_.keyId p.len with
      | (s, .ok (bs, false)) =>
        (s.modCq t u fun q => q.modCmd c.serial fun c => { c with strong := none }).readIndex t u c l (acc ++ bs)
      | (s, .ok (_, true)) => (s, .fault poisonF a 0)
      | (s, .fault code) => (s, .fault code a 0)
      | (s, .held _) => (s, .wait)

/-- The form reads an index list. -/
def CCmd.hasIndex (c : CCmd) : Bool := c.indexed 0 || c.indexed 4
/-- The place of index `e` in its list. -/
def CCmd.indexAt (c : CCmd) (e : Nat) : Word := c.ilist + BitVec.ofNat 64 (e * c.iBytes)

/-- Source and destination addresses of element `e`, whose index is `v` (R202, R211). -/
def CCmd.addrsWith (c : CCmd) (e v : Nat) : Word × Word :=
  if c.indexed 0 then (c.indexAddr c.s1 v, c.elemAddr 4 c.s2 e)
  else if c.indexed 4 then (c.elemAddr 0 c.s1 e, c.indexAddr c.s2 v)
  else (c.elemAddr 0 c.s1 e, c.elemAddr 4 c.s2 e)

/-- The index of the command's next element: each index is read once, and kept until its element is through (R211). -/
def State.nextIndex (s : State) (t : Nat) (u : CmdUnit) (c : CCmd) : State × Got Nat :=
  match c.hasIndex, c.index with
  | false, _ => (s, .ok 0)
  | true, some v => (s, .ok v)
  | true, none =>
    match s.readIndex t u c (splitLines (c.indexAt c.nextElem).toNat c.iBytes) [] with
    | (s, .ok v) => (s.modCq t u fun q => q.modCmd c.serial fun c => { c with index := some v }, .ok v)
    | r => r

/-- R31 over a whole element: a run of DVAs must stay below 2^56. -/
def State.runFault (s : State) (t : Nat) (a : Word) (n : Nat) : Option Nat :=
  match checkAddr s t a n with
  | .error code => some code
  | .ok (.dva x) => if 2 ^ 56 < x + n then some canon else none
  | .ok (.slice _ _) => none

/-- The checks on the addresses of an element (R202, R209, R210). -/
def State.elemFault (s : State) (t : Nat) (c : CCmd) (sa da : Word) : Option (Nat × Word) :=
  let src := if c.usesSrc then (s.runFault t sa c.srcBytes).map fun k => (k, sa) else none
  let dst :=
    if c.op = opCpym then
      if da.toNat / 2 ^ 21 ≠ 0 then some (canon, da)
      else if c.far.any fun v => (s.tile v).live < da.toNat + c.dstBytes then some (spadBounds, da) else none
    else (s.runFault t da c.dstBytes).map fun k => (k, da)
  [src, dst].findSome? id

/-- R113 asks that a CPYR, CAMO or CCAS element be aligned to its width; it comes after the checks of the pages (R346). -/
def CCmd.misaligned (c : CCmd) (da : Word) : Bool := c.oneByOne && da.toNat % c.dstBytes != 0

/-! ## Pieces -/

/-- The piece of element `e` from byte `b`. -/
def CCmd.pieceAt (c : CCmd) (e b : Nat) (sa da : Word) : Piece :=
  let src := sa + BitVec.ofNat 64 b
  let dst := da + BitVec.ofNat 64 b
  let n := min (c.srcBytes - b) (64 - dst.toNat % 64)
  { elem := e, off := b, len := if c.usesSrc then min n (64 - src.toNat % 64) else n, src := src, dst := dst }

/-- The pieces of an element that goes alone to its destination's home: its source split into lines. -/
def CCmd.wholeElem (c : CCmd) (e : Nat) (sa da : Word) : List Piece :=
  (splitLines sa.toNat c.srcBytes).map fun p =>
    { elem := e, off := p.addr - sa.toNat, len := p.len, src := BitVec.ofNat 64 p.addr, dst := da }

/-- The function of R71 a host page could take (R269). -/
def CCmd.hostFn (c : CCmd) : Bool := c.op = opCcas || (sylC c.syl).fn = 0 || (sylC c.syl).fn = 8

/-- What the source and the destination of the form ask of their pages (R213, R346). -/
def CCmd.srcNeeds (c : CCmd) : List Need := if c.atomic then [.read, .write] else [.read]
def CCmd.dstNeeds (c : CCmd) (da : Word) : List Need := if c.atomic then [.atomic (!c.misaligned da) c.hostFn] else [.write]

/-- Translate the source of a piece. -/
def State.pieceSrc (s : State) (t : Nat) (c : CCmd) (p : Piece) : State × Got (Piece × Nat) :=
  if !c.usesSrc then (s, .ok (p, 0))
  else match s.resolve t c p.src p.len c.srcNeeds with
    | (s, .ok tgt a add) => (s, .ok ({ p with srcT := some tgt, srcA := a }, add))
    | (s, .fault code add) => (s, .fault code p.src add)
    | (s, .miss) => (s, .wait)

/-- Translate the destination of a piece. -/
def State.pieceDst (s : State) (t : Nat) (c : CCmd) (p : Piece) : State × Got (Piece × Nat) :=
  if c.op = opCpym then (s, .ok ({ p with dstT := c.far.map fun v => .spad v (p.dst.toNat % 2 ^ 21) }, 0))
  else match s.resolve t c p.dst (if c.oneByOne then c.dstBytes else p.len) (c.dstNeeds p.dst) with
    | (s, .ok tgt a add) => (s, .ok ({ p with dstT := [tgt], dstA := a }, add))
    | (s, .fault code add) => (s, .fault code p.dst add)
    | (s, .miss) => (s, .wait)

/-- Translate a piece: its pages must both be there, else the request waits for the one that is not. -/
def State.pieceXlat (s : State) (t : Nat) (u : CmdUnit) (c : CCmd) (p : Piece) : State × Got (Piece × Nat) :=
  match s.pieceSrc t c p with
  | (s, .wait) => (s.awaitPage t u c p.src c.srcNeeds, .wait)
  | (s, .fault code a add) => (s, .fault code a add)
  | (s, .ok (p, n)) =>
    match s.pieceDst t c p with
    | (s, .wait) => (s.awaitPage t u c p.dst (c.dstNeeds p.dst), .wait)
    | (s, .fault code a add) => (s, .fault code a add)
    | (s, .ok (p, m)) => (s, .ok (p, max n m))

/-- Translate the pieces of a whole element. -/
def State.piecesXlat (s : State) (t : Nat) (u : CmdUnit) (c : CCmd) : List Piece → List Piece → Nat → State × Got (List Piece × Nat)
  | [], acc, add => (s, .ok (acc, add))
  | p :: l, acc, add =>
    match s.pieceXlat t u c p with
    | (s, .ok (p, n)) => s.piecesXlat t u c l (acc ++ [p]) (max add n)
    | (s, .fault code a add) => (s, .fault code a add)
    | (s, .wait) => (s, .wait)

/-- A target moved by a distance. -/
def Target.shift (g : Target) (d : Int) : Target :=
  match g with
  | .spad u o => .spad u ((o : Int) + d).toNat
  | .mem pa => .mem ((pa : Int) + d).toNat
  | .host a => .host ((a : Int) + d).toNat
  | .peer p pa => .peer p ((pa : Int) + d).toNat
  | .reg o => .reg ((o : Int) + d).toNat

/-- A piece in the same lines as `f`, whose pages are those of `f`. -/
def Piece.like (p f : Piece) : Piece :=
  { p with
    srcT := f.srcT.map (·.shift ((p.src.toNat : Int) - f.src.toNat)), srcA := f.srcA
    dstT := f.dstT.map (·.shift ((p.dst.toNat : Int) - f.dst.toNat)), dstA := f.dstA }

def Target.isPeer : Target → Bool | .peer _ _ => true | _ => false
def Target.isSpad : Target → Bool | .spad _ _ => true | _ => false
def Piece.srcPeer (p : Piece) : Bool := p.srcT.any Target.isPeer
def Piece.dstPeer (p : Piece) : Bool := p.dstT.any Target.isPeer

/-- Whether `p` goes into the request that begins with `f` and whose last piece is `e`: the same lines, and toward a
peer the next bytes (R387). -/
def Piece.joins (c : CCmd) (p f e : Piece) : Bool :=
  (!c.usesSrc || p.src.toNat / 64 = f.src.toNat / 64) && p.dst.toNat / 64 = f.dst.toNat / 64 &&
  (!f.srcPeer || p.src.toNat = e.src.toNat + e.len) && (!f.dstPeer || p.dst.toNat = e.dst.toNat + e.len)

/-- A request in the making: its pieces, and the element and byte the next one starts at. -/
structure Req where
  pieces : List Piece
  e : Nat
  b : Nat
  add : Nat
  index : Option Nat := none   -- the index of element `e`, where it has been read
  deriving DecidableEq, Repr

/-- The index of element `e`, read ahead of its request where its page is of a type that lets it (R268). -/
def State.aheadIndex (s : State) (t : Nat) (u : CmdUnit) (c : CCmd) (e : Nat) : State × Option Nat :=
  if !c.hasIndex then (s, some 0)
  else
    let a := c.indexAt e
    if 2 ≤ s.typeOf (dieOf t) c.ctx a.toNat || 2 ≤ s.typeOf (dieOf t) c.ctx (a.toNat + c.iBytes - 1) then (s, none)
    else match s.readIndex t u { c with nextElem := e } (splitLines a.toNat c.iBytes) [] with
      | (s1, .ok v) => (s1, some v)
      | (_, _) => (s, none)

/-- Take in the elements that follow in the same lines (R202). The fuel is the number of elements left. -/
def State.extend (s : State) (t : Nat) (u : CmdUnit) (c : CCmd) (first : Piece) : Nat → Req → State × Req
  | 0, r => (s, r)
  | fuel + 1, r =>
    if r.b ≠ 0 ∨ c.count ≤ r.e then (s, r)
    else
      match s.aheadIndex t u c r.e with
      | (s, none) => (s, r)
      | (s, some v) =>
        let (sa, da) := c.addrsWith r.e v
        let p := (c.pieceAt r.e 0 sa da).like first
        let keep := if c.hasIndex then some v else none
        if (s.elemFault t c sa da).isNone && p.joins c first (r.pieces.getLastD first) then
          let full := p.len = c.srcBytes
          s.extend t u c first fuel
            { r with
              pieces := r.pieces ++ [p], e := if full then r.e + 1 else r.e, b := if full then 0 else p.len
              index := if full then none else keep }
        else (s, { r with index := keep })

/-- What the next request comes to. -/
inductive ReqRes where
  | line (r : Req)
  | fault (code : Nat) (addr : Word) (add : Nat)
  | wait
  deriving DecidableEq, Repr

/-- A strongly ordered element (R268). -/
def Piece.strong (p : Piece) : Bool := p.srcA.typ = 3 || p.dstA.typ = 3

/-- Another queue's strongly ordered access that is out holds back this command, accepted after it. -/
def Tile.strongHolds (x : Tile) (u : CmdUnit) (c : CCmd) : Bool :=
  ((x.seq.accs.filter fun a => a.open_ && a.strong).filterMap (·.before) ++
    ((match u with | .c1 => x.c0 | _ => x.c1).cmds.filterMap fun (d : CCmd) => d.strong)).any fun f =>
    (match u with | .c1 => f.c1 | _ => f.c0) ≤ c.serial

/-- The next request of a command. -/
def State.nextReq (s : State) (t : Nat) (u : CmdUnit) (c : CCmd) : State × ReqRes :=
  match s.nextIndex t u c with
  | (s, .wait) => (s, .wait)
  | (s, .fault code a add) => (s, .fault code a add)
  | (s, .ok v) =>
    let (sa, da) := c.addrsWith c.nextElem v
    match s.elemFault t c sa da with
    | some (code, a) => (s, .fault code a 0)
    | none =>
      let ps := if c.oneByOne then c.wholeElem c.nextElem sa da else [c.pieceAt c.nextElem c.nextByte sa da]
      match s.piecesXlat t u c ps [] 0 with
      | (s, .wait) => (s, .wait)
      | (s, .fault code a add) => (s, .fault code a add)
      | (s, .ok (ps, add)) =>
        if c.misaligned da then (s, .fault atomicType da add) else
        let f := ps.headD { elem := 0, off := 0, len := 0 }
        let last := ps.getLastD f
        let full := c.oneByOne || last.off + last.len = c.srcBytes
        let r : Req :=
          { pieces := ps, e := if full then c.nextElem + 1 else c.nextElem, b := if full then 0 else last.off + last.len
            add := add, index := if full || !c.hasIndex then none else some v }
        if ps.any (·.ordered) then
          match s.orderedGo t u c (ps.any (·.strong)) with
          | (s, true) => (s, .line r)
          | (s, false) => (s, .wait)
        else if c.oneByOne || (s.tile t).frozen then (s, .line r)
        else
          let (s, r) := s.extend t u c f (c.count - r.e) r
          (s, .line r)

/-! ## Messages (R387) -/

/-- Join the message that is open, or begin message `n`. -/
def joinGroup (cap : Nat) (g : Option GroupMsg) (n pkg key pa len : Nat) : GroupMsg :=
  let fresh : GroupMsg := { num := n, pkg := pkg, key := key, pa := pa, len := len }
  match g with
  | some m =>
    if m.pkg = pkg ∧ m.key = key ∧ m.pa + m.len = pa ∧ m.len + len ≤ cap ∧ m.pa / 2 ^ 16 = (pa + len - 1) / 2 ^ 16 then
      { m with len := m.len + len }
    else fresh
  | none => fresh

/-- The most bytes a message to a package holds: 256 k of its class (R387). -/
def State.msgCap (s : State) (pkg : Nat) : Nat :=
  let cls := bitsOf 2 0 ((s.fabric.routes.get {} pkg).dcfg).toNat
  256 * (s.fabric.fcode.get (8, 2) cls).1

/-- Put a side of a request into a message: the message numbers of the line and the command's open message after it. -/
def State.sideGroup (s : State) (c : CCmd) (r : Req) (close : Bool) (g : Option Target) (key : Nat) (open_ : Option GroupMsg) :
    Nat × Option GroupMsg :=
  match g with
  | some (.peer pkg pa) =>
    let len := (r.pieces.map (·.len)).sum
    let m := joinGroup (s.msgCap pkg) open_ c.nextMsg pkg key pa len
    (m.num, if close then none else some m)
  | _ => (0, none)

/-! ## The request -/

/-- The fill bytes of a piece (R212). -/
def CCmd.fillBytes (c : CCmd) (p : Piece) : List Byte :=
  (List.range p.len).map fun i => BitVec.ofNat 8 (c.s1.toNat / 256 ^ ((p.off + i) % 8))

/-- The running command that may send a request in this cycle (R206). A freeze stops the queue at an element boundary: an
element that has begun is sent to its end (R187, R208). -/
def Tile.requester (x : Tile) (u : CmdUnit) (now : Nat) : Option CCmd :=
  let q := x.cq u
  match q.running with
  | some c =>
    if c.op ≠ opCfence ∧ c.op ≠ opCsig ∧ c.nextElem < c.count ∧ !c.blocked ∧ (!x.frozen || c.nextByte ≠ 0) ∧ !x.strongHolds u c ∧ q.lastReq ≠ some now ∧
      x.c0.lines.length + x.c1.lines.length < 2048 ∧ !(c.oneByOne && !q.lines.isEmpty) ∧ q.lines.all (·.fault.isNone) then
      some c
    else none
  | none => none

/-- Put a line into the queue, its command advanced by it. -/
def State.addLine (s : State) (t : Nat) (u : CmdUnit) (c : CCmd) (r : Req) (l : CLine) : State :=
  s.modCq t u fun q =>
    { (q.modCmd c.serial fun d => { d with nextElem := r.e, nextByte := r.b, index := r.index }) with
      lines := q.lines ++ [{ l with id := q.nextLine }], nextLine := q.nextLine + 1, lastReq := some s.now }

/-- Send a request. -/
def State.sendReq (s : State) (t : Nat) (u : CmdUnit) (c : CCmd) (r : Req) : State :=
  let f := r.pieces.headD { elem := 0, off := 0, len := 0 }
  let close := c.oneByOne || f.ordered || (r.e = c.count && r.b = 0)
  let (mr, openR) := s.sideGroup c r close f.srcT f.srcA.keyId c.openR
  let (mw, openW) := s.sideGroup { c with nextMsg := c.nextMsg + 1 } r close f.dstT.head? f.dstA.keyId c.openW
  let base := s.now + r.add
  let (s, due) := match f.srcT with
    | some g => let (s, n) := s.performLat (dieOf t) t g .copyRead; (s, base + n)
    | none => (s, base)
  let l : CLine :=
    { id := 0, cmd := c.serial, reqAt := s.now, base := base, due := due, msgR := mr, msgW := mw
      pieces := if c.usesSrc then r.pieces else r.pieces.map fun p => { p with data := c.fillBytes p }
      stage := if f.srcPeer then .groupedR else .reading }
  (s.addLine t u c r l).modCq t u fun q => q.modCmd c.serial fun d =>
    { d with openR := openR, openW := openW, nextMsg := d.nextMsg + 2 }

/-- A prefetch's next elements (R217): those of one line; scratchpad elements and elements that would fault are skipped. -/
def State.prefetch (s : State) (t : Nat) (u : CmdUnit) (c : CCmd) : State :=
  let a := c.elemAddr 0 c.s1 c.nextElem
  let step (s : State) (walks hold : Nat) : State := s.modCq t u fun q =>
    { (q.modCmd c.serial fun d => { d with nextElem := d.nextElem + 1, walks := d.walks + walks, holdUntil := max d.holdUntil hold }) with
      lastReq := some s.now }
  if a.toNat / 2 ^ 56 ≠ 0 then step s 0 0
  else match s.lookup false (tileAgent t) c.ctx a.toNat fun tgt at_ =>
      (s.pageCheck (tileAgent t) c.ctx.world.toNat tgt at_ .read).isNone with
    | (s, .miss) => step (s.startWalk (dieOf t) c.ctx a.toNat (.prefetch t u c.serial a.toNat)) 1 0
    | (s, .ok _ _ add) | (s, .fault _ add) => step s 0 (s.now + add)

/-- The next request of queue `u` of tile `t`: the state after it, and whether it faults at once. -/
def State.copyRequest (s : State) (t : Nat) (u : CmdUnit) : Option (State × Bool) :=
  match (s.tile t).requester u s.now with
  | none => none
  | some c =>
    if c.op = opCprf then some (s.prefetch t u c, false)
    else match s.nextReq t u c with
      | (s, .wait) => some (s, false)
      | (s, .fault code a 0) => some (s.modTile t fun x => x.faultC u c.serial c.nextElem code a, true)
      | (s, .fault code a add) =>
        let l : CLine := { id := 0, cmd := c.serial, reqAt := s.now, base := s.now, pieces := [], due := s.now + add
                           fault := some (c.nextElem, code, a) }
        some (s.addLine t u c { pieces := [], e := c.nextElem, b := c.nextByte, add := 0, index := c.index } l, false)
      | (s, .line r) => some (s.sendReq t u c r, false)

/-- A copy queue's line request of the cycle (R206): it is checked, translated and sent, or its command stops at its
element (R208). -/
def execCopyLineRequest (t : Nat) (u : CmdUnit) (s : State) : Out' :=
  if Config.tiles ≤ t then .fault (.noSuchUnit "COPY_LINE_REQUEST" t)
  else match s.copyRequest t u with
    | some (s1, _) => .next s1
    | none => .refused (.notEnabled "COPY_LINE_REQUEST")

end Sys2Proof.Machine
end

