-- ==== Sys2Proof/Machine/Copy.lean ====
section
/-! DEFINITION. The copy engine's lines as they perform (R204 to R210, R213, R214, R258, R443), and the start and the
completion of the commands of all three queues (R183, R184, R206, R215 to R217). -/
namespace Sys2Proof.Machine
open Sys2Proof

/-! ## Times (R258, R350, R443) -/

def CLine.first (l : CLine) : Piece := l.pieces.headD { elem := 0, off := 0, len := 0 }

/-- The source is off the die's mesh: its lines are verified on arrival (R204). -/
def CLine.offDie (l : CLine) : Bool :=
  match l.first.srcT with
  | some (.mem _) | some (.host _) | some (.peer _ _) => true
  | _ => false

/-- The cycle in which the source's data is at the issuing tile; `now` for a line just verified. For a read of the own
slice that goes on to a home as one element, the request itself. -/
def CLine.dataBack (l : CLine) (t now : Nat) : Nat :=
  match l.first.srcT with
  | some (.spad u _) => if u = t then l.base else l.base + 16 + 4 * hops t u
  | some _ => now
  | none => l.base

/-- A write figure of a target: from the request of a line to its performing, the local read included. -/
def State.writeFigure (s : State) (t : Nat) (g : Target) : State × Nat := s.performLat (dieOf t) t g .copyWrite

/-- The cycle a destination's write performs (R443). For CPYR, CAMO and CCAS R258 counts 4 or 14 + 2h from the request, of an
element whose source is the tile's own; for another source the figure is added to the cycle its data is there: DESIGN CHOICE
(log 132). -/
def State.writeDue (s : State) (t : Nat) (c : CCmd) (l : CLine) (g : Target) : State × Nat :=
  let d := l.dataBack t s.now
  match g with
  | .spad u _ =>
    let h := hops t u
    if c.oneByOne then (s, if u = t then d + 4 else d + 14 + 2 * h)
    else
      let k := match l.first.srcT with
        | none => if u = t then l.base + 2 else l.base + 12 + 2 * h
        | some (.spad v _) =>
          if v = t then (if u = t then l.base + 10 else l.base + 12 + 2 * h)
          else if u = t then l.base + 18 + 4 * hops t v else l.base + 20 + 4 * hops t v + 2 * h
        | some _ => if u = t then s.now else s.now + 12 + 2 * h
      (s, k)
  | .peer _ _ =>
    (s, match l.first.srcT with
      | some (.spad v _) => if v = t then l.base + 8 else d
      | _ => d)
  | g =>
    if c.atomic then
      let (s, n) := s.performLat (dieOf t) t g .atomic
      (s, d + n)
    else
      let (s, n) := s.writeFigure t g
      (s, match l.first.srcT with
        | none => l.base + n - 8
        | some (.spad v _) => if v = t then l.base + n else l.base + 8 + 4 * hops t v + n
        | some _ => max s.now (s.now + n - 32))

/-- The cycles of every destination. -/
def State.writeDues (s : State) (t : Nat) (c : CCmd) (l : CLine) : List (Target × Nat) → State × List (Nat × Nat)
  | [] => (s, [])
  | (g, j) :: rest =>
    let (s, n) := s.writeDue t c l g
    let (s, ds) := s.writeDues t c l rest
    (s, (j, n) :: ds)

/-- The cycles from the performing of a CAMO or CCAS to the return of its old value (R258, R350). -/
def oldReturn (t : Nat) : Target → Nat
  | .spad u _ => if u = t then 4 else 6 + 2 * hops t u
  | .mem pa => 220 + 8 * (match homeOf pa with
    | some h => dieEdges (dieOf t) h.die
    | none => 0)
  | _ => 0

/-! ## Lines -/

def State.modLine (s : State) (t : Nat) (u : CmdUnit) (id : Nat) (f : CLine → CLine) : State :=
  s.modCq t u fun q => q.modLine id f
def State.dropLine (s : State) (t : Nat) (u : CmdUnit) (id : Nat) : State :=
  s.modCq t u fun q => { q with lines := q.lines.filter (·.id ≠ id) }
/-- A line has performed: the command has performed an access (R372). -/
def State.lineDone (s : State) (t : Nat) (u : CmdUnit) (l : CLine) : State :=
  (s.dropLine t u l.id).modCq t u fun q => q.modCmd l.cmd fun c => { c with accessed := true, waitFrom := none, strong := none }
/-- A line's element faults: the line is gone and its command stops there. -/
def State.failLine (s : State) (t : Nat) (u : CmdUnit) (l : CLine) (e code : Nat) (addr : Word) : State :=
  (s.dropLine t u l.id).modTile t fun x => x.faultC u l.cmd e code addr
/-- The line waits on slot `k`'s line in motion (R359). -/
def State.holdLine (s : State) (t : Nat) (u : CmdUnit) (l : CLine) (st : LineStage) (k : Nat) : State :=
  (s.modLine t u l.id fun l => { l with stage := st }).waitLine k (.lines t u [l.id])

/-- Read one piece. -/
def State.readPiece (s : State) (world : Nat) (p : Piece) : State × MemRes (List Byte × Bool) :=
  match p.srcT with
  | some g => s.readTarget world g p.srcA.keyId p.len
  | none => (s, .ok (p.data, false))

/-- The lowest target of some pieces, and the bytes from there to their end. -/
def pieceSpan (ps : List Piece) (f : Piece) : Int × Nat :=
  let d (p : Piece) : Int := (p.src.toNat : Int) - f.src.toNat
  let lo := (ps.map d).foldl min 0
  let hi := (ps.map fun p => d p + p.len).foldl max 0
  (lo, (hi - lo).toNat)

/-- Take a line's source value: one read of its line, or of each part of a whole element. -/
def State.readLine (s : State) (c : CCmd) (l : CLine) : State × MemRes (List Piece) :=
  if c.oneByOne then
    l.pieces.foldl (fun (r : State × MemRes (List Piece)) p =>
      match r with
      | (s, .ok ps) =>
        match s.readPiece c.ctx.world.toNat p with
        | (s, .ok (bs, bad)) => (s, .ok (ps ++ [{ p with data := bs, poison := bad }]))
        | (s, .fault k) => (s, .fault k)
        | (s, .held k) => (s, .held k)
      | r => r) (s, .ok [])
  else
    let f := l.first
    let (lo, n) := pieceSpan l.pieces f
    match s.readPiece c.ctx.world.toNat { f with srcT := f.srcT.map (·.shift lo), len := n } with
    | (s, .ok (bs, bad)) =>
      (s, .ok (l.pieces.map fun p =>
        { p with data := (bs.drop ((p.src.toNat : Int) - f.src.toNat - lo).toNat).take p.len, poison := bad }))
    | (s, .fault k) => (s, .fault k)
    | (s, .held k) => (s, .held k)

/-- The data is at hand: schedule the writes. -/
def State.toWriting (s : State) (t : Nat) (u : CmdUnit) (c : CCmd) (l : CLine) : State :=
  let (s, ds) := s.writeDues t c l (l.first.dstT.zipIdx)
  s.modLine t u l.id fun m => { m with stage := .writing, pieces := l.pieces, wdue := ds }

/-- A piece whose element is not to be performed again (R208). -/
def CLine.kept (l : CLine) (p : Piece) : Bool := l.stale.all (p.elem < ·)

/-- Record what a write covers of a scratchpad line: once all of it holds what the command has written from clean sources,
its poison bit is cleared (R205). `bad` bytes come from a poisoned line. -/
def coverWith (m : List ((Nat × Nat) × BitVec 64)) (k : Nat × Nat) (bad : Bool) (mask : BitVec 64) :
    List ((Nat × Nat) × BitVec 64) × Bool :=
  let old := ((m.find? (·.1 = k)).map (·.2)).getD 0#64
  let new := if bad then old &&& ~~~mask else old ||| mask
  ((k, new) :: m.filter (·.1 ≠ k), new = BitVec.allOnes 64)

/-- The place of a scratchpad line in the record of what is covered. -/
def Target.coverKey : Target → Option (Nat × Nat)
  | .spad u off => some (u, off / 64)
  | _ => none

/-- Poison the line of a target that an element wrote before its poisoned source line was read (R205). -/
def State.poisonAt (s : State) (g : Target) (key : Nat) : State :=
  match g with
  | .spad u off => s.modTile u fun x => x.setPoison off true
  | .mem pa => match s.homeWrite false true false pa key [] with
    | (s, .held _) => s.poisonLine pa        -- the copier takes the mark along
    | r => r.1
  | _ => s

/-- Source pieces have been read: an element with a poisoned one is bad from here on, the lines it has written already among
its destinations (R205). -/
def State.noteBad (s : State) (t : Nat) (u : CmdUnit) (l : CLine) (ps : List Piece) : State :=
  let es := ((ps.filter fun p => p.poison && l.kept p).map (·.elem)).eraseDups
  match es.isEmpty, ((s.tile t).cq u).cmd? l.cmd with
  | false, some c =>
    let hit := c.wrote.filter fun w => es.contains w.1
    let s := hit.foldl (fun s w => s.poisonAt w.2.1 w.2.2.1) s
    s.modCq t u fun q => q.modCmd l.cmd fun c => { c with
      badEl := es ++ c.badEl
      cover := hit.foldl (fun m w => match w.2.1.coverKey with
        | some k => (coverWith m k true w.2.2.2).1
        | none => m) c.cover }
  | _, _ => s

/-- The form consumes its source and the source is poisoned: CAMO and CCAS of any line (R205), CPYR of one of memory (R374;
log 109). -/
def CCmd.consumesBad (c : CCmd) (ps : List Piece) : Bool :=
  ps.any fun p => p.poison && (c.atomic || c.op = opCpyr && !p.srcT.any Target.isSpad)

/-- The source value is taken (R258, R441). A poisoned line raises POISON where the form consumes it and is carried by the
others. -/
def State.takeSource (s : State) (t : Nat) (u : CmdUnit) (c : CCmd) (l : CLine) : State :=
  let f := l.first
  if !c.usesSrc then s.toWriting t u c l
  else match s.readLine c l with
    | (s, .held k) => s.holdLine t u l (.heldRead k) k
    | (s, .fault k) =>
      if k = integrity && l.offDie then
        s.modLine t u l.id fun l => { l with stage := .arriving, bad := true, due := s.now + returnLat (dieOf t) t (f.srcT.getD (.host 0)) .copyRead }
      else s.failLine t u l f.elem k f.src
    | (s, .ok ps) =>
      if c.consumesBad ps then s.failLine t u l f.elem poisonF f.src
      else
        let l := { l with pieces := ps }
        let s := s.noteBad t u l ps
        if l.offDie then
          let lat := match f.srcT with
            | some (.mem pa) => returnLat (dieOf t) t (.mem pa) .copyRead
            | _ => 24
          s.modLine t u l.id fun m => { m with pieces := ps, stage := .arriving, due := s.now + lat }
        else s.toWriting t u c l

/-! ## Writes -/

/-- The bytes a line writes at destination `j`, later elements over earlier ones (R207): offsets from the first piece's
target line. -/
def CLine.image (l : CLine) : NMap Byte :=
  l.pieces.foldl (fun m p => (p.data.zipIdx).foldl (fun m (b, i) => NMap.insert m ((p.dst.toNat + i) % 64) b) m) []

/-- Write one run of a line to its place. -/
def State.writeRun (s : State) (t : Nat) (u : CmdUnit) (c : CCmd) (l : CLine) (poison : Bool) (g : Target) (a : PageAttr)
    (bs : List Byte) : State × MemRes Unit :=
  let w : WcSrc := { who := c.serial, elem := l.first.elem, addr := l.first.dst, since := l.reqAt }
  let combined : State × MemRes Unit := (s.combineWrite t w (unitSlot u) c.ctx g a.keyId poison bs, .ok ())
  if a.typ = 1 then
    match g with
    | .mem pa => match s.homeCheck pa a.keyId with
      | some k => (s, .fault k)
      | none => combined
    | .host _ | .peer _ _ => combined
    | _ => s.writeTarget 0 c.ctx.world.toNat poison g a.keyId bs
  else s.writeTarget 0 c.ctx.world.toNat poison g a.keyId bs

/-- The bytes of its target line that a piece writes. -/
def Piece.mask (p : Piece) : BitVec 64 := (List.range p.len).foldl (fun m i => m ||| (1#64 <<< ((p.dst.toNat + i) % 64))) 0#64

/-- A piece carries poison: its source line was poisoned, or another of its element's was (R205). -/
def CCmd.pieceBad (c : CCmd) (l : CLine) (p : Piece) : Bool := p.poison || (l.kept p && c.badEl.contains p.elem)

/-- The poison a line's writes leave at a target (R205): a poisoned element marks it, and a scratchpad line that now holds only
what clean sources gave is cleared. -/
def State.carryPoison (s : State) (t : Nat) (u : CmdUnit) (c : CCmd) (l : CLine) (g : Target) : State :=
  let bad := l.pieces.any (c.pieceBad l)
  let (cover, clean) := match g.coverKey with
    | some k => l.pieces.foldl (fun m p => coverWith m.1 k (c.pieceBad l p) p.mask) (c.cover, false)
    | none => (c.cover, false)
  let s := match g with
    | .spad v off => if bad && !clean then s.modTile v fun x => x.setPoison off true
        else if clean then s.modTile v fun x => x.setPoison off false else s
    | _ => s
  let parts := l.pieces.filter fun p => p.len < c.dstBytes && l.kept p
  s.modCq t u fun q => q.modCmd c.serial fun c => { c with
    cover := cover
    wrote := if parts.isEmpty then c.wrote else (parts.map fun p => (p.elem, g, l.first.dstA.keyId, p.mask)) ++ c.wrote }

/-- The line's first byte at a destination. -/
def Target.lineStart (g : Target) (dst : Word) : Target := g.shift (-((dst.toNat % 64 : Nat) : Int))

/-- Write every run of a line at a destination. -/
def State.writeRuns (s : State) (t : Nat) (u : CmdUnit) (c : CCmd) (l : CLine) (bad : Bool) (g : Target) (a : PageAttr) :
    List (Nat × List Byte) → State × MemRes Unit
  | [] => (s, .ok ())
  | (o, bs) :: rest =>
    match s.writeRun t u c l bad (g.plus o) a bs with
    | (s, .ok ()) => s.writeRuns t u c l bad g a rest
    | r => r

/-- The add of a CPYR element (R65, R210). -/
def reduceValue (etype w old new : Nat) : Nat :=
  let f (k : Fmt) : Nat := (roundTo k {} (sumExact false [k.value old, k.value new]).1).1
  match etype with
  | 1 => f .fp32
  | 2 => f .bf16
  | 3 => f .fp16
  | _ => (old + new) % 256 ^ w

/-- The bytes of a whole element. -/
def CLine.elemBytes (l : CLine) : List Byte := l.pieces.flatMap (·.data)

/-- A CPYR element at its destination's port: poison of a scratchpad line on either side leaves it unchanged and marks its
line (R205). -/
def State.reduceElem (s : State) (c : CCmd) (l : CLine) (g : Target) : State × MemRes Unit :=
  let world := c.ctx.world.toNat
  let a := l.first.dstA
  let w := c.dstBytes
  match s.readTarget world g a.keyId w with
  | (s, .fault k) => (s, .fault k)
  | (s, .held k) => (s, .held k)
  | (s, .ok (old, pd)) =>
    if pd || l.pieces.any (·.poison) then
      match g with
      | .spad v off => (s.modTile v fun x => x.setPoison off true, .ok ())
      | _ => s.writeTarget 0 world true g a.keyId old
    else s.writeTarget 0 world false g a.keyId (bytesOf w (reduceValue c.etype w (natOf old) (natOf l.elemBytes)))

/-- A line's write at destination `j`. -/
def State.writeLine (s : State) (t : Nat) (u : CmdUnit) (c : CCmd) (l : CLine) (g : Target) : State × MemRes Unit :=
  if c.op = opCpyr then s.reduceElem c l g
  else
    match s.writeRuns t u c l (l.pieces.any (c.pieceBad l)) (g.lineStart l.first.dst) l.first.dstA (byteRuns l.image) with
    | (s, .ok ()) => (s.carryPoison t u c l g, .ok ())
    | r => r

/-- The atomic of a CAMO or CCAS element (R213, R214): the old value. -/
def State.atomLine (s : State) (c : CCmd) (l : CLine) (g : Target) : State × MemRes Nat :=
  let w := c.dstBytes
  let v := natOf l.elemBytes
  let op := if c.op = opCcas then AtomOp.cas (v % 256 ^ w) else .fn (sylC c.syl).fn
  s.atomTarget c.ctx.world.toNat g l.first.dstA w op (if c.op = opCcas then v / 256 ^ w else v)

/-! ## Order within a command (R207) -/

/-- A place as a number in one line of numbers. -/
def Target.place : Target → Nat × Nat
  | .spad u o => (0, u * 2 ^ 21 + o)
  | .mem pa => (1, pa)
  | .host a => (2, a)
  | .reg o => (3, o)
  | .peer p pa => (4 + p, pa)

/-- Two runs of bytes in one line of numbers meet. -/
def runsMeet (a : Nat × Nat) (n : Nat) (b : Nat × Nat) (m : Nat) : Bool := a.1 = b.1 && a.2 < b.2 + m && b.2 < a.2 + n

/-- The piece writes bytes of the run of `n` at a place, at a destination that is still to be written: `open_` says which
are. -/
def Piece.writes (p : Piece) (open_ : Nat → Bool) (at_ : Nat × Nat) (n : Nat) : Bool :=
  p.dstT.zipIdx.any fun g => open_ g.2 && runsMeet g.1.place p.len at_ n

/-- `r`'s write at destination `j` meets bytes that `p` still has to write. -/
def Piece.clashes (p r : Piece) (open_ : Nat → Bool) (j : Nat) : Bool :=
  (r.dstT[j]?).any fun h => p.writes open_ h.place r.len

/-- The source of `p`, an element no later than that of `r`, holds bytes that `r` writes at destination `j`. -/
def Piece.readBy (p r : Piece) (j : Nat) : Bool :=
  p.elem ≤ r.elem && match p.srcT, r.dstT[j]? with
    | some g, some h => runsMeet g.place p.len h.place r.len
    | _, _ => false

/-- The source value of a line is still to be taken. -/
def CLine.unread (l : CLine) : Bool :=
  match l.stage with
  | .reading | .groupedR | .asked | .heldRead _ => true
  | _ => false

/-- The part of the element in the making whose request has not left holds source bytes that the line writes at destination
`j`. -/
def CCmd.restMeets (c : CCmd) (l : CLine) (j : Nat) : Bool :=
  c.nextByte ≠ 0 && c.usesSrc && !l.first.ordered && l.pieces.any fun r =>
    r.elem = c.nextElem && match r.srcT, r.dstT[j]? with
      | some g, some h =>
        let n := c.srcBytes - c.nextByte
        let d : Int := (c.nextByte : Int) - r.off
        runsMeet (g.shift d).place n h.place r.len ||
          (r.dstT.length ≤ 1 && runsMeet (0, (r.src + BitVec.ofInt 64 d).toNat) n (0, r.dst.toNat) r.len)
      | _, _ => false

/-- The line has yet to write destination `j`. -/
def CLine.owes (l : CLine) (j : Nat) : Bool := l.stage != .writing || l.wdue.any (·.1 = j)

/-- The line's write at destination `j` keeps the order of R207: no earlier element still to be written there meets its bytes,
and no element up to its own still has to read bytes it writes. -/
def CQueue.inOrder (q : CQueue) (l : CLine) (j : Nat) : Bool :=
  (q.lines.all fun m => !(m.id < l.id) || m.fault.isSome || !m.pieces.any fun p => l.pieces.any (p.clashes · m.owes j)) &&
  (q.lines.all fun m => m.id = l.id || m.fault.isSome || !m.unread || !m.pieces.any fun p => l.pieces.any (p.readBy · j)) &&
  (match q.cmd? l.cmd with
    | some c => !c.restMeets l j
    | none => true)

/-! ## Messages (R387) -/

/-- The lines of a message, once it takes no more and all of them are at its door. -/
def Tile.groupReady (x : Tile) (u : CmdUnit) (l : CLine) (write : Bool) : Option (List CLine) :=
  let q := x.cq u
  let num (m : CLine) : Nat := if write then m.msgW else m.msgR
  let st : LineStage := if write then .groupedW else .groupedR
  let mine := q.lines.filter fun m => m.cmd = l.cmd && num m = num l &&
    (if write then m.pieces.any (·.dstPeer) else m.pieces.any (·.srcPeer)) && !(write && (m.stage = .acked || m.stage = .backAcked)) &&
    !(!write && m.stage != .groupedR)
  match q.cmd? l.cmd with
  | none => none
  | some c =>
    let live := match c.st with | .running _ => !x.frozen | _ => false
    let open_ := (if write then c.openW else c.openR).any (·.num = num l)
    if (live && open_) || mine.any (·.stage ≠ st) then none else some mine

/-- The peer a line's side names, and its first byte there. -/
def CLine.peerOf (l : CLine) (write : Bool) : Option (Nat × Nat) :=
  match (if write then l.first.dstT.head? else l.first.srcT) with
  | some (.peer pkg pa) => some (pkg, pa)
  | _ => none

/-- The bitmap of poisoned lines, line 0 the first of the message (R390). -/
def poisonMap (c : CCmd) (pa : Nat) (ls : List CLine) : Nat :=
  (ls.filter fun l => l.pieces.any (c.pieceBad l)).foldl (fun m l => match l.peerOf true with
    | some (_, a) => m ||| 2 ^ (a / 64 - pa / 64)
    | none => m) 0

/-- Send the message of some lines. -/
def State.sendGroup (s : State) (t : Nat) (u : CmdUnit) (c : CCmd) (ls : List CLine) (write : Bool) : State :=
  match ls with
  | [] => s
  | l :: _ =>
    match l.peerOf write with
    | none => s
    | some (pkg, pa) =>
      let len := (ls.map fun l => (l.pieces.map (·.len)).sum).sum
      let m : Message :=
        if write then
          { op := .write, keyId := l.first.dstA.keyId, world := c.ctx.world.toNat, len := len, pa := pa, origin := t
            status := 256 * poisonMap c pa ls, data := ls.flatMap (·.elemBytes) }
        else { op := .readReq, keyId := l.first.srcA.keyId, world := c.ctx.world.toNat, len := len, pa := pa, origin := t }
      let ids := ls.map (·.id)
      let s := ids.foldl (fun s id => s.modLine t u id fun l => { l with stage := if write then .acked else .asked }) s
      s.submit pkg ((t + unitSlot u) % 16) m (some (.lines t u ids))

/-- Send a CAMO or CCAS element to a peer's home. -/
def State.sendAtomic (s : State) (t : Nat) (u : CmdUnit) (c : CCmd) (l : CLine) (pkg pa : Nat) : State :=
  let w := c.dstBytes
  let v := natOf l.elemBytes
  let sa := if l.first.dstA.sa then 32 else 0
  let fn := (if c.op = opCcas then 9 else (sylC c.syl).fn) + (if w = 8 then 16 else 0) + sa
  let m : Message :=
    { op := .atomic, fn := fn, keyId := l.first.dstA.keyId, world := c.ctx.world.toNat, len := w, pa := pa, origin := t
      data := bytesOf (if c.op = opCcas then 2 * w else w) v }
  (s.modLine t u l.id fun l => { l with stage := .acked }).submit pkg ((t + unitSlot u) % 16) m (some (.lines t u [l.id]))

/-- Send a write-back to a peer. -/
def State.sendBack (s : State) (t : Nat) (u : CmdUnit) (c : CCmd) (l : CLine) (pkg pa : Nat) : State :=
  let w := c.dstBytes
  let m : Message :=
    { op := .write, keyId := l.first.srcA.keyId, world := c.ctx.world.toNat, len := w, pa := pa, origin := t, data := bytesOf w l.old }
  (s.modLine t u l.id fun l => { l with stage := .backAcked }).submit pkg ((t + unitSlot u) % 16) m (some (.lines t u [l.id]))

/-! ## Performing -/

/-- The increment of a CPYM's destination leaves with the last of its writes (R209), at every scope: that R263's host read and
write-back of earlier commands do not hold it back is a DESIGN CHOICE (log 139). -/
def State.leaveIncrement (s : State) (t : Nat) (u : CmdUnit) (serial j : Nat) : State :=
  let q := (s.tile t).cq u
  match q.cmd? serial with
  | none => s
  | some c =>
    let w := c.wait
    let head := match q.cmds with | d :: _ => d.serial = serial | [] => false
    let ended := c.count ≤ c.nextElem && !q.lines.any fun l => l.cmd = serial && (l.stage != .writing || l.wdue.any (·.1 = j))
    if c.op = opCpym && 2 ≤ w.stgt && head && ended && !c.tilesDone.contains j then
      let s := s.modCq t u fun q => q.modCmd serial fun c => { c with tilesDone := c.tilesDone ++ [j] }
      s.sendIncrement t (c.far.getD j 0) w.ssem (w.sinc + 1)
    else s

/-- The old value of a CAMO or CCAS element is at the tile from cycle `at_`. -/
def State.oldBack (s : State) (t : Nat) (u : CmdUnit) (l : CLine) (old at_ : Nat) : State :=
  s.modLine t u l.id fun l => { l with stage := .returning, old := old, wdue := [], due := at_ }

/-- Perform the write of a line at destination `j`. -/
def State.performWrite (s : State) (t : Nat) (u : CmdUnit) (c : CCmd) (l : CLine) (j : Nat) : State :=
  let g := l.first.dstT.getD j (.host 0)
  match g with
  | .peer pkg pa =>
    if c.atomic then s.sendAtomic t u c l pkg pa
    else if l.first.dstA.typ = 1 && c.op ≠ opCpyr then
      (s.writeLine t u c l g).1.lineDone t u l
    else s.modLine t u l.id fun l => { l with stage := .groupedW, wdue := [] }
  | _ =>
    if c.atomic then
      match s.atomLine c l g with
      | (s, .ok old) => s.oldBack t u l old (s.now + oldReturn t g)
      | (s, .fault k) => s.failLine t u l l.first.elem k l.first.dst
      | (s, .held k) => s.holdLine t u l (.heldWrite k) k
    else
      match s.writeLine t u c l g with
      | (s, .fault k) => s.failLine t u l l.first.elem k l.first.dst
      | (s, .held k) => s.holdLine t u l (.heldWrite k) k
      | (s, .ok ()) =>
        let s := s.hostWrote t (unitSlot u) g
        let rest := l.wdue.filter (·.1 ≠ j)
        let s := if rest.isEmpty then s.lineDone t u l else s.modLine t u l.id fun l => { l with wdue := rest }
        s.leaveIncrement t u l.cmd j

/-- The write-back of an old value is requested in the cycle it returns (R213, R443). -/
def State.requestBack (s : State) (t : Nat) (u : CmdUnit) (c : CCmd) (l : CLine) : State :=
  match l.first.srcT with
  | some (.spad v _) => s.modLine t u l.id fun l => { l with stage := .back, due := s.now + if v = t then 2 else 4 + 2 * hops t v }
  | some (.peer pkg pa) => s.sendBack t u c l pkg pa
  | some g => let (s, n) := s.writeFigure t g; s.modLine t u l.id fun l => { l with stage := .back, due := s.now + n - 8 }
  | none => s.lineDone t u l

/-- Write the old value back over the low bytes of the source element (R213, R214). -/
def State.performBack (s : State) (t : Nat) (u : CmdUnit) (c : CCmd) (l : CLine) : State :=
  let bs := bytesOf c.dstBytes l.old
  let r := l.pieces.foldl (fun (r : State × MemRes Unit) p =>
    match r with
    | (s, .ok ()) =>
      let part := (bs.drop p.off).take p.len
      match p.srcT with
      | some g => if part.isEmpty then (s, .ok ()) else s.writeRun t u c l false g p.srcA part
      | none => (s, .ok ())
    | r => r) (s, .ok ())
  match r with
  | (s, .ok ()) => s.lineDone t u l
  | (s, .fault k) => s.failLine t u l l.first.elem k l.first.src
  | (s, .held k) => s.holdLine t u l (.heldBack k) k

/-- What a line has to do in this cycle. -/
inductive LineWork where
  | none
  | fault
  | read
  | write (j : Nat)
  | sendR (ls : List CLine)
  | sendW (ls : List CLine)
  | askBack
  | back
  deriving DecidableEq, Repr

def Tile.lineWork (x : Tile) (u : CmdUnit) (now : Nat) (l : CLine) : LineWork :=
  if l.fault.isSome then (if l.due ≤ now then .fault else .none)
  else match l.stage with
    | .reading => if l.due ≤ now then .read else .none
    | .writing =>
      match l.wdue.find? fun e => e.2 ≤ now && (x.cq u).inOrder l e.1 with
      | some (j, _) => .write j
      | none => .none
    | .groupedR => match x.groupReady u l false with | some ls => .sendR ls | none => .none
    | .groupedW => match x.groupReady u l true with | some ls => .sendW ls | none => .none
    | .returning => if l.due ≤ now then .askBack else .none
    | .back => if l.due ≤ now then .back else .none
    | _ => .none

/-- The first line of a queue with work in this cycle. -/
def Tile.nextLine (x : Tile) (u : CmdUnit) (now : Nat) : Option CLine :=
  (x.cq u).lines.find? fun l => x.lineWork u now l != .none

/-- A copy line takes its source value, performs its write, or takes the next of a CAMO's or CCAS's steps (R443). -/
def execCopyLinePerform (t : Nat) (u : CmdUnit) (id : Nat) (s : State) : Out' :=
  if Config.tiles ≤ t then .fault (.noSuchUnit "COPY_LINE_PERFORM" t)
  else
    let x := s.tile t
    match (x.cq u).lines.find? (·.id = id) with
    | none => .refused (.notEnabled "COPY_LINE_PERFORM")
    | some l =>
      match (x.cq u).cmd? l.cmd with
      | none => .next (s.dropLine t u id)
      | some c =>
        match x.lineWork u s.now l with
        | .none => .refused (.notEnabled "COPY_LINE_PERFORM")
        | .fault => match l.fault with
          | some (e, code, a) => .next (s.failLine t u l e code a)
          | none => .next s
        | .read => .next ((s.spend x.vd l.first.srcT).takeSource t u c l)
        | .write j => .next ((s.spend x.vd (l.first.dstT[j]?)).performWrite t u c l j)
        | .sendR ls => .next (s.sendGroup t u c ls false)
        | .sendW ls => .next (s.sendGroup t u c ls true)
        | .askBack => .next (s.requestBack t u c l)
        | .back => .next ((s.spend x.vd l.first.srcT).performBack t u c l)

/-- A line that has come from off the die is verified and decrypted at the tile; a MAC failure raises INTEGRITY at its
element (R204). -/
def execInboundLineVerify (t : Nat) (u : CmdUnit) (id : Nat) (s : State) : Out' :=
  if Config.tiles ≤ t then .fault (.noSuchUnit "INBOUND_LINE_VERIFY" t)
  else
    let q := (s.tile t).cq u
    match q.lines.find? fun l => l.id = id && l.stage = .arriving && l.due ≤ s.now with
    | none => .refused (.notEnabled "INBOUND_LINE_VERIFY")
    | some l =>
      match q.cmd? l.cmd with
      | none => .next (s.dropLine t u id)
      | some c =>
        if l.bad then .next (s.failLine t u l l.first.elem integrity l.first.src) else .next (s.toWriting t u c l)

/-! ## Answers -/

/-- The line in motion is done: the lines it held go on (R359). -/
def State.resumeLine (s : State) (t : Nat) (u : CmdUnit) (id : Nat) : State :=
  s.modLine t u id fun l => match l.stage with
    | .heldRead _ => { l with stage := .reading, due := s.now }
    | .heldWrite _ => { l with stage := .writing }
    | .heldBack _ => { l with stage := .back, due := s.now }
    | _ => l

/-- The source bytes of a line from its part of a message that begins at `pa0`; a piece of a poisoned line is marked by that
line's place (R400). -/
def CLine.fillFrom (l : CLine) (bs : List Byte) (pa0 bitmap : Nat) : CLine :=
  let bad (p : Piece) : Bool := match p.srcT with
    | some (.peer _ pa) => bitOf (pa / 64 - pa0 / 64) bitmap
    | _ => false
  { l with pieces := (l.pieces.foldl (fun (r : List Piece × List Byte) p =>
      (r.1 ++ [{ p with data := r.2.take p.len, poison := bad p }], r.2.drop p.len)) ([], bs)).1 }

/-- Spread a read answer over its lines. A poisoned line raises POISON where the form consumes it (R374, R400). -/
def State.giveLines (s : State) (t : Nat) (u : CmdUnit) (pa0 bitmap : Nat) : List Nat → List Byte → State
  | [], _ => s
  | id :: ids, bs =>
    match ((s.tile t).cq u).lines.find? (·.id = id) with
    | none => s.giveLines t u pa0 bitmap ids bs
    | some l =>
      let n := (l.pieces.map (·.len)).sum
      let m := l.fillFrom bs pa0 bitmap
      let s := if (((s.tile t).cq u).cmd? l.cmd).any (·.consumesBad m.pieces) then s.failLine t u l l.first.elem poisonF l.first.src
        else (s.noteBad t u m m.pieces).modLine t u id fun _ => { m with stage := .arriving, due := s.now + 24 }
      s.giveLines t u pa0 bitmap ids (bs.drop n)

/-- A peer has answered the message of some lines: read data with its poisoned lines, an old value, or an ACK; or the
message failed with a code, which stops the command at the message's first element (R396, R400). -/
def State.answerLines (s : State) (t : Nat) (u : CmdUnit) (ids : List Nat) (r : Except Nat (List Byte × Nat)) : State :=
  let q := (s.tile t).cq u
  match q.lines.find? fun l => ids.contains l.id with
  | none => s
  | some l =>
    match r with
    | .error code =>
      let addr := if l.stage = .asked || l.stage = .backAcked then l.first.src else l.first.dst
      let s := ids.foldl (fun s id => s.dropLine t u id) s
      s.modTile t fun x => x.faultC u l.cmd l.first.elem code addr
    | .ok (bs, bitmap) =>
      match l.stage with
      | .asked => s.giveLines t u ((l.peerOf false).getD (0, 0)).2 bitmap ids bs
      | .acked =>
        match q.cmd? l.cmd with
        | some c =>
          if c.atomic then s.oldBack t u l (natOf bs) s.now
          else ids.foldl (fun s id => match ((s.tile t).cq u).lines.find? (·.id = id) with
            | some l => s.lineDone t u l
            | none => s) s
        | none => s
      | _ => ids.foldl (fun s id => match ((s.tile t).cq u).lines.find? (·.id = id) with
          | some l => s.lineDone t u l
          | none => s) s

/-- A page of a command's next request or index has come, or its fault; a fault skips nothing of a prefetch (R217). -/
def State.answerIndex (s : State) (t : Nat) (u : CmdUnit) (serial : Nat) (addr : Nat) (r : Except Nat (Option Nat)) : State :=
  match r with
  | .ok v => s.modCq t u fun q => q.modCmd serial fun c =>
      { c with blocked := false, idxOut := false, index := v, strong := if v.isSome then none else c.strong }
  | .error code =>
    let s := s.modCq t u fun q => q.modCmd serial fun c => { c with idxOut := false }
    match ((s.tile t).cq u).cmd? serial with
    | some c => s.modTile t fun x => x.faultC u serial c.nextElem code (BitVec.ofNat 64 addr)
    | none => s

/-- A translation of a prefetch has returned, whatever it found (R217). -/
def State.answerPrefetch (s : State) (t : Nat) (u : CmdUnit) (serial : Nat) : State :=
  s.modCq t u fun q => q.modCmd serial fun c => { c with walks := c.walks - 1, accessed := true }

/-! ## Start and completion of commands -/

/-- The head of a copy queue that would start now but for its wait (R183, R206). -/
def Tile.cHead (x : Tile) (u : CmdUnit) (now : Nat) : Option CCmd :=
  let q := x.cq u
  match q.cmds with
  | c :: _ => if c.st = .waiting && c.issuedAt < now && q.lastDone != some now && !x.stopped then some c else none
  | [] => none

/-- The wait of the next command of a queue. -/
def Tile.headWait (x : Tile) (u : CmdUnit) (now : Nat) : Option WaitSig :=
  match u with
  | .m => (x.mHead now).map (·.wait)
  | u => (x.cHead u now).map (·.wait)

/-- A command starts, its wait satisfied and consumed (R183). -/
def execCommandStart (t : Nat) (u : CmdUnit) (s : State) : Out' :=
  tileEvent "COMMAND_START" t s (fun x => x.use = .running && (x.headWait u s.now).any x.waitMet) fun x =>
    match u with
    | .m => match x.mHead s.now with
      | some c => x.startM s.now s.wall c
      | none => x
    | u => match x.cHead u s.now with
      | some c => (x.consume c.wait).modCq u fun q => q.modCmd c.serial fun d =>
          { d with st := .running s.now, waitFrom := some s.wall, accessed := false }
      | none => x

/-- The queues a copy command flushes at its end (R268). -/
def CCmd.flushes (c : CCmd) (u : CmdUnit) : Nat :=
  if c.op = opCfence then (sylC c.syl).flags % 512 ||| 2 ^ unitSlot u else 2 ^ unitSlot u

/-- Whether the running copy command is complete (R206, R215 to R217). While the tile is frozen, a command whose last
element was sent may complete; the others wait. -/
def Tile.cDone (x : Tile) (u : CmdUnit) (now : Nat) : Option CCmd :=
  match (x.cq u).running with
  | none => none
  | some c =>
    let done :=
      if c.op = opCfence then !x.frozen && (match c.fence with
        | some f => x.doneBefore now ((sylC c.syl).flags % 512) f
        | none => true)
      else if c.op = opCsig then !x.frozen
      else c.count ≤ c.nextElem && c.walks = 0 && c.holdUntil ≤ now && !(x.cq u).lines.any (·.cmd = c.serial)
    if done && c.flushAt.all (· ≤ now) && !x.flushHeld (c.flushes u) then some c else none

/-- The far tiles a completing copy command still signals. -/
def CCmd.farLeft (c : CCmd) : List Nat :=
  if c.wait.stgt < 2 then [] else (c.far.zipIdx.filter fun e => !c.tilesDone.contains e.2).map Prod.fst

/-- A copy command completes, and its signals are applied (R184, R186). -/
def State.endC (s : State) (t : Nat) (u : CmdUnit) (c : CCmd) : State :=
  let s := s.modTile t fun x =>
    let y := x.modCq u fun q => { q with cmds := q.cmds.filter (·.serial ≠ c.serial), lastDone := some s.now }
    let e : PendFault := { code := semOvf, slot := unitSlot u, bsq := true, cmd := true, epc := y.seq.pc, ebaddr := c.baddr, prog := c.nextElem }
    { y.signalLocal c.wait e with latch := true }
  c.farLeft.foldl (fun s v => s.sendIncrement t v c.wait.ssem (c.wait.sinc + 1)) s

/-- A copy command is through: its buffers are flushed and, for a release at system scope, the combiners are written back
and a zero-length read follows its writes on the host link; the command completes when that is back (R263, R268). -/
def State.completeC (s : State) (t : Nat) (u : CmdUnit) (c : CCmd) : State :=
  let f := sylC c.syl
  let s := s.flushWc t (c.flushes u)
  if (s.tile t).flushHeld (c.flushes u) then s else
  let (s, at_) := if c.op ≠ opCfence && f.scope = 4 then (s.writeBackAll fun _ => true).hostFlush t (2 ^ unitSlot u) else (s, none)
  match at_ with
  | some n => s.modCq t u fun q => q.modCmd c.serial fun c => { c with flushAt := some n }
  | none => s.endC t u c

/-- A command completes, and signals in queue order (R184). -/
def execCommandComplete (t : Nat) (u : CmdUnit) (s : State) : Out' :=
  if Config.tiles ≤ t then .fault (.noSuchUnit "COMMAND_COMPLETE" t)
  else
    let x := s.tile t
    match u with
    | .m => match x.mDone s.now with
      | some c => .next (s.setTile t (x.completeM c))
      | none => .refused (.notEnabled "COMMAND_COMPLETE")
    | u => match x.cDone u s.now with
      | some c => .next (s.completeC t u c)
      | none => .refused (.notEnabled "COMMAND_COMPLETE")

end Sys2Proof.Machine
end

