-- ==== Sys2Proof/Machine/Held.lean ====
section
/-! DEFINITION. The updates that wait for a line in motion (R359), and the accesses of agents that act in one step. -/
namespace Sys2Proof.Machine
open Sys2Proof

/-- A copy line that waited performs what it waited for. -/
def State.performHeldLine (s : State) (t : Nat) (u : CmdUnit) (id : Nat) : State :=
  let s := s.resumeLine t u id
  let x := s.tile t
  match (x.cq u).lines.find? (·.id = id) with
  | none => s
  | some l => match (x.cq u).cmd? l.cmd, x.lineWork u s.now l with
    | some c, .write j => s.performWrite t u c l j
    | some c, .back => s.performBack t u c l
    | _, _ => s

/-- An update that waited on a line in motion performs. -/
def State.performHeld (s : State) (w : Waiter) : State :=
  match w with
  | .acc q id _ =>
    let s := s.modAcc q id fun a => { a with stage := .timed }
    match s.acc? q id with
    | some a => s.actAcc q a
    | none => s
  | .lines t u ids => ids.foldl (fun s id => s.performHeldLine t u id) s
  | .wc t id => s.flushSome t (·.id = id)
  | _ => s

/-- The line slot `n` copied is done, or is the source's again: the updates that waited perform, in arrival order. -/
def State.releaseHeld (s : State) (n : Nat) : State :=
  match s.mig.find? (·.slot = n) with
  | none => s
  | some m => m.held.foldl State.performHeld (s.modSlot n fun m => { m with held := [] })

/-- An access made in one step meets the line slot `n` copies: the copy ends now (its time is open, R359), and the access
acts on a DONE line, after those that wait on it (log 113). -/
def State.settleLine (s : State) (n : Nat) : State :=
  match s.mig.find? (·.slot = n) with
  | none => s
  | some m => (if m.copying && m.phase = 0 && m.cause = 0 && !m.early then s.copyNow m else s).releaseHeld n

/-- A write that waits in place for a line in motion. -/
def State.homeWriteNow (s : State) (host poison checked : Bool) (pa key : Nat) (bs : List Byte) : State × MemRes Unit :=
  match s.homeWrite host poison checked pa key bs with
  | (s, .held k) => (s.settleLine k).homeWrite host poison checked pa key bs
  | r => r

/-- An atomic that waits in place for a line in motion. -/
def State.homeAtomicNow (s : State) (host sa : Bool) (pa w key : Nat) (o : AtomOp) (v : Nat) : State × MemRes Nat :=
  match s.homeAtomic host sa pa w key o v with
  | (s, .held k) => (s.settleLine k).homeAtomic host sa pa w key o v
  | r => r

/-- The same two at any target. -/
def State.writeTargetNow (s : State) (world : Nat) (poison : Bool) (tgt : Target) (key : Nat) (bs : List Byte) : State × MemRes Unit :=
  match s.writeTarget 0 world poison tgt key bs with
  | (s, .held k) => (s.settleLine k).writeTarget 0 world poison tgt key bs
  | r => r

def State.atomTargetNow (s : State) (world : Nat) (tgt : Target) (attr : PageAttr) (w : Nat) (o : AtomOp) (v : Nat) :
    State × MemRes Nat :=
  match s.atomTarget world tgt attr w o v with
  | (s, .held k) => (s.settleLine k).atomTarget world tgt attr w o v
  | r => r

end Sys2Proof.Machine
end

