-- ==== Sys2Proof/Machine/VdAccess.lean ====
section
/-! DEFINITION. Accesses the keeper and the bulk engines make for a VD, in its default context (R299, R307, R418, R421),
and firmware's own accesses by physical address under key ID 0 (R347, R356). -/
namespace Sys2Proof.Machine
open Sys2Proof

/-- The tile a waiter belongs to. -/
def Waiter.tile? : Waiter → Option Nat
  | .acc q _ _ => seqTile? q
  | .lines t _ _ => some t
  | .prefetch t _ _ _ => some t
  | .index t _ _ _ _ => some t
  | .wc t _ => some t
  | .bulk _ | .aperture _ | .pkt _ | .host _ _ => none

/-- An agent acting for a VD (R418). -/
def Vd.agent (v : Vd) : Agent := { die := v.home, quires := some (quiresOf v.quires) }

/-- The keeper's own view of a VD, for a dump: its accesses go under HWKEY (R421). -/
def Vd.own (v : Vd) : Vd := { v with hw := true }

/-- A DVA holds the keeper's own data: a journal, or a block it has built in the pool (R292, R296). -/
def Vd.keeps (v : Vd) (dva : Nat) : Bool :=
  (v.jrnl0 ≤ dva && dva < v.jrnl0 + 2 ^ 20) || (v.jrnl1 ≤ dva && dva < v.jrnl1 + 2 ^ 20) ||
  v.poolUse.any fun r => v.pool + r.1 ≤ dva && dva < v.pool + r.1 + r.2

/-- The attributes a keeper's access takes at a page: that of memory which holds its own data goes under the HWKEY of the VD's
default context, whatever the leaf says (R421). -/
def Vd.attr (v : Vd) (dva : Nat) (t : Target) (a : PageAttr) : PageAttr :=
  if t.isMem && (v.hw || v.keeps dva) then { a with keyId := v.ctx.hwkey.toNat } else a

/-- One line part of an access for a VD, translated and checked. -/
def State.vdTarget (s : State) (v : Vd) (dva : Nat) (need : Need) : State × Except Nat (Target × PageAttr) :=
  if dva / 2 ^ 56 ≠ 0 then (s, .error canon)
  else match s.translateNow v.home v.vd v.ctx dva fun t a => (s.pageCheck v.agent v.world t (v.attr dva t a) need).isNone with
    | (s, .error c) => (s, .error c)
    | (s, .ok (t, a)) =>
      let a := v.attr dva t a
      match s.pageCheck v.agent v.world t a need with
      | some c => (s, .error c)
      | none => (s, .ok (t, a))

/-- What a peer answers a keeper's access that is made in one step: a fault of R400 or a loss, or none; free (log 61). -/
def State.peerOutcome (s : State) (codes : List Nat) : State × Option Nat :=
  ({ s with fresh := s.fresh + 1 }, codes[(Config.freeWord s.fresh).toNat % (codes.length + 1)]?)

/-- The faults a peer may answer with, and a loss. -/
abbrev peerFaults : List Nat := [perm, notPresent, keyMismatch, integrity, fabricLoss]

/-- The bytes a peer answers such a read with: its memory is the peer's, so they are free (log 61). -/
def State.peerBytes (s : State) : Nat → State × List Byte
  | 0 => (s, [])
  | n + 1 =>
    let b := Config.freeHostByte s.fresh
    let (s, t) := ({ s with fresh := s.fresh + 1 } : State).peerBytes n
    (s, b :: t)

/-- The lane source of the keeper sequencer that acts for a VD (R391). -/
def Vd.source (v : Vd) : Nat := 1152 + 2 * v.home + v.acting

/-- The queue a keeper's message leaves: Q0, Q1 or Q2, as a sequencer's own loads, stores and atomics do. -/
def keeperQueue : MsgOp → Nat
  | .write => 1
  | .atomic => 2
  | _ => 0

/-! ## Ways to a peer (R385) -/

def State.modFab (s : State) (f : Fabric → Fabric) : State := { s with fabric := f s.fabric }
/-- Raise a counter of R403. -/
def State.count (s : State) (off : Nat) : State := s.modFab fun f => { f with ctrs := bump f.ctrs off }

abbrev cTxNoRoute : Nat := 0x928

/-- The ways of a destination's spray list: its valid paths through trained ports, in order. -/
def Fabric.spray (f : Fabric) (dst : Nat) : List Way :=
  let r := f.routes.get {} dst
  if !r.dcfg.getLsbD 3 then []
  else (r.paths.filter fun w => w.getLsbD 31 && bitOf (bitsOf 19 16 w.toNat) f.ports).map fun w =>
    { port := bitsOf 19 16 w.toNat, vc := bitsOf 22 20 w.toNat, tag := bitsOf 15 0 w.toNat }

/-- A peer can be reached at all. -/
def State.reachable (s : State) (peer : Nat) : Bool := (s.sct.moorings.get {} peer).up && !(s.fabric.spray peer).isEmpty

/-- Send a keeper's message to a peer that can be reached; a peer that cannot gives FABRIC_LOSS at once (R385, R387). -/
def State.vdSend (s : State) (v : Vd) (pkg : Nat) (m : Message) (who : Option Waiter) : State × Except Nat Unit :=
  if s.reachable pkg then
    (s.submit pkg ((v.source + keeperQueue m.op) % 16) { m with world := v.world, origin := v.source } who, .ok ())
  else (s.count cTxNoRoute, .error fabricLoss)

/-- The same for an access made in one step: its outcome is free. -/
def State.vdSendNow (s : State) (v : Vd) (pkg : Nat) (m : Message) (codes : List Nat) : State × Except Nat Unit :=
  match s.vdSend v pkg m none with
  | (s, .error c) => (s, .error c)
  | (s, .ok ()) => match s.peerOutcome codes with
    | (s, some c) => (s, .error c)
    | (s, none) => (s, .ok ())

/-- Read a part; poisoned data raises POISON, as for a load. -/
def State.vdReadPart (s : State) (v : Vd) (p : AccPart) : State × Except Nat (List Byte) :=
  match s.vdTarget v p.addr .read with
  | (s, .error c) => (s, .error c)
  | (s, .ok (.peer pkg pa, a)) => match s.vdSendNow v pkg { op := .readReq, keyId := a.keyId, len := p.len, pa := pa } (poisonF :: peerFaults) with
    | (s, .error c) => (s, .error c)
    | (s, .ok ()) => let (s, bs) := s.peerBytes p.len; (s, .ok bs)
  | (s, .ok (t, a)) =>
    match (s.spend v.vd (some t)).readTarget v.world t a.keyId p.len with
    | (s, .ok (bs, false)) => (s, .ok bs)
    | (s, .ok (_, true)) => (s, .error poisonF)
    | (s, .fault c) => (s, .error c)
    | (s, .held _) => (s, .error notPresent)

/-- Line parts of a longer run; the fuel bounds their number. -/
def lineParts : Nat → Nat → Nat → List AccPart
  | 0, _, _ => []
  | fuel + 1, a, n =>
    if n = 0 then []
    else
      let k := min n (64 - a % 64)
      { addr := a, len := k } :: lineParts fuel (a + k) (n - k)

/-- The lines a run of `n` bytes at `a` touches, as parts. -/
def runParts (a n : Nat) : List AccPart := lineParts (n / 64 + 2) a n

def State.vdReadParts (s : State) (v : Vd) : List AccPart → List Byte → State × Except Nat (List Byte)
  | [], acc => (s, .ok acc)
  | p :: t, acc =>
    match s.vdReadPart v p with
    | (s, .ok bs) => s.vdReadParts v t (acc ++ bs)
    | (s, .error c) => (s, .error c)

/-- Read `n` bytes at a DVA of a VD's default context. -/
def State.vdRead (s : State) (v : Vd) (dva n : Nat) : State × Except Nat (List Byte) := s.vdReadParts v (runParts dva n) []

/-- Write a part. -/
def State.vdWritePart (s : State) (v : Vd) (a : Nat) (bs : List Byte) : State × Except Nat Unit :=
  match s.vdTarget v a .write with
  | (s, .error c) => (s, .error c)
  | (s, .ok (.peer pkg pa, at_)) =>
    s.vdSendNow v pkg { op := .write, keyId := at_.keyId, len := bs.length, pa := pa, data := bs } peerFaults
  | (s, .ok (t, at_)) =>
    match (s.spend v.vd (some t)).writeTargetNow v.world false t at_.keyId bs with
    | (s, .ok ()) => (s, .ok ())
    | (s, .fault c) => (s, .error c)
    | (s, .held _) => (s, .error notPresent)

def State.vdWriteParts (s : State) (v : Vd) : List AccPart → List Byte → State × Except Nat Unit
  | [], _ => (s, .ok ())
  | p :: t, bs =>
    match s.vdWritePart v p.addr (bs.take p.len) with
    | (s, .ok ()) => s.vdWriteParts v t (bs.drop p.len)
    | (s, .error c) => (s, .error c)

/-- Write bytes at a DVA of a VD's default context. -/
def State.vdWrite (s : State) (v : Vd) (dva : Nat) (bs : List Byte) : State × Except Nat Unit :=
  s.vdWriteParts v (runParts dva bs.length) bs

/-- The same, the outcome of the write not used. -/
def State.vdPut (s : State) (v : Vd) (dva : Nat) (bs : List Byte) : State := (s.vdWrite v dva bs).1

/-- The function code and operands of an atomic's message (R390): `sa` says that it goes to the controller of its home. -/
def AtomOp.message (o : AtomOp) (w : Nat) (sa : Bool) (key pa x : Nat) : Message :=
  let code := match o with
    | .fn f => f
    | .cas _ => 9
  let args := match o with
    | .fn _ => bytesOf w x
    | .cas c => bytesOf w c ++ bytesOf w x
  { op := .atomic, fn := code + (if w = 8 then 16 else 0) + (if sa then 32 else 0), keyId := key, len := w, pa := pa, data := args }

/-- What an atomic asks of its page (R113). -/
def AtomOp.need (o : AtomOp) (aligned : Bool) : Need :=
  .atomic aligned (match o with | .fn 0 | .fn 8 | .cas _ => true | _ => false)

/-- A 64-bit system-scope atomic at a DVA of a VD (R289): the old value. -/
def State.vdAtomic (s : State) (v : Vd) (dva : Nat) (o : AtomOp) (x : Nat) : State × Except Nat Nat :=
  match s.vdTarget v dva (o.need (dva % 8 = 0)) with
  | (s, .error c) => (s, .error c)
  | (s, .ok (.peer pkg pa, a)) =>
    match s.vdSendNow v pkg (o.message 8 a.sa a.keyId pa x) (poisonF :: atomicType :: peerFaults) with
    | (s, .error c) => (s, .error c)
    | (s, .ok ()) => let (s, bs) := s.peerBytes 8; (s, .ok (natOf bs))
  | (s, .ok (t, a)) =>
    match (s.spend v.vd (some t)).atomTargetNow v.world t a 8 o x with
    | (s, .ok old) => (s, .ok old)
    | (s, .fault c) => (s, .error c)
    | (s, .held _) => (s, .error notPresent)

/-- The same atomic for one who waits: none where a peer has been asked (R400). -/
def State.vdAskAtomic (s : State) (v : Vd) (dva : Nat) (o : AtomOp) (x : Nat) (who : Waiter) : State × Except Nat (Option Nat) :=
  match s.vdTarget v dva (o.need (dva % 8 = 0)) with
  | (s, .ok (.peer pkg pa, a)) => match s.vdSend v pkg (o.message 8 a.sa a.keyId pa x) (some who) with
    | (s, .error c) => (s, .error c)
    | (s, .ok ()) => (s, .ok none)
  | _ => match s.vdAtomic v dva o x with
    | (s, .ok n) => (s, .ok (some n))
    | (s, .error c) => (s, .error c)

/-- A 64-bit word of a VD, or the fault of reading it. -/
def State.vdWord (s : State) (v : Vd) (dva : Nat) : State × Except Nat Nat :=
  match s.vdRead v dva 8 with
  | (s, .ok bs) => (s, .ok (natOf bs))
  | (s, .error c) => (s, .error c)

/-- The same for one who waits: none where a peer has been asked (R400). -/
def State.vdAskWord (s : State) (v : Vd) (dva : Nat) (who : Waiter) : State × Except Nat (Option Nat) :=
  match s.vdTarget v dva .read with
  | (s, .ok (.peer pkg pa, a)) =>
    match s.vdSend v pkg { op := .readReq, keyId := a.keyId, len := 8, pa := pa } (some who) with
    | (s, .error c) => (s, .error c)
    | (s, .ok ()) => (s, .ok none)
  | _ => match s.vdWord v dva with
    | (s, .ok n) => (s, .ok (some n))
    | (s, .error c) => (s, .error c)

/-- A firmware read by physical address under a key. -/
def State.paRead (s : State) (key pa n : Nat) : State × Except Nat (List Byte) :=
  (runParts pa n).foldl (fun (r : State × Except Nat (List Byte)) p =>
    match r with
    | (s, .ok acc) =>
      match s.homeRead false p.addr p.len key with
      | (s, .ok (bs, false)) => (s, .ok (acc ++ bs))
      | (s, .ok (_, true)) => (s, .error poisonF)
      | (s, .fault c) => (s, .error c)
      | (s, .held _) => (s, .error notPresent)
    | r => r) (s, .ok [])

/-- A firmware write by physical address under a key. -/
def State.paWrite (s : State) (key pa : Nat) (bs : List Byte) : State :=
  (runParts pa bs.length).foldl (fun (s : State) p =>
    (s.homeWriteNow false false false p.addr key ((bs.drop (p.addr - pa)).take p.len)).1) s

end Sys2Proof.Machine
end

