-- ==== Sys2Proof/Machine/Events.lean ====
section
/-! DEFINITION. What the keeper writes of its decisions: trace records and the status block (R279, R301, R312), event
queues (R338), journal entries (R296), and the conditions these raise on interrupt vectors (R434). -/
namespace Sys2Proof.Machine
open Sys2Proof

/-- The team number of a record without a team. -/
abbrev noTeam : Nat := 0xFFFFFFFF

/-- Reasons of R295 beyond the fault codes. -/
abbrev cancelled : Nat := 0x80
abbrev dieResetReason : Nat := 0x81
abbrev noTier : Nat := 0x82
abbrev noFit : Nat := 0x83
abbrev dependency : Nat := 0x84

/-- Kinds of trace records (R279). -/
inductive RecKind where
  | accept | place | preempt | resume | reject | complete
  deriving DecidableEq, Repr

def RecKind.code : RecKind → Nat
  | .accept => 1
  | .place => 2
  | .preempt => 3
  | .resume => 4
  | .reject => 5
  | .complete => 6

/-! ## Interrupt conditions (R434) -/

/-- Vectors of a function (R431, R438). -/
def vectorsOf (fn : Nat) : Nat := if fn = 0 then 3 else 65

/-- A condition arises on a vector of function `fn` (0 the physical function): its message is posted for the moment R434
gives. COAL as it stands governs this condition, and those before it keep their moment; a function has no vector for a queue
above 63. -/
def State.condition (s : State) (fn vec : Nat) : State :=
  if vectorsOf fn ≤ vec then s else
  let f := s.vf fn
  let v := f.vectors.get {} vec
  let ticks := f.coal.toNat % 2 ^ 16
  let cnt := max 1 (f.coal.toNat / 2 ^ 16 % 256)
  let v' : Vector_ := if v.count = 0 then { v with count := 1, dueAt := s.tick + ticks, need := cnt }
    else { v with count := v.count + 1, dueAt := min v.dueAt (s.tick + ticks), need := min v.need cnt }
  let s := s.modVf fn fun f => { f with vectors := f.vectors.set {} vec v' }
  if v'.dueAt ≤ s.tick || v'.need ≤ v'.count then s.postIn 0 (.msixSend fn vec)
  else if v.count = 0 || v'.dueAt < v.dueAt then s.postTick (s.tick + ticks) (.msixSend fn vec)
  else s

/-! ## The status block (R301) -/

/-- The bytes of a VD's status block. -/
def Vd.statusBytes (v : Vd) : List Byte :=
  bytesOf 8 (v.st + v.lastRefusal * 256) ++ bytesOf 8 v.qeff ++ bytesOf 8 v.trnext ++ bytesOf 8 v.vt ++
  ((List.range 6).flatMap fun k => bytesOf 8 (v.cnt.get 0 (k + 1))) ++ bytesOf 8 v.cntadj ++
  bytesOf 8 0 ++ bytesOf 8 0 ++ bytesOf 8 0 ++ bytesOf 8 0 ++ bytesOf 8 0

/-- Write the status block of a VD. -/
def State.writeStatus (s : State) (v : Vd) : State := s.vdPut v v.status v.statusBytes

/-- The same, as the VD stands in the state. -/
def State.putStatus (s : State) (vd : Nat) : State :=
  match s.vd? vd with
  | some v => s.writeStatus v
  | none => s

/-! ## Trace records (R279, R312) -/

/-- The 32 bytes of a record. -/
def recordBytes (time : Nat) (k : RecKind) (prio vd team subj data : Nat) : List Byte :=
  bytesOf 8 time ++ bytesOf 1 k.code ++ bytesOf 1 prio ++ bytesOf 2 vd ++ bytesOf 4 team ++ bytesOf 8 subj ++ bytesOf 8 data

/-- Where record `n` of a VD lies. -/
def Vd.recordAt (v : Vd) (n : Nat) : Nat := v.trbase + 32 * (n % 2 ^ v.trlog2)

/-- SUBJ of a packet. -/
def subjOf (qnum idx : Nat) : Nat := idx % 2 ^ 32 + qnum % 2 ^ 16 * 2 ^ 32

/-- Write a record by the VD `v`, which need not be active (R300): the record, TRNEXT, its count and the status block. The
fault of writing it, if one. -/
def State.traceBy (s : State) (v : Vd) (k : RecKind) (prio team subj data : Nat) : State × Vd × Option Nat :=
  let (s1, r) := s.vdWrite v (v.recordAt v.trnext) (recordBytes s.tick k prio v.vd team subj data)
  let v1 := { v with trnext := v.trnext + 1, cnt := v.cnt.set 0 k.code (v.cnt.get 0 k.code + 1) }
  (s1.writeStatus v1, v1, match r with | .ok () => none | .error c => some c)

/-- Write a record of an active VD; where it could not be written, the fault and its DVA. -/
def State.traceAt (s : State) (vd : Nat) (k : RecKind) (prio team subj data : Nat) : State × Option (Nat × Nat) :=
  match s.vd? vd with
  | none => (s, none)
  | some v =>
    let (s1, v1, f) := s.traceBy v k prio team subj data
    (s1.modVd vd fun x => { x with trnext := v1.trnext, cnt := v1.cnt }, f.map fun c => (c, v.recordAt v.trnext))

/-- Write a record of an active VD. -/
def State.trace (s : State) (vd : Nat) (k : RecKind) (prio team subj data : Nat) : State := (s.traceAt vd k prio team subj data).1

/-! ## Event queues (R338) -/

/-- Whose event queue. -/
inductive EvQueue where
  | vd (v : Nat)
  | dva (v a : Nat)            -- one at a DVA of a VD's default context (R356)
  | pf
  deriving DecidableEq, Repr

/-- Read `n` bytes at an offset of an event queue. -/
def State.evRead (s : State) (q : EvQueue) (off n : Nat) : State × Except Nat (List Byte) :=
  match q with
  | .pf => s.paRead 0 (s.pfEvq + off) n
  | .vd v => match s.vd? v with
    | some x => s.vdRead x (x.evq + off) n
    | none => (s, .error notPresent)
  | .dva v a => match s.vd? v with
    | some x => s.vdRead x (a + off) n
    | none => (s, .error notPresent)

/-- Write bytes there; whether all of them were written. -/
def State.evWrite (s : State) (q : EvQueue) (off : Nat) (bs : List Byte) : State × Bool :=
  match q with
  | .pf => (s.paWrite 0 (s.pfEvq + off) bs, true)
  | .vd v => match s.vd? v with
    | some x => match s.vdWrite x (x.evq + off) bs with
      | (s, .ok ()) => (s, true)
      | (s, .error _) => (s, false)
    | none => (s, false)
  | .dva v a => match s.vd? v with
    | some x => match s.vdWrite x (a + off) bs with
      | (s, .ok ()) => (s, true)
      | (s, .error _) => (s, false)
    | none => (s, false)

/-- The function whose vector 0 an entry of a queue is a condition on (R434). -/
def State.evVector (s : State) (q : EvQueue) : Option Nat :=
  match q with
  | .vd v => some v
  | .pf => some 0
  | .dva v a => if (s.vd? v).any fun x => x.evq = a then some v else none

/-- The 32 bytes of an entry. -/
def eventBytes (time kind code vd team data data2 : Nat) : List Byte :=
  bytesOf 8 time ++ bytesOf 1 kind ++ bytesOf 1 code ++ bytesOf 2 vd ++ bytesOf 4 team ++ bytesOf 8 data ++ bytesOf 8 data2

/-- Post an event: the entry, then PROD, which is the condition on vector 0; DROPPED where the queue takes none; nothing
where its header cannot be read. -/
def State.postEvent (s : State) (q : EvQueue) (kind code vd team data data2 : Nat) : State :=
  match s.evRead q 0 32 with
  | (s, .error _) => s
  | (s, .ok h) =>
    let prod := natOf (h.take 8)
    let cons := natOf ((h.drop 8).take 8)
    let log2n := natOf ((h.drop 16).take 8) % 32
    let dropped := natOf (h.drop 24)
    if log2n < 4 ∨ 16 < log2n ∨ 2 ^ log2n ≤ (2 ^ 64 + prod - cons) % 2 ^ 64 then (s.evWrite q 24 (bytesOf 8 (dropped + 1))).1
    else
      let s := (s.evWrite q (64 + 32 * (prod % 2 ^ log2n)) (eventBytes s.tick kind code vd team data data2)).1
      match s.evWrite q 0 (bytesOf 8 (prod + 1)) with
      | (s, true) => match s.evVector q with
        | some f => s.condition f 0
        | none => s
      | (s, false) => s

/-- Kinds of events (R338, R353, R363, R377, R378, R427). -/
abbrev evFault : Nat := 1
abbrev evDumpDone : Nat := 2
abbrev evDumpFail : Nat := 3

/-- A FAULT event about a word the keeper cannot reach (R278, R282). -/
def State.postWordFault (s : State) (vd code dva : Nat) : State := s.postEvent (.vd vd) evFault code vd noTeam dva 0

/-! ## Journal entries (R296) -/

/-- The state a journal entry records. -/
def PktSt.code : PktSt → Nat
  | .accepted => 1
  | .started => 2
  | .performed => 3
  | .reported => 4

/-- The 128 bytes of an entry. -/
def Pkt.entry (p : Pkt) : List Byte :=
  (p.words.flatMap fun w => bytesOf 8 w.toNat) ++ bytesOf 8 (p.idx % 2 ^ 32 + p.qnum * 2 ^ 32) ++ bytesOf 8 p.st.code ++
  bytesOf 8 p.top ++ bytesOf 8 (if (p.words.getD 0 0#64).toNat % 256 = 3 then p.old.toNat else p.bytes) ++
  bytesOf 8 0 ++ bytesOf 8 0 ++ bytesOf 8 0 ++ bytesOf 8 0

/-- The packet of queue `q` and index `i` of a VD. -/
def Vd.pkt? (v : Vd) (q i : Nat) : Option Pkt := v.jrnl.find? fun p => p.qnum = q && p.idx = i

def State.pkt? (s : State) (p : PktId) : Option (Vd × Pkt) :=
  match s.vd? p.vd with
  | some v => (v.pkt? p.q p.idx).map fun x => (v, x)
  | none => none

/-- Change an entry, in the keeper and in both journals. -/
def State.modPkt (s : State) (p : PktId) (f : Pkt → Pkt) : State :=
  match s.pkt? p with
  | none => s
  | some (v, x) =>
    let y := f x
    let s := s.modVd p.vd fun v => { v with jrnl := v.jrnl.map fun x => if x.qnum = p.q && x.idx = p.idx then y else x }
    if y.entry = x.entry then s
    else (s.vdPut v (v.jrnl0 + 128 * y.slot) y.entry).vdPut v (v.jrnl1 + 128 * y.slot) y.entry

/-- The queue of a VD with a number. -/
def Vd.queue? (v : Vd) (q : Nat) : Option Umq := v.queues.find? (·.qnum = q)
def State.modQueue (s : State) (vd q : Nat) (f : Umq → Umq) : State :=
  s.modVd vd fun v => { v with queues := v.queues.map fun x => if x.qnum = q then f x else x }

/-- PRIO of a packet: its queue's while it has not started (R282). -/
def Vd.prioOf (v : Vd) (x : Pkt) : Nat :=
  match x.st with
  | .accepted => ((v.queue? x.qnum).map (·.prio)).getD 0
  | _ => x.prio

/-- A REJECT record of a queue, and the queue closed (R282). -/
def State.closeQueue (s : State) (vd q : Nat) : State :=
  match s.vd? vd with
  | none => s
  | some v => match v.queue? q with
    | none => s
    | some u => (s.trace vd .reject u.prio noTeam 0 vdcfg).modQueue vd q fun u => { u with openQ := false }

end Sys2Proof.Machine
end

