-- ==== Sys2Proof/Machine/Slh.lean ====
section
/-! DEFINITION. Verification of SLH-DSA-SHA2-128f signatures (FIPS 205; R17, R95): n = 16, h = 66, d = 22, h' = 3, a = 6, k = 33,
w = 16. A public key is PK.seed ‖ PK.root, a signature R ‖ the FORS signature ‖ the hypertree signature. -/
namespace Sys2Proof.Machine
open Sys2Proof

/-! ## Addresses and the keyed hash -/

/-- The kinds of an address. -/
inductive SlhKind where
  | wotsHash | wotsPk | tree | forsTree | forsRoots
  deriving DecidableEq, Repr

def SlhKind.code : SlhKind → Nat
  | .wotsHash => 0
  | .wotsPk => 1
  | .tree => 2
  | .forsTree => 3
  | .forsRoots => 4

/-- An address: layer, tree, kind, and its three words: key pair, chain or height, hash or index. -/
structure SlhAdrs where
  layer : Nat
  tree : Nat
  kind : SlhKind
  pair : Nat := 0
  mid : Nat := 0
  low : Nat := 0
  deriving DecidableEq, Repr

/-- The compressed address of 22 bytes. -/
def SlhAdrs.bytes (a : SlhAdrs) : List Byte :=
  bigBytes 1 a.layer ++ bigBytes 8 a.tree ++ bigBytes 1 a.kind.code ++ bigBytes 4 a.pair ++ bigBytes 4 a.mid ++ bigBytes 4 a.low

/-- The keyed hash of the scheme: F, H and T of FIPS 205 alike. -/
def slhHash (seed : List Byte) (a : SlhAdrs) (m : List Byte) : List Byte :=
  (shaBytes (seed ++ List.replicate 48 0#8 ++ a.bytes ++ m)).take 16

/-- `n` digits of `b` bits from a string, the highest first. -/
def slhDigits (b n : Nat) (x : List Byte) : List Nat :=
  (List.range n).map fun i => bigNat x / 2 ^ (8 * x.length - b * (i + 1)) % 2 ^ b

/-! ## Chains and trees -/

/-- A chain of `n` steps from step `i` on. -/
def slhChain (seed : List Byte) (a : SlhAdrs) : Nat → Nat → List Byte → List Byte
  | 0, _, x => x
  | n + 1, i, x => slhChain seed a n (i + 1) (slhHash seed { a with low := i } x)

/-- The one-time public key a signature of 35 values gives for a 16-byte message. -/
def wotsKey (seed : List Byte) (a : SlhAdrs) (sig m : List Byte) : List Byte :=
  let d := slhDigits 4 32 m
  let sum := (d.map fun x => 15 - x).sum
  let ends := ((d ++ slhDigits 4 3 (bigBytes 2 (sum * 16))).zip (pieces_ 16 35 sig)).zipIdx.map fun ((x, v), i) =>
    slhChain seed { a with kind := .wotsHash, mid := i } (15 - x) x v
  slhHash seed { a with kind := .wotsPk } ends.flatten

/-- Climb an authentication path from the node of index `i` at height `t`; `low` is the index's place in its address. -/
def slhClimb (seed : List Byte) (a : SlhAdrs) : List (List Byte) → Nat → Nat → List Byte → List Byte
  | [], _, _, x => x
  | y :: ys, t, i, x =>
    let a := { a with mid := t + 1, low := i / 2 }
    slhClimb seed a ys (t + 1) (i / 2) (slhHash seed a (if i % 2 = 0 then x ++ y else y ++ x))

/-- The root one layer's signature gives: 35 chain values and a path of 3. -/
def xmssRoot (seed : List Byte) (layer tree leaf : Nat) (sig m : List Byte) : List Byte :=
  let a : SlhAdrs := { layer := layer, tree := tree, kind := .tree }
  slhClimb seed a (pieces_ 16 3 (sig.drop 560)) 0 leaf (wotsKey seed { a with pair := leaf } (sig.take 560) m)

/-- The root of the hypertree: its layers from the bottom, 608 bytes each. -/
def treeRoot (seed : List Byte) : List (List Byte) → Nat → Nat → Nat → List Byte → List Byte
  | [], _, _, _, x => x
  | y :: ys, layer, tree, leaf, x => treeRoot seed ys (layer + 1) (tree / 8) (tree % 8) (xmssRoot seed layer tree leaf y x)

/-- The public key of the few-time signature: 33 trees, each a value and a path of 6. -/
def forsKey (seed : List Byte) (tree leaf : Nat) (sig md : List Byte) : List Byte :=
  let a : SlhAdrs := { layer := 0, tree := tree, kind := .forsTree, pair := leaf }
  let roots := ((slhDigits 6 33 md).zip (pieces_ 112 33 sig)).zipIdx.map fun ((x, v), i) =>
    let j := 64 * i + x
    slhClimb seed a (pieces_ 16 6 (v.drop 16)) 0 j (slhHash seed { a with low := j } (v.take 16))
  slhHash seed { a with kind := .forsRoots } roots.flatten

/-! ## Verification -/

/-- MGF1 with SHA-256, the first 34 bytes. -/
def slhMgf (x : List Byte) : List Byte := (shaBytes (x ++ bigBytes 4 0) ++ shaBytes (x ++ bigBytes 4 1)).take 34

/-- The signature is one of the message under the public key, with an empty context (R95). -/
def slhVerify (pk m sig : List Byte) : Bool :=
  let seed := pk.take 16
  let r := sig.take 16
  let dig := slhMgf (r ++ seed ++ shaBytes (r ++ pk ++ ([0#8, 0#8] ++ m)))
  let tree := bigNat (slice dig 25 8) % 2 ^ 63
  let leaf := bigNat (slice dig 33 1) % 8
  let top := treeRoot seed (pieces_ 608 22 (sig.drop 3712)) 0 tree leaf (forsKey seed tree leaf (slice sig 16 3696) (dig.take 25))
  pk.length = 32 && sig.length = 17088 && top = pk.drop 16

end Sys2Proof.Machine
end

