-- ==== Sys2Proof/Machine/Images.lean ====
section
/-! DEFINITION. Images (R94 to R96, R423, R424): the checks of the measured loader, and what loading puts into a tile
(R20, R30, R34, R35, R55, R124, R367, R416). -/
namespace Sys2Proof.Machine
open Sys2Proof

/-! ## The image itself (R94 to R96) -/

/-- Bytes of the colophon (R95). -/
abbrev colophonBytes : Nat := 17168

/-- The header limits of R94 and the records' of R96. -/
def headerOk (h : List Byte) : Bool :=
  let col := field h 64 4
  let inside (off len : Nat) : Bool := field h off 4 + len ≤ col
  let ctl := field h 28 4
  let bnd := field h 36 4
  let con := field h 44 4
  let w := field h 8 2
  let ht := field h 10 2
  h.length = 128 &&
  field h 0 4 = 0x49584854 && field h 4 2 = 1 && (field h 6 1 = 4 || field h 6 1 = 6) && field h 7 1 ≤ 1 &&
  1 ≤ w && w ≤ 32 && 1 ≤ ht && ht ≤ 32 &&
  field h 12 4 % 64 = 0 && field h 12 4 ≤ 0x200000 && field h 16 4 < 16384 &&
  (if field h 7 1 = 1 then field h 20 4 < 16384 else field h 20 4 = 0xFFFFFFFF) &&
  ctl % 4 = 0 && ctl ≤ 0x10000 && bnd % 8 = 0 && bnd ≤ 0x30000 && con % 4 = 0 && con ≤ 0x4000 &&
  inside 24 ctl && inside 32 bnd && inside 40 con && inside 48 (16 * field h 52 4) && inside 56 (4 * field h 60 4) &&
  allZero (h.drop 68)

/-- The data record of 16 bytes; none where it breaks a limit. R96 names the writes outside memories or LIVE; source bytes beyond
COLOFF and a zero word that is not zero fail it alike: DESIGN CHOICE (log 99). -/
def dataRecord (img : List Byte) (live col : Nat) (r : List Byte) : Option (Nat × List Byte) :=
  let off := field r 0 4
  let len := field r 4 4
  let src := field r 8 4
  if field r 12 4 = 0 ∧ off + len ≤ live ∧ src + len ≤ col then some (off, slice img src len) else none

/-- The contents a plain image gives a tile, its header checked; none where a record breaks R96. -/
def contents (img : List Byte) : Option Image :=
  let live := field img 12 4
  let datas := (pieces_ 16 (field img 52 4) (img.drop (field img 48 4))).map (dataRecord img live (field img 64 4))
  let sems := (pieces_ 4 (field img 60 4) (img.drop (field img 56 4))).map fun r => (field r 0 2, field r 2 2)
  if datas.any (·.isNone) || sems.any (fun e => 256 ≤ e.1) then none
  else some
    { profile4 := field img 6 1 = 4
      teamw := field img 8 2
      teamh := field img 10 2
      live := live
      entry := field img 16 4
      resume := if field img 7 1 = 1 then some (field img 20 4) else none
      ctl := (pieces_ 4 (field img 28 4 / 4) (img.drop (field img 24 4))).map fun b => BitVec.ofNat 32 (natOf b)
      bnd := (pieces_ 8 (field img 36 4 / 8) (img.drop (field img 32 4))).map fun b => BitVec.ofNat 64 (natOf b)
      con := (pieces_ 4 (field img 44 4 / 4) (img.drop (field img 40 4))).map fun b => BitVec.ofNat 32 (natOf b)
      dat := datas.filterMap id
      sems := sems
      digest := hashOf (slice img (field img 64 4 + 16) 32) }

/-- The colophon of R95 with its DIGEST and SIG, signed by a key of `signers`; the key itself is not in the image (log 119). -/
def colophonOk (img : List Byte) (signers : List (BitVec 256)) : Bool :=
  let off := field img 64 4
  let c := slice img off colophonBytes
  let signer := hashOf (slice c 48 32)
  c.length = colophonBytes && field c 0 4 = 0x43584854 && field c 4 2 = 1 && field c 6 2 = 0 &&
  field c 8 4 = colophonBytes && field c 12 4 = 0 &&
  hashOf (slice c 16 32) = sha256 (img.take off) && signers.contains signer &&
  sha256 (Config.signerKey signer) = signer && slhVerify (Config.signerKey signer) (c.take 80) (c.drop 80)

/-- The checks of R96 on a plain image, whole. A colophon whose own format is wrong (R95) fails with INTEGRITY: DESIGN CHOICE
(log 99). -/
def checkImage (img : List Byte) (signers : List (BitVec 256)) : Except Nat Image :=
  if !headerOk (img.take 128) then .error illegalEnc
  else match contents img with
    | none => .error illegalEnc
    | some i => if colophonOk img signers then .ok i else .error integrity

/-! ## The measured loader (R424) -/

def State.world? (s : State) (w : Nat) : Option World := s.sct.worlds.get none w

/-- Take an image's bytes for world `w`: a sealed one is opened with its image key (R423), a plain one needs
POLICY.PLAIN (R424); then R96. The image, or the reason of R96. -/
def State.takeImage (s : State) (w : Nat) (bs : List Byte) : Except Nat Image :=
  match s.world? w with
  | none => .error integrity
  | some x =>
    match field bs 0 4 with
    | 0x49584854 => if x.plain then checkImage bs x.signers else .error integrity
    | 0x53584854 =>
      let h := bs.take 64
      let len := field h 8 4
      if field h 4 2 ≠ 1 ∨ field h 6 1 ≠ w then .error integrity
      else match gcmOpen (hashBytes (kdf x.wk "IMAGE" (slice h 16 16))) (slice h 16 12) h (slice bs 64 len) (slice bs (64 + len) 16) with
        | none => .error integrity
        | some inner => checkImage inner x.signers
    | _ => .error illegalEnc

/-- The bytes an image takes: from its header, the colophon's end or the envelope's. -/
def imageLength (h : List Byte) : Nat :=
  match field h 0 4 with
  | 0x49584854 => field h 64 4 + colophonBytes
  | 0x53584854 => field h 8 4 + 80
  | _ => 128

/-- Read and check the image at a DVA of a VD (R96, R424): a fault of the read fails it with that fault's code. -/
def State.readImage (s : State) (v : Vd) (dva : Nat) : State × Except Nat Image :=
  match s.vdRead v dva 128 with
  | (s, .error c) => (s, .error c)
  | (s, .ok h) =>
    match s.vdRead v dva (imageLength h) with
    | (s, .error c) => (s, .error c)
    | (s, .ok bs) => (s, s.takeImage v.world bs)

/-- Extend the chain of a world by a measured image (R424). -/
def State.measure (s : State) (w : Nat) (digest : BitVec 256) : State :=
  match s.world? w with
  | none => s
  | some x =>
    let m := sha256 (hashBytes x.mchain ++ hashBytes digest)
    { s with sct := { s.sct with worlds := s.sct.worlds.set none w (some { x with mchain := m }) } }

/-! ## Loading a tile -/

/-- A list put into sparse storage from index 0. -/
def fillFrom [DecidableEq α] (d : α) (l : List α) : NMap α := l.zipIdx.filterMap fun (v, i) => if v = d then none else some (i, v)

/-- The logical tile table of a team placed on `tiles` (R34). -/
def tileTable (tiles : List Nat) : NMap (BitVec 16) := tiles.zipIdx.map fun (p, i) => (i, BitVec.ofNat 16 (0x8000 + p))

/-- The control registers of a tile at a placement (R35, R367, R416). -/
def loadCsr (v : Vd) (l : Launch) (lt unit : Nat) : Csr :=
  let seeds := (List.range 8).foldl (fun m c => NMap.set 0#64 m c (seedOf l.lseed unit c)) []
  { ltile := BitVec.ofNat 10 lt
    teamsz := BitVec.ofNat 11 (l.image.teamw * l.image.teamh)
    unitidx := BitVec.ofNat 32 unit
    args := fillFrom 0#64 l.args
    evec := BitVec.ofNat 14 v.hvec
    ctx := { v.ctx with world := BitVec.ofNat 8 v.world }
    srstate := seeds
    lspext := BitVec.ofNat 22 l.image.live
    wdlimit := BitVec.ofNat 32 v.wdlimit
    lseed := l.lseed
    ltte := tileTable l.tiles }

/-- A tile as the measured loader leaves it for unit `unit` of a launch: its memories and registers, and nothing else. -/
def loadedTile (v : Vd) (l : Launch) (lt unit : Nat) : Tile :=
  let spad := l.image.dat.foldl (fun m (off, bs) => writeBytes m off bs) []
  { use := .loading
    seq := { csr := loadCsr v l lt unit, prog := fillFrom 0#32 l.image.ctl }
    spad := spad
    sem := l.image.sems.foldl (fun m (i, x) => NMap.set 0#16 m i (BitVec.ofNat 16 x)) []
    const := fillFrom 0#32 l.image.con
    bprog := fillFrom 0#64 l.image.bnd
    bsq := { profile4 := l.image.profile4 }
    team := l.team
    vd := l.vd
    launch := l.id }

end Sys2Proof.Machine
end

