-- ==== Sys2Proof/Machine/Packets.lean ====
section
/-! DEFINITION. User-mode queues (R274 to R278, R282 to R285, R296): acceptance, the order in which packets start, their
ends and reports, and the packets that need no control block: NOP, SIGNAL and WAITSIG. -/
namespace Sys2Proof.Machine
open Sys2Proof

/-! ## Packets (R276, R283) -/

def Pkt.word (p : Pkt) (i : Nat) : Nat := (p.words.getD i 0#64).toNat
abbrev Pkt.typ (p : Pkt) : Nat := p.word 0 % 256

abbrev tyNop : Nat := 0
abbrev tyLaunch : Nat := 1
abbrev tyCopy : Nat := 2
abbrev tySignal : Nat := 3
abbrev tyWaitsig : Nat := 4
abbrev tyCancel : Nat := 5
abbrev tyPhase : Nat := 6
abbrev tyCkpt : Nat := 7

/-- The packet keeps the zero words, multiples and limits of R276 and R283. -/
def Pkt.wellFormed (p : Pkt) : Bool :=
  let zero (l : List Nat) : Bool := l.all fun i => p.word i = 0
  p.word 0 % 2 ^ 63 / 256 = 0 && p.word 1 % 8 = 0 &&
  match p.typ with
  | 0 => zero [2, 3, 4, 5, 6, 7]
  | 1 => p.word 2 % 8 = 0
  | 2 => 1 ≤ p.word 4 && p.word 4 < 2 ^ 48 && zero [5, 6, 7]
  | 3 => p.word 2 % 8 = 0 && p.word 4 < 3 && zero [5, 6, 7]
  | 4 => p.word 2 % 8 = 0 && p.word 4 < 4 && zero [6, 7]
  | 5 | 6 => p.word 2 % 8 = 0 && zero [3, 4, 5, 6, 7]
  | 7 => p.word 2 % 8 = 0 && p.word 5 % 8 = 0 && p.word 3 ≠ 0 && p.word 4 / 256 = 2 && 2 ≤ p.word 4 % 256 &&
      p.word 4 % 256 ≤ 16 && zero [6, 7]
  | _ => false

def Pkt.id (p : Pkt) (vd : Nat) : PktId := { vd := vd, q := p.qnum, idx := p.idx }

/-- The step in which a packet starts. -/
def Pkt.start (p : Pkt) (vd : Nat) : Instr :=
  match p.typ with
  | 1 => .launch (p.id vd)
  | 2 => .copy (p.id vd)
  | 3 => .signal (p.id vd)
  | 4 => .waitsig (p.id vd)
  | 5 => .cancel (p.id vd)
  | 6 => .phase (p.id vd)
  | 7 => .ckpt (p.id vd)
  | _ => .nop (p.id vd)

/-! ## Dispatch order (R284, R304) -/

/-- The packet of a queue that may start next: every earlier one has started, a WAITSIG has completed, and for SIGNAL and
CKPT every earlier one has been reported. -/
def Vd.head? (v : Vd) (q : Nat) : Option Pkt :=
  let mine := v.jrnl.filter (·.qnum = q)
  match mine.find? (·.st = .accepted) with
  | none => none
  | some p =>
    if mine.any (fun x => x.typ = tyWaitsig && x.st = .started) then none
    else if (p.typ = tySignal || p.typ = tyCkpt) && mine.head? != some p then none
    else some p

/-- Put `x` into a list ordered by `le`, behind its equals. -/
def insertBy (le : α → α → Bool) (x : α) : List α → List α
  | [] => [x]
  | y :: l => if le y x then y :: insertBy le x l else x :: y :: l

/-- A list in the order `le`, equals as they stand. -/
def sortBy (le : α → α → Bool) (l : List α) : List α := l.foldl (fun acc x => insertBy le x acc) []

/-- Dispatch order: the higher PRIO first, then the lower QNUM (R304). -/
def Vd.before (v : Vd) (a b : Pkt) : Bool := v.prioOf b < v.prioOf a || (v.prioOf a = v.prioOf b && a.qnum ≤ b.qnum)

/-- Post the start of every packet that may start and is not posted yet, in dispatch order. -/
def State.kick (s : State) (vd : Nat) : State :=
  match s.vd? vd with
  | none => s
  | some v =>
    let heads := (v.queues.filterMap fun q => v.head? q.qnum).filter fun p => !p.queued
    (sortBy v.before heads).foldl (fun s p =>
      (s.modPkt (p.id vd) fun p => { p with queued := true }).postTick (max s.tick p.startTick) (p.start vd)) s

/-- A packet starts: its PRIO is settled, and later packets may start (R282, R284). -/
def State.startPkt (s : State) (p : PktId) (f : Pkt → Pkt) : State :=
  let prio := match s.pkt? p with
    | some (v, x) => v.prioOf x
    | none => 0
  (s.modPkt p fun x => f { x with st := .started, prio := prio, startTick := s.tick }).kick p.vd

/-- The oldest unreported packet of a queue. -/
def Vd.oldest? (v : Vd) (q : Nat) : Option Pkt := v.jrnl.find? (·.qnum = q)

/-- Post the report of a queue's oldest packet, once its work has ended (R278). -/
def State.postReport (s : State) (vd q : Nat) : State :=
  match s.vd? vd with
  | none => s
  | some v => match v.oldest? q with
    | some p => if p.st = .performed then s.postTick (max s.tick p.reportAt) (.completionReport (p.id vd)) else s
    | none => s

/-- A block the keeper has read lies at or below block `b`: the graphs, phases and jobs nest three deep (R286). -/
def Vd.under (v : Vd) (b : Nat) (k : Block) : Bool :=
  let up (d : Nat) : Nat := ((v.blocks.find? (·.dva = d)).map (·.parent)).getD 0
  k.dva = b || k.parent = b || up k.parent = b

/-- The work of a packet ends with a reason, DIE_RESET where what it names is lost (R297); its report follows from tick `at_`
on, in index order (R278, R280). -/
def State.endPktAt (s : State) (p : PktId) (reason at_ : Nat) : State :=
  match s.pkt? p with
  | none => s
  | some (v, x) =>
    if x.st = .performed || x.st = .reported then s
    else
      let s := if x.lost && x.top ≠ 0 then s.modVd p.vd fun v => { v with blocks := v.blocks.filter fun k => !v.under x.top k } else s
      let s := s.modPkt p fun x =>
        { x with
          prio := v.prioOf x, st := .performed, reason := if x.lost then dieResetReason else reason, reportAt := at_, queued := true }
      let s := s.kick p.vd
      if (v.oldest? p.q).any (·.idx = p.idx) then s.postReport p.vd p.q else s

/-- The same, the report one tick on (R280). -/
def State.endPkt (s : State) (p : PktId) (reason : Nat) : State := s.endPktAt p reason (s.tick + 1)

/-- A packet that waits for its start step. -/
def State.starting (s : State) (name : String) (p : PktId) (typ : Nat) (f : Vd → Pkt → Out') : Out' :=
  match s.pkt? p with
  | none => .refused (.notEnabled name)
  | some (v, x) =>
    if x.st = .accepted && x.queued && x.typ = typ && x.startTick ≤ s.tick then f v x else .refused (.notEnabled name)

/-- WAITSIGs of a VD read their objects again (R285). -/
def State.pollWaits (s : State) (vd : Nat) : State :=
  match s.vd? vd with
  | none => s
  | some v => (v.jrnl.filter fun x => x.typ = tyWaitsig && x.st = .started).foldl (fun s x => s.postIn 0 (.waitsigPoll (x.id vd))) s

/-! ## Notify and acceptance (R274, R277, R282) -/

/-- What the configuration words of a QCB give, where R274 admits them: BASE, LOG2N, PRIO and QNUM. -/
def qcbFields (base cfg : Nat) : Option (Nat × Nat × Nat × Nat) :=
  if base % 64 = 0 ∧ 1 ≤ cfg % 32 ∧ cfg % 32 ≤ 16 ∧ bitsOf 7 5 cfg = 0 ∧ bitsOf 15 11 cfg = 0 ∧ bitsOf 31 28 cfg = 0 ∧
      bitsOf 63 40 cfg = 0 then
    some (base, cfg % 32, bitsOf 10 8 cfg, bitsOf 27 16 cfg)
  else none

/-- Read the words of a QCB that configure its queue: a fault's code, or the queue; none of either where R274 refuses. -/
def State.readQcb (s : State) (v : Vd) (qcb : Nat) : State × Except (Option Nat) Umq :=
  if qcb % 64 ≠ 0 then (s, .error none)
  else match s.vdRead v qcb 48 with
    | (s, .error c) => (s, .error (some c))
    | (s, .ok bs) =>
      match qcbFields (field bs 0 8) (field bs 8 8) with
      | none => (s, .error none)
      | some (base, log2n, prio, qnum) =>
        (s, .ok { qnum := qnum, qcb := qcb, base := base, log2n := log2n, prio := prio, ntfy := field bs 40 8 })

/-- A QCB that cannot be read or breaks R274 closes its queue; a fault is posted (R282). -/
def State.failQueue (s : State) (vd : Nat) (q : Umq) (fault : Option Nat) : State :=
  let s := s.closeQueue vd q.qnum
  match fault with
  | some c => s.postWordFault vd c q.qcb
  | none => s

/-- Accept the packet at RDIDX (R277, R296); whether there was one to accept. -/
def State.acceptOne (s : State) (vd qn rd : Nat) : State × Bool :=
  match s.vd? vd with
  | none => (s, false)
  | some v =>
    match v.queue? qn with
    | none => (s, false)
    | some q =>
      let slot := q.base + 64 * (rd % 2 ^ q.log2n)
      if 8192 ≤ v.jrnl.length then (s, false)
      else match s.vdWord v slot with
        | (s, .error _) => (s, false)
        | (s, .ok h) =>
          if h / 2 ^ 63 = 0 then (s, false)
          else match s.vdRead v (slot + 8) 56 with
            | (s, .error _) => (s, false)
            | (s, .ok rest) =>
              let words := BitVec.ofNat 64 h :: (pieces_ 8 7 rest).map fun b => BitVec.ofNat 64 (natOf b)
              let s := s.trace vd .accept q.prio noTeam (subjOf qn rd) (h % 256)
              let place := ((List.range 8192).find? fun i =>
                !v.jrnl.any fun x => x.slot = (v.jnext + i) % 8192).getD 0
              let p : Pkt :=
                { qnum := qn, idx := rd, words := words, slot := (v.jnext + place) % 8192, startTick := s.tick + 1 }
              let s := (s.vdPut v (v.jrnl0 + 128 * p.slot) p.entry).vdPut v (v.jrnl1 + 128 * p.slot) p.entry
              let s := s.modVd vd fun v => { v with jrnl := v.jrnl ++ [p], jnext := (p.slot + 1) % 8192 }
              let s := s.vdPut v slot (bytesOf 8 0)
              let s := s.vdPut v (q.qcb + 0x18) (bytesOf 8 (rd + 1))
              if p.wellFormed then (s, true)
              else (State.endPkt (s.trace vd .reject q.prio noTeam (subjOf qn rd) illegalEnc) (p.id vd) illegalEnc, true)

/-- Accept until an index without V, or as many as the count. -/
def State.acceptRun : Nat → State → Nat → Nat → Nat → State
  | 0, s, _, _, _ => s
  | n + 1, s, vd, q, rd =>
    match s.acceptOne vd q rd with
    | (s, true) => s.acceptRun n vd q (rd + 1)
    | (s, false) => s

/-- A read of a queue: its QCB, as a REFRESH its configuration too, then acceptance (R277, R282). -/
def State.readQueue (s : State) (vd : Nat) (q : Umq) (refresh : Bool) : State :=
  match s.vd? vd with
  | none => s
  | some v =>
    let (s, fresh) := if refresh then s.readQcb v q.qcb else (s, .ok q)
    match fresh with
    | .error f => s.failQueue vd q f
    | .ok u =>
      let s := s.modQueue vd q.qnum fun x =>
        { x with base := u.base, log2n := u.log2n, prio := u.prio, ntfy := u.ntfy }
      match s.vdRead v (q.qcb + 0x10) 16 with
      | (s, .error c) => s.failQueue vd q (some c)
      | (s, .ok bs) =>
        (s.acceptRun (min 8192 (field bs 0 8 - field bs 8 8)) vd q.qnum (field bs 8 8)).kick vd

/-- A notify or a REFRESH arrives, or the read it began ends (R277, R280, R282). -/
def notifyForm (name : String) (refresh : Bool) (vd qn : Nat) (s : State) : Out' :=
  match s.vd? vd with
  | none => .refused (.notEnabled name)
  | some v =>
    match v.queue? qn with
    | none => .refused (.notEnabled name)
    | some q =>
      if !q.openQ then .next (s.pollWaits vd)
      else match q.readAt with
        | none =>
          let s := s.modQueue vd qn fun q => { q with readAt := some (s.tick + 2), refresh := refresh }
          .next ((s.postTick (s.tick + 2) (.notify vd qn)).pollWaits vd)
        | some at_ =>
          if s.tick < at_ || refresh then
            .next ((s.modQueue vd qn fun q => { q with pending := true, pendRefresh := q.pendRefresh || refresh }).pollWaits vd)
          else
            let s := s.readQueue vd q q.refresh
            let s := s.modQueue vd qn fun q =>
              { q with readAt := if q.pending then some (s.tick + 2) else none, refresh := q.pendRefresh, pending := false
                       pendRefresh := false }
            .next (if q.pending then s.postTick (s.tick + 2) (.notify vd qn) else s)

/-- NOTIFY (R282). -/
def execNotify (vd q : Nat) (s : State) : Out' := notifyForm "NOTIFY" false vd q s
/-- REFRESH (R282). -/
def execRefresh (vd q : Nat) (s : State) : Out' := notifyForm "REFRESH" true vd q s

/-! ## Reports (R278) -/

/-- Free the runs of the pool at these DVAs, and try what waits for it again (R292). -/
def State.freePool (s : State) (vd : Nat) (dvas : List Nat) : State :=
  (s.modVd vd fun v => { v with poolUse := v.poolUse.filter fun r => !dvas.contains (v.pool + r.1) }).postIn 0 (.poolAllocRetry vd)

/-- One word of a report, by a system-scope atomic; a word that cannot be written is left and posted (R278). Whether it
was written. -/
def State.reportWord (s : State) (vd dva : Nat) (add : Nat) : State × Bool :=
  match s.vd? vd with
  | none => (s, false)
  | some v => match s.vdAtomic v dva (.fn 0) add with
    | (s, .ok _) => (s, true)
    | (s, .error c) => (s.postWordFault vd c dva, false)

/-- The launch a packet built. -/
def State.builtBy (s : State) (vd : Nat) (p : Pkt) : Option Launch :=
  s.launches.find? fun l => l.vd = vd && l.built && l.pkt = some (p.qnum, p.idx)

/-- Forget the launches that are done, whose tiles have drained and whose packet, where the keeper built them, has been
reported. -/
def State.dropDone (s : State) : State :=
  let stays (l : Launch) : Bool := l.st != LaunchSt.done || l.tiles.any (fun t => (s.tile t).launch = l.id) ||
    (l.built && match s.vd? l.vd, l.pkt with
      | some v, some (q, i) => (v.pkt? q i).isSome
      | _, _ => false)
  { s with launches := s.launches.filter stays }

/-- The reason a packet is reported with: DIE_RESET where what it names has been lost since its work ended (R297). -/
def Pkt.ended (x : Pkt) : Nat := if x.lost then dieResetReason else x.reason

/-- What the report of a packet writes (R278): the signal, DONEIDX and the COMPLETE record. Whether DONEIDX was written. -/
def State.reportWords (s : State) (p : PktId) (v : Vd) (x : Pkt) : State × Bool :=
  let s := if x.word 1 = 0 then s else (s.reportWord p.vd (x.word 1) (2 ^ 64 - 1)).1
  let qcb := ((v.queue? p.q).map (·.qcb)).getD 0
  let (s, ok) := s.reportWord p.vd (qcb + 0x20) 1
  let (s, bad) := s.traceAt p.vd .complete x.prio (x.team.getD noTeam) (subjOf p.q p.idx) (x.ended + x.dataHi * 2 ^ 16)
  (match bad with
    | some (c, a) => s.postWordFault p.vd c a
    | none => s, ok)

/-- The report of a packet: what it writes, where its QCB is not lost; its journal entry is freed, with what the pool
held for it; then WAITSIGs read again and the next report and start follow (R278, R285, R292, R296). -/
def State.report (s : State) (p : PktId) (v : Vd) (x : Pkt) : State :=
  let (s, ok) := if x.mute then (s, false) else s.reportWords p v x
  let s := s.modPkt p fun x => { x with st := .reported }
  let s := s.modVd p.vd fun v => { v with jrnl := v.jrnl.filter fun y => !(y.qnum = p.q && y.idx = p.idx) }
  let s := if ok || !((v.queue? p.q).any (·.openQ)) then s else s.closeQueue p.vd p.q
  let s := match s.builtBy p.vd x with
    | some l => (if l.allocated then s.freePool p.vd [l.lcb, l.donemap] else s).dropDone
    | none => s
  (((if x.mute then s else s.condition p.vd (1 + p.q)).pollWaits p.vd).kick p.vd).postReport p.vd p.q

/-- COMPLETION_REPORT (R278): once, for the oldest packet of its queue whose work has ended. -/
def execCompletionReport (p : PktId) (s : State) : Out' :=
  match s.pkt? p with
  | none => .refused (.notEnabled "COMPLETION_REPORT")
  | some (v, x) =>
    if x.st = .performed && x.reportAt ≤ s.tick && (v.oldest? p.q).any (·.idx = p.idx) then .next (s.report p v x)
    else .refused (.notEnabled "COMPLETION_REPORT")

/-! ## NOP, SIGNAL and WAITSIG -/

/-- NOP (R284): completes at its start. -/
def execNop (p : PktId) (s : State) : Out' :=
  s.starting "NOP" p tyNop fun _ _ => .next ((s.startPkt p id).endPkt p 0)

/-- The new value of a SIGNAL (R283). -/
def signalNew (op old v : Nat) : Nat :=
  match op with
  | 0 => v
  | 1 => (old + v) % 2 ^ 64
  | _ => (2 ^ 64 + old - v) % 2 ^ 64

/-- A SIGNAL has its old value, which goes to the journal (R296). -/
def State.signalDone (s : State) (p : PktId) (old : Nat) : State :=
  ((s.modPkt p fun x => { x with old := BitVec.ofNat 64 old }).endPkt p 0).pollWaits p.vd

/-- SIGNAL (R283, R284): one system-scope atomic on its object; of a tier P object it waits for the answer (R400). -/
def execSignal (p : PktId) (s : State) : Out' :=
  s.starting "SIGNAL" p tySignal fun v x =>
    let s := s.startPkt p id
    let o : AtomOp := if x.word 4 = 0 then .fn 8 else .fn 0
    let operand := if x.word 4 = 2 then (2 ^ 64 - x.word 3) % 2 ^ 64 else x.word 3
    match s.vdAskAtomic v (x.word 2) o operand (.pkt p) with
    | (s, .error c) => .next (s.endPkt p c)
    | (s, .ok none) => .next (s.modPkt p fun x => { x with stage := 1 })
    | (s, .ok (some old)) => .next (s.signalDone p old)

/-- The condition of a WAITSIG (R283). -/
def waitCond (cond value comparand : Nat) : Bool :=
  match cond with
  | 0 => value = comparand
  | 1 => value ≠ comparand
  | 2 => value < comparand
  | _ => comparand ≤ value

/-- A WAITSIG has read its object: it completes when COND holds, or with the fault of the read. -/
def State.polled (s : State) (p : PktId) (x : Pkt) (r : Except Nat Nat) : State :=
  match r with
  | .error c => s.endPkt p c
  | .ok n => if waitCond (x.word 4) n (x.word 3) then s.endPkt p 0 else s

/-- A WAITSIG reads its object; one of tier P is asked for, once at a time. -/
def State.pollOne (s : State) (p : PktId) (v : Vd) (x : Pkt) : State :=
  if x.stage = 1 then s
  else match s.vdAskWord v (x.word 2) (.pkt p) with
    | (s, .error c) => s.polled p x (.error c)
    | (s, .ok none) => s.modPkt p fun x => { x with stage := 1 }
    | (s, .ok (some n)) => s.polled p x (.ok n)

/-- A peer has answered a SIGNAL or a WAITSIG (R400). -/
def State.answerPkt (s : State) (p : PktId) (r : Except Nat (List Byte × Nat)) : State :=
  match s.pkt? p with
  | none => s
  | some (_, x) =>
    if x.st ≠ .started ∨ x.stage ≠ 1 then s
    else
      let s := s.modPkt p fun x => { x with stage := 0 }
      let got : Except Nat Nat := match r with
        | .error c => .error c
        | .ok (bs, map) => if map ≠ 0 then .error poisonF else .ok (natOf bs)
      if x.typ = tySignal then match got with
        | .error c => s.endPkt p c
        | .ok old => s.signalDone p old
      else s.polled p x got

/-- WAITSIG (R284, R285): reads at its start, then every 256 ticks until TIMEOUT. -/
def execWaitsig (p : PktId) (s : State) : Out' :=
  s.starting "WAITSIG" p tyWaitsig fun v x =>
    let s := (s.startPkt p fun x => { x with pollAt := s.tick + 256 }).postTick (s.tick + 256) (.waitsigPoll p)
    let s := if x.word 5 = 0 then s else s.postTick (s.tick + x.word 5) (.waitsigTimeout p)
    .next (s.pollOne p v x)

/-- WAITSIG_POLL (R285): every 256 ticks, and at the keeper's writes and notifies. -/
def execWaitsigPoll (p : PktId) (s : State) : Out' :=
  match s.pkt? p with
  | none => .refused (.notEnabled "WAITSIG_POLL")
  | some (v, x) =>
    if x.typ = tyWaitsig && x.st = .started then
      let next := x.pollAt + 256 * ((s.tick - x.pollAt) / 256 + 1)
      let s := if x.pollAt ≤ s.tick then (s.modPkt p fun x => { x with pollAt := next }).postTick next (.waitsigPoll p) else s
      .next (s.pollOne p v x)
    else .refused (.notEnabled "WAITSIG_POLL")

/-- WAITSIG_TIMEOUT (R284): the packet ends with WATCHDOG. -/
def execWaitsigTimeout (p : PktId) (s : State) : Out' :=
  match s.pkt? p with
  | none => .refused (.notEnabled "WAITSIG_TIMEOUT")
  | some (_, x) =>
    if x.typ = tyWaitsig && x.st = .started && x.startTick + x.word 5 ≤ s.tick && x.word 5 ≠ 0 then
      .next (s.endPkt p watchdogF)
    else .refused (.notEnabled "WAITSIG_TIMEOUT")

end Sys2Proof.Machine
end

