-- ==== Sys2Proof/Machine/Blocks.lean ====
section
/-! DEFINITION. Control blocks (R286 to R289, R294): dispatch of phases, graphs and launches, and completion with its
propagation to successors, parents and the packet that named the top block. -/
namespace Sys2Proof.Machine
open Sys2Proof

/-! ## Fields in memory (R286, R287) -/

abbrev stNew : Nat := 0
abbrev stWait : Nat := 1
abbrev stRun : Nat := 2
abbrev stDone : Nat := 3
abbrev stFailed : Nat := 4
abbrev stCancelled : Nat := 5

abbrev hdrKind (h : Nat) : Nat := h % 256
abbrev hdrState (h : Nat) : Nat := h / 2 ^ 8 % 256
abbrev hdrReason (h : Nat) : Nat := h / 2 ^ 16 % 256
abbrev hdrCmark (h : Nat) : Bool := bitOf 24 h

/-- A number with the `n` bits from `lo` replaced. -/
def putBits (w lo n x : Nat) : Nat := w - w / 2 ^ lo % 2 ^ n * 2 ^ lo + x % 2 ^ n * 2 ^ lo

/-- Change the header word of a block (R289). -/
def State.modHeader (s : State) (v : Vd) (b : Nat) (f : Nat → Nat) : State :=
  match s.vdWord v b with
  | (s, .ok h) => s.vdPut v b (bytesOf 8 (f h))
  | (s, .error _) => s

def State.setBlockState (s : State) (v : Vd) (b st : Nat) : State := s.modHeader v b fun h => putBits h 8 8 st

/-- OUTST of a block (R289). -/
def State.setOutst (s : State) (v : Vd) (b n : Nat) : State := s.vdPut v (b + 8) (bytesOf 8 n)

/-- What completion needs of a block: its kind, parent, signal, successors, graph and launch. -/
structure BlockInfo where
  kind : Nat := 0
  parent : Nat := 0
  signal : Nat := 0
  succ : List Nat := []
  gcb : Nat := 0
  launch : Option Launch := none
  deriving DecidableEq, Repr

/-- A block as the keeper read it at its dispatch, or as it stands where it was not dispatched (R288). -/
def State.blockInfo (s : State) (v : Vd) (b gcb : Nat) : State × BlockInfo :=
  match s.launches.find? fun l => l.vd = v.vd && l.lcb = b && l.lcb ≠ 0 && l.st != .done with
  | some l => (s, { kind := 1, parent := l.parent, signal := l.signal, succ := l.succ, gcb := l.gcb, launch := some l })
  | none =>
    match v.blocks.find? (·.dva = b) with
    | some k => (s, { kind := k.kind, parent := k.parent, signal := k.signal })
    | none =>
      match s.vdRead v b 64 with
      | (s, .error _) => (s, {})
      | (s, .ok bs) =>
        let info : BlockInfo := { kind := field bs 0 1, parent := field bs 16 8, signal := field bs 24 8, gcb := gcb }
        if info.kind ≠ 1 then (s, info)
        else match s.vdRead v (b + 0x80) 64 with
          | (s, .error _) => (s, info)
          | (s, .ok l) => (s, { info with succ := ((pieces_ 8 8 l).map natOf).take (min 8 (bitsOf 19 16 (field bs 0x38 8))) })

/-! ## The work of dispatch and completion -/

/-- What one decision has still to do; each entry may put others before the rest. -/
inductive Job where
  | complete (b reason gcb : Nat)
  | fail (b reason gcb : Nat)      -- of a block that was no fresh block of its kind (R286)
  | succ (b gcb : Nat) (ok : Bool)
  | child (p reason : Nat)         -- a child of `p` has completed with a reason
  | graph (g pcb : Nat)            -- dispatch a graph
  | first (b gcb : Nat)            -- look at a launch of a graph at the graph's dispatch
  | launch (b gcb : Nat)           -- dispatch a launch
  | settle (gcb : Nat)             -- a graph none of whose launches can run
  deriving DecidableEq, Repr

/-- A block was read with a fault: DIE_RESET where its line went with a stack (R297). -/
def State.lostReason (s : State) (v : Vd) (dva code : Nat) : Nat :=
  if code = poisonF then match (s.vdTarget v dva .read).2 with
    | .ok (.mem pa, _) => match homeOf pa with
      | some (.stack n) => if s.mem.lostStacks.contains n && !s.mem.cured.contains (lineOf pa) then dieResetReason else code
      | _ => code
    | _ => code
  else code

/-- What a decision acts for: the VD, the packet its records name, and the tick its reports may be made in. -/
structure Cause where
  vd : Nat
  pkt : Option (Nat × Nat) := none
  at_ : Nat := 0
  deriving DecidableEq, Repr

/-- PRIO and SUBJ of a record (R279, R312). -/
def State.tag (s : State) (c : Cause) : Nat × Nat :=
  match s.vd? c.vd, c.pkt with
  | some v, some (q, i) =>
    (match v.pkt? q i with
      | some x => v.prioOf x
      | none => ((v.queue? q).map (·.prio)).getD 0, subjOf q i)
  | _, _ => (0, 0)

/-- A launch has ended: what waited for it goes on (R292, R293). -/
def State.launchDone (s : State) (c : Cause) (l : Launch) (reason : Nat) : State :=
  let s := (s.modLaunch l.id fun l => { l with st := .done, reason := reason, saveLen := 0 }).checkFreed l.saveKey
  let waiting : List Pkt := match s.vd? c.vd with
    | some v => v.jrnl.filter fun (x : Pkt) => x.waits.contains l.id
    | none => []
  let s := waiting.foldl (fun s x =>
    let s := s.modPkt (x.id c.vd) fun x => { x with waits := x.waits.filter (· ≠ l.id) }
    if x.waits = [l.id] then s.endPktAt (x.id c.vd) 0 c.at_ else s) s
  if l.built then
    match l.pkt with
    | some (q, i) => s.endPktAt { vd := c.vd, q := q, idx := i } reason c.at_
    | none => s
  else if l.allocated then s.freePool c.vd [l.donemap] else s

/-- R294's complete(b, ρ), up to its successors and its parent, which follow as jobs; `anew` also for a block whose STATE
says that it is over. A keeper-built LCB has no record of its own: its packet's report is one. -/
def State.completeBlock (s : State) (c : Cause) (anew : Bool) (b reason gcb : Nat) : State × List Job :=
  match s.vd? c.vd with
  | none => (s, [])
  | some v =>
    let (s, i) := s.blockInfo v b gcb
    let i := if i.kind = 0 && gcb ≠ 0 then { i with kind := 1, parent := gcb } else i
    let (s, h) := match s.vdWord v b with
      | (s, .ok h) => (s, h)
      | (s, .error _) => (s, i.kind)
    if !anew && (stDone ≤ hdrState h || i.kind = 0) then (s, [])
    else
      let r := if (i.launch.map (·.lost)).getD false then dieResetReason else if hdrCmark h then cancelled else if reason = 0 then hdrReason h else reason
      let st := if r = 0 then stDone else if r = cancelled then stCancelled else stFailed
      let s := s.modHeader v b fun h => putBits (putBits h 8 8 st) 16 8 r
      let s := if i.signal = 0 then s else ((s.reportWord c.vd i.signal (2 ^ 64 - 1)).1).pollWaits c.vd
      let s := s.modVd c.vd fun v => { v with blocks := v.blocks.map fun k =>
        if k.dva = i.gcb && i.gcb ≠ 0 then { k with ended := b :: k.ended } else k }
      let (prio, subj) := s.tag (match i.launch with | some l => { c with pkt := l.pkt } | none => c)
      let built := (i.launch.map (·.built)).getD false
      let s := if built then s else
        s.trace c.vd .complete prio (match i.launch with | some l => if l.team = 0 then noTeam else l.team | none => noTeam) subj r
      let s := match i.launch with
        | some l => s.launchDone c l r
        | none => s.modVd c.vd fun v => { v with blocks := v.blocks.filter (·.dva ≠ b) }
      let s := if i.kind = 3 then
          match (v.jrnl.find? fun x => x.typ = tyPhase && x.st = .started && x.top = b) with
          | some x => s.endPktAt (x.id c.vd) r c.at_
          | none => s
        else s
      let succs := if i.kind = 1 then i.succ.map fun t => Job.succ t i.gcb (r = 0) else []
      let up := if i.parent = 0 then [] else [Job.child i.parent r]
      (s, succs ++ up ++ (if i.kind = 1 && i.gcb ≠ 0 then [Job.settle i.gcb] else []))

/-- A predecessor of `b` has completed (R294); a successor that is no LCB of the same graph fails (R286, R287). -/
def State.successor (s : State) (c : Cause) (b gcb : Nat) (ok : Bool) : State × List Job :=
  match s.vd? c.vd with
  | none => (s, [])
  | some v =>
    let mine := v.blocks.any fun k => k.dva = gcb && k.kids.contains b
    let past := v.blocks.any fun k => k.dva = gcb && k.ended.contains b
    match s.vdWord v b with
    | (s, .error e) => (s, [.complete b (s.lostReason v b e) gcb])
    | (s, .ok h) =>
      if !mine then (s, if hdrState h = stNew then [.fail b illegalEnc 0] else [])
      else if hdrKind h ≠ 1 then (s, if past then [] else [.fail b illegalEnc gcb])
      else if !ok then (s, if hdrState h = stNew then [.complete b dependency gcb] else [])
      else match s.vdWord v (b + 0x38) with
        | (s, .error _) => (s, [])
        | (s, .ok w) =>
          let n := (w % 2 ^ 16 + 2 ^ 16 - 1) % 2 ^ 16
          (s.vdPut v (b + 0x38) (bytesOf 8 (putBits w 0 16 n)), if n = 0 then [.launch b gcb] else [])

/-- A child has completed: REASON, OUTST, and the parent's own completion (R289, R294). -/
def State.childDone (s : State) (c : Cause) (p reason : Nat) : State × List Job :=
  match s.vd? c.vd with
  | none => (s, [])
  | some v =>
    let s := if reason = 0 then s else s.modHeader v p fun h => if hdrReason h = 0 then putBits h 16 8 reason else h
    match s.vdAtomic v (p + 8) (.fn 0) (2 ^ 64 - 1) with
    | (s, .ok old) => (s, if old = 1 then [.complete p 0 0] else [])
    | (s, .error e) => (s, if v.blocks.any (·.dva = p) then [.complete p (s.lostReason v p e) 0] else [])

/-- The reason a block that is no fresh block of its kind fails with (R286). -/
def notFresh (kind h : Nat) : Option Nat :=
  if hdrKind h ≠ kind then some illegalEnc
  else if hdrState h = stCancelled then some cancelled
  else if hdrState h ≠ stNew then some illegalEnc
  else none

/-- The keeper has the block in hand already. -/
def State.inHand (s : State) (v : Vd) (b : Nat) : Bool :=
  (v.blocks.any fun k => k.dva = b) || s.launches.any fun l => l.vd = v.vd && l.lcb = b && l.lcb ≠ 0 && l.st != .done

/-- A block that is not fresh, named by `parent`, fails. It completes with that reason, but for one that is under way or has
been completed by a CANCEL, which only counts with what names it (log 116). -/
def State.failFresh (s : State) (v : Vd) (b reason gcb parent : Nat) : List Job :=
  if reason = cancelled || s.inHand v b then (if parent = 0 then [] else [.child parent reason]) else [.fail b reason gcb]

/-- A list of DVAs a block names. -/
def State.readList (s : State) (v : Vd) (dva n : Nat) : State × Except Nat (List Nat) :=
  match s.vdRead v dva (8 * n) with
  | (s, .ok bs) => (s, .ok ((pieces_ 8 n bs).map natOf))
  | (s, .error c) => (s, .error c)

/-- Dispatch a graph (R286, R287, R289): its launches whose WAITS is 0, in list order. -/
def State.dispatchGraph (s : State) (c : Cause) (g pcb : Nat) : State × List Job :=
  match s.vd? c.vd with
  | none => (s, [])
  | some v =>
    match s.vdRead v g 64 with
    | (s, .error code) => (s, [.child pcb (s.lostReason v g code)])
    | (s, .ok bs) =>
      match notFresh 2 (field bs 0 8) with
      | some r => (s, s.failFresh v g r 0 pcb)
      | none =>
        let n := field bs 0x20 8
        if n = 0 ∨ 65535 < n ∨ !allZero (bs.drop 0x30) then (s, [.complete g illegalEnc 0])
        else match s.readList v (field bs 0x28 8) n with
          | (s, .error code) => (s, [.complete g (s.lostReason v (field bs 0x28 8) code) 0])
          | (s, .ok kids) =>
            let k : Block := { dva := g, kind := 2, parent := field bs 16 8, signal := field bs 24 8, kids := kids }
            let s := s.modVd c.vd fun v => { v with blocks := v.blocks ++ [k] }
            ((s.setOutst v g n).setBlockState v g stRun, (kids.map fun b => Job.first b g) ++ [.settle g])

/-- A launch of a graph at the graph's dispatch: its WAITS alone is read, and one that waits for no other is dispatched
(R287, R288). -/
def State.firstLook (s : State) (c : Cause) (b gcb : Nat) : State × List Job :=
  match s.vd? c.vd with
  | none => (s, [])
  | some v =>
    if !v.blocks.any fun k => k.dva = gcb then (s, [])
    else match s.vdWord v (b + 0x38) with
    | (s, .error code) => (s, [.child gcb (s.lostReason v b code)])
    | (s, .ok w) => (s, if w % 2 ^ 16 = 0 then [.launch b gcb] else [])

/-- Dispatch a launch of a graph (R287, R289, R290): its LCB is read once, its image taken, and it waits to be placed. -/
def State.dispatchLaunch (s : State) (c : Cause) (b gcb : Nat) : State × List Job :=
  match s.vd? c.vd with
  | none => (s, [])
  | some v =>
    match s.vdRead v b 256 with
    | (s, .error code) => (s, [.child gcb (s.lostReason v b code)])
    | (s, .ok bs) =>
      let w30 := field bs 0x30 8
      let w38 := field bs 0x38 8
      let nsucc := bitsOf 19 16 w38
      if v.blocks.any fun k => k.dva = gcb && k.ended.contains b then (s, [])
      else if s.inHand v b then (s, [.child gcb illegalEnc])
      else if let some r := notFresh 1 (field bs 0 8) then (s, s.failFresh v b r gcb gcb)
      else if w30 % 2 ^ 32 = 0 ∨ 2 ^ 33 ≤ w30 ∨ 8 < nsucc ∨ bitsOf 31 20 w38 ≠ 0 ∨ !allZero (bs.drop 0xC8) then
        (s, [.complete b illegalEnc gcb])
      else match s.readImage v (field bs 0x20 8) with
        | (s, .error code) => (s, [.complete b code gcb])
        | (s, .ok img) =>
          let (id, s) := s.newId
          let (prio, _) := s.tag c
          let l : Launch :=
            { id := id, vd := c.vd, lcb := b, gcb := gcb, parent := field bs 16 8, signal := field bs 24 8, pkt := c.pkt
              image := img, imageDva := field bs 0x20 8, lseed := BitVec.ofNat 64 (field bs 0x28 8), nunits := w30 % 2 ^ 32, restart := bitOf 32 w30
              deadline := bitsOf 63 32 w38, prio := prio
              args := (List.range 8).map fun i => BitVec.ofNat 64 (field bs (0x40 + 8 * i) 8)
              succ := (List.range nsucc).map fun i => field bs (0x80 + 8 * i) 8 }
          (State.postIn { s with launches := s.launches ++ [l] } 0 (.poolAllocRetry c.vd), [])

/-- A graph whose OUTST is not zero and none of whose launches is ready, placed or running: those still NEW complete with
DEPENDENCY (R294), whatever their KIND says. -/
def State.settleGraph (s : State) (c : Cause) (g : Nat) : State × List Job :=
  match s.vd? c.vd with
  | none => (s, [])
  | some v =>
    match v.blocks.find? (·.dva = g) with
    | none => (s, [])
    | some k =>
      if s.launches.any fun l => l.vd = c.vd && l.gcb = g && l.st != .done then (s, [])
      else (k.kids.eraseDups.filter fun b => !k.ended.contains b).foldl (fun (r : State × List Job) b =>
        match r.1.vdWord v b with
        | (s, .ok h) => (s, if hdrState h = stNew then r.2 ++ [.fail b dependency g] else r.2)
        | (s, .error _) => (s, r.2)) (s, [])

/-- A job that may still make a launch of graph `g` ready. -/
def Job.feeds (g : Nat) : Job → Bool
  | .first _ k | .launch _ k | .succ _ k _ => k = g
  | _ => false

/-- A graph is settled once no job before it can make a launch of it ready (R294). -/
def Job.early (l : List Job) : Job → Bool
  | .settle g => l.any (Job.feeds g)
  | _ => false

/-- One job. -/
def State.runJob (s : State) (c : Cause) : Job → State × List Job
  | .complete b r g => s.completeBlock c false b r g
  | .fail b r g => s.completeBlock c true b r g
  | .succ b g ok => s.successor c b g ok
  | .child p r => s.childDone c p r
  | .graph g p => s.dispatchGraph c g p
  | .first b g => s.firstLook c b g
  | .launch b g => s.dispatchLaunch c b g
  | .settle g => s.settleGraph c g

/-- Run jobs to their end; the fuel is beyond what the blocks of a job can ask for. -/
def State.runJobs : Nat → State → Cause → List Job → State
  | 0, s, _, _ => s
  | _ + 1, s, _, [] => s
  | n + 1, s, c, j :: l =>
    if j.early l then s.runJobs n c l
    else match s.runJob c j with
      | (s, more) => s.runJobs n c (more ++ l)

/-- The steps of one decision. -/
abbrev jobFuel : Nat := 2 ^ 40

/-- Complete a block (R294). -/
def State.complete (s : State) (c : Cause) (b reason gcb : Nat) : State := s.runJobs jobFuel c [.complete b reason gcb]

/-- A launch ends with a reason (R290, R294); one whose LCB the keeper never built ends its packet. -/
def State.completeLaunch (s : State) (l : Launch) (reason at_ : Nat) : State :=
  let c : Cause := { vd := l.vd, pkt := l.pkt, at_ := at_ }
  if l.lcb = 0 then s.launchDone c l reason else s.complete c l.lcb reason l.gcb

/-! ## PHASE -/

/-- The job a PCB names, read at its first phase (R286 to R288): the reason the phase cannot run, if any. -/
def State.openJob (s : State) (c : Cause) (v : Vd) (j : Nat) : State × Option Nat :=
  if j = 0 ∨ v.blocks.any (fun k => k.dva = j && k.kind = 4) then (s, none)
  else match s.vdRead v j 64 with
    | (s, .error code) => (s, some (s.lostReason v j code))
    | (s, .ok bs) =>
      let n := field bs 0x20 8
      match notFresh 4 (field bs 0 8) with
        | some r => (if r = cancelled then s else s.runJobs jobFuel c [.fail j r 0], some r)
        | none =>
          if n = 0 ∨ 2 ^ 16 ≤ n ∨ !allZero (bs.drop 0x30) then (s.complete c j illegalEnc 0, some illegalEnc)
          else
            let k : Block := { dva := j, kind := 4, parent := field bs 16 8, signal := field bs 24 8 }
            ((s.modVd v.vd fun v => { v with blocks := v.blocks ++ [k] }).setBlockState v j stRun, none)

/-- PHASE (R284, R287): dispatches its PCB, which dispatches each GCB in list order. -/
def execPhase (p : PktId) (s : State) : Out' :=
  s.starting "PHASE" p tyPhase fun v x =>
    let b := x.word 2
    let s := s.startPkt p fun x => { x with top := x.word 2 }
    let c : Cause := { vd := p.vd, pkt := some (p.q, p.idx), at_ := s.tick + 1 }
    match s.vdRead v b 64 with
    | (s, .error code) => .next (s.endPkt p (s.lostReason v b code))
    | (s, .ok bs) =>
      match notFresh 3 (field bs 0 8) with
      | some r => .next ((s.runJobs jobFuel c (s.failFresh v b r 0 0)).endPkt p r)
      | none =>
        let n := field bs 0x20 8
        match s.openJob c v (field bs 16 8) with
        | (s, some r) => .next (s.complete c b r 0)
        | (s, none) =>
          if n = 0 ∨ 65535 < n ∨ !allZero (bs.drop 0x30) then .next (s.complete c b illegalEnc 0)
          else match s.readList v (field bs 0x28 8) n with
            | (s, .error code) => .next (s.complete c b (s.lostReason v (field bs 0x28 8) code) 0)
            | (s, .ok kids) =>
              let k : Block := { dva := b, kind := 3, parent := field bs 16 8, signal := field bs 24 8, kids := kids }
              let s := s.modVd p.vd fun v => { v with blocks := v.blocks ++ [k] }
              let s := (s.setOutst v b n).setBlockState v b stRun
              .next (s.runJobs jobFuel c (kids.map fun g => .graph g b))

end Sys2Proof.Machine
end

