-- ==== Sys2Proof/Machine/Branch.lean ====
section
/-! DEFINITION. Branches and jumps (R105, R106, R67): a target outside 0 to 16 383 raises ILLEGAL_ENC at the branch and
leaves the link register as it was; a taken one issues the next instruction three cycles on (R97). -/
namespace Sys2Proof.Machine
open Sys2Proof

/-- Go to `t` with `f` done to the sequencer, or raise ILLEGAL_ENC (R67). -/
def jumpTo (s : State) (t : Int) (f : Seq → Seq) : Out' :=
  if 0 ≤ t ∧ t ≤ 16383 then .next (s.modSeq s.cur fun q => (f q).goTo s.now t.toNat 3)
  else .next (s.raise illegalEnc 0#64)

/-- R105. -/
def branch (s : State) (a b : BitVec 6) (o : BitVec 13) (taken : Word → Word → Bool) : Out' :=
  issueCtl s [a, b] false true true fun q =>
    if taken (q.gr a) (q.gr b) then jumpTo s ((q.pc : Int) + o.toInt) id
    else s.retireWith id

/-- BEQ (R105). -/
def execBeq (a b : BitVec 6) (o : BitVec 13) (s : State) : Out' := branch s a b o fun x y => x == y
/-- BNE (R105). -/
def execBne (a b : BitVec 6) (o : BitVec 13) (s : State) : Out' := branch s a b o fun x y => x != y
/-- BLT (R105). -/
def execBlt (a b : BitVec 6) (o : BitVec 13) (s : State) : Out' := branch s a b o fun x y => x.slt y
/-- BGE (R105). -/
def execBge (a b : BitVec 6) (o : BitVec 13) (s : State) : Out' := branch s a b o fun x y => !x.slt y
/-- BLTU (R105). -/
def execBltu (a b : BitVec 6) (o : BitVec 13) (s : State) : Out' := branch s a b o fun x y => x.ult y
/-- BGEU (R105). -/
def execBgeu (a b : BitVec 6) (o : BitVec 13) (s : State) : Out' := branch s a b o fun x y => !x.ult y

/-- J (R106). -/
def execJ (o : BitVec 25) (s : State) : Out' :=
  issueCtl s [] false true true fun q => jumpTo s ((q.pc : Int) + o.toInt) id

/-- JL (R106): g63 := pc + 1. -/
def execJl (o : BitVec 25) (s : State) : Out' :=
  issueCtl s [63#6] false true true fun q =>
    jumpTo s ((q.pc : Int) + o.toInt) fun r => r.setG 63#6 (BitVec.ofNat 64 (q.pc + 1)) (s.now + 1)

/-- JLR (R106): the target is read before the link is written. The sum is taken modulo 2^64 (chapter 04). -/
def execJlr (d a : BitVec 6) (i : BitVec 13) (s : State) : Out' :=
  issueCtl s [d, a] false true true fun q =>
    jumpTo s ((q.gr a + sext i).toNat : Int) fun r => r.setG d (BitVec.ofNat 64 (q.pc + 1)) (s.now + 1)

/-- A word no row of R69 assigns, or execution past word 16 383, which raises it at the last word (R68, R106). -/
def execUnassignedControlWord (_w : Word32) (s : State) : Out' :=
  issueCtl s [] false true true fun q => .next (s.csqFault s.cur illegalEnc 0#64 (min q.pc 16383))

end Sys2Proof.Machine
end

