-- ==== Sys2Proof/Machine/Teams.lean ====
section
/-! DEFINITION. Placement (R305), the pool (R292), QEFF (R300, R327), loading a team's tiles and starting its units
(R20, R290, R322, R329, R367). -/
namespace Sys2Proof.Machine
open Sys2Proof

/-! ## Placement (R305) -/

/-- The physical tile at a grid position (R7, R257). -/
def gridTile (gx gy : Nat) : Nat := (gy / 8 * 4 + gx / 8) * 64 + gy % 8 * 8 + gx % 8

/-- A translation by `o` of `n` columns or rows keeps every die edge between them in its place, so every hop distance is
that of the reference. -/
def sameEdges (n o : Nat) : Bool := (List.range n).all fun x => (x + o) / 8 = x / 8 + o / 8

/-- The translation lies on the grid and keeps every distance. -/
def translates (w h ox oy : Nat) : Bool := ox + w ≤ 32 && oy + h ≤ 32 && sameEdges w ox && sameEdges h oy

/-- The physical tiles of the logical tiles of a translation. -/
def teamTiles (w h ox oy : Nat) : List Nat := (List.range (w * h)).map fun l => gridTile (ox + l % w) (oy + l / w)

/-- A tile of a quire of the VD. -/
def Vd.owns (v : Vd) (t : Nat) : Bool := bitOf (quireOf t) v.quires

/-- A tile that is free, drained and on a running die. -/
def State.tileFree (s : State) (t : Nat) : Bool :=
  (s.tile t).use = .free && !(s.die (dieOf t)).resetting && !(s.die (dieOf t)).held

/-- The valid translation whose logical tile 0 has the lowest physical number, over the tiles `ok` admits. -/
def findPlace (v : Vd) (w h : Nat) (ok : Nat → Bool) : Option (Nat × Nat) :=
  (List.range Config.tiles).findSome? fun t =>
    if translates w h (colOf t) (rowOf t) && (teamTiles w h (colOf t) (rowOf t)).all (fun u => v.owns u && ok u) then
      some (colOf t, rowOf t)
    else none

/-- The part can hold the shape at all: the tiles of other teams count as free (R291). -/
def State.canFit (s : State) (v : Vd) (i : Image) : Bool :=
  (findPlace v i.teamw i.teamh fun t => !(s.die (dieOf t)).held).isSome

/-- The lowest team number that no placed or saved team holds (R305). -/
def State.newTeam (s : State) : Nat :=
  (((List.range (s.launches.length + 1)).map (· + 1)).find? fun n => (s.team? n).isNone).getD 1

/-! ## The pool (R292) -/

abbrev poolBytes : Nat := 2 ^ 20

/-- The lowest offset of a free run of `n` bytes of the pool at a multiple of `al`. -/
def Vd.hole (v : Vd) (n al : Nat) : Option Nat :=
  let up (x : Nat) : Nat := ((v.pool + x + al - 1) / al * al) - v.pool
  let starts := sortBy (fun a b => a ≤ b) ((0 :: v.poolUse.map fun r => r.1 + r.2).map up)
  starts.find? fun o => o + n ≤ poolBytes && v.poolUse.all fun r => o + n ≤ r.1 || r.1 + r.2 ≤ o

/-- Bytes of a DONEMAP. -/
abbrev donemapBytes (nunits : Nat) : Nat := (nunits + 511) / 512 * 64

def Launch.poolNeed (l : Launch) : Nat := (if l.built then 256 else 0) + donemapBytes l.nunits

/-- The LCB the keeper builds for a LAUNCH packet (R287), as it is while the launch waits to be placed. -/
def builtLcb (l : Launch) (image donemap : Nat) : List Byte :=
  bytesOf 8 (1 + stWait * 256) ++ bytesOf 8 l.nunits ++ bytesOf 8 0 ++ bytesOf 8 0 ++ bytesOf 8 image ++
  bytesOf 8 l.lseed.toNat ++ bytesOf 8 l.nunits ++ bytesOf 8 0 ++
  ((List.range 8).flatMap fun i => bytesOf 8 (l.args.getD i 0#64).toNat) ++ bytesOf 64 0 ++ bytesOf 8 donemap ++ bytesOf 56 0

/-- Allocate what a launch needs of the pool, write it, and take a launch of a graph from NEW to WAIT; whether it was
met. -/
def State.allocate (s : State) (v : Vd) (l : Launch) (image : Nat) : State × Bool :=
  let first := if l.built then v.hole 256 256 else some 0
  match first with
  | none => (s, false)
  | some o =>
    let v1 := if l.built then { v with poolUse := v.poolUse ++ [(o, 256)] } else v
    let n := donemapBytes l.nunits
    match v1.hole n 64 with
    | none => (s, false)
    | some d =>
      let s := s.modVd v.vd fun v => { v with poolUse := v1.poolUse ++ [(d, n)] }
      let lcb := if l.built then v.pool + o else l.lcb
      let s := s.vdPut v (v.pool + d) (bytesOf n 0)
      let s := if l.built then s.vdPut v lcb (builtLcb l image (v.pool + d))
        else ((s.vdPut v (lcb + 0xC0) (bytesOf 8 (v.pool + d))).setOutst v lcb l.nunits).setBlockState v lcb stWait
      let s := s.modLaunch l.id fun l => { l with lcb := lcb, donemap := v.pool + d, allocated := true }
      (match l.built, l.pkt with
        | true, some (q, i) => s.modPkt { vd := v.vd, q := q, idx := i } fun p => { p with top := lcb }
        | _, _ => s, true)

/-! ## QEFF (R300, R327) -/

/-- Bytes of a tile's record and poison map (R316, R324). -/
abbrev recBytes (live : Nat) : Nat := 230032 + live + (live + 511) / 512

/-- The worst-case save time of a team, in cycles (R327). -/
def worstSave (i : Image) : Nat :=
  let n := min (i.teamw * i.teamh) 64
  let rate := min 768 (192 * n)
  (n * recBytes i.live + rate - 1) / rate + 640

/-- The adjustment of QEFF that a placement makes (R300). -/
def State.adjustQuantum (s : State) (v : Vd) (l : Launch) (prio subj : Nat) : State :=
  let t := worstSave l.image
  let q := (2 * t + 2249) / 2250
  if v.quantum ≠ 0 ∧ v.quantum * 2250 < 2 * t ∧ v.qeff < q then
    let s := s.modVd v.vd fun v => { v with qeff := q, cntadj := v.cntadj + 1 }
    s.trace v.vd .reject prio l.team subj (2 ^ 8 + q % 2 ^ 32 * 2 ^ 32)
  else s

/-! ## Loading and starting -/

def Launch.size (l : Launch) : Nat := l.image.teamw * l.image.teamh

/-- The unit a logical tile runs in the launch's wave (R290). -/
def Launch.unitOf (l : Launch) (lt : Nat) : Nat := l.wave * l.size + lt

/-- A unit of the wave is still to run. -/
def Launch.owed (l : Launch) (lt : Nat) : Bool := l.unitOf lt < l.nunits && !l.doneUnits.contains (l.unitOf lt)

/-- A logical tile starts with a unit: one still to run, or a clamped one, which may be a spawned one on a tile whose own
unit is done (R322). -/
def Launch.starts (l : Launch) (lt : Nat) : Bool := l.owed lt || (l.clampI.find? (l.unitOf lt)).isSome

/-- Load the tiles of a launch for its wave; a tile with no unit to run stands parked (R290, R298). -/
def State.loadTeam (s : State) (v : Vd) (l : Launch) : State :=
  l.tiles.zipIdx.foldl (fun (s : State) (t, lt) =>
    let x := loadedTile v l lt (l.unitOf lt)
    s.setTile t (if l.starts lt then { x with spawned := !l.owed lt } else { x with use := .parked })) s

/-- Post the starts of the wave's units: at `.entry`, or a clamped unit at `.resume` with its iteration (R322). -/
def State.postStarts (s : State) (l : Launch) (tick : Nat) : State :=
  l.tiles.zipIdx.foldl (fun (s : State) (t, lt) =>
    if !l.starts lt then s
    else match l.clampI.find? (l.unitOf lt), l.image.resume with
      | some i, some r => s.postTick tick (.unitStart t r i)
      | _, _ => s.postTick tick (.unitStart t l.image.entry 0)) s

/-- Cycles and ticks of a placement's load (R280). -/
abbrev startTicks : Nat := 37

/-- The image in the launch is one the world's loader measures (R424). -/
def State.measureTeam (s : State) (v : Vd) (l : Launch) : State := s.measure v.world l.image.digest

/-- The DATA of a PLACE or RESUME record (R279, R312). -/
def placeData (tiles : List Nat) : Nat := tiles.headD 0 + tiles.length * 2 ^ 16

/-- Place a launch at a translation that R305 admits (R290, R305): its team number, its tiles loaded, its records. -/
def State.placeLaunch (s : State) (v : Vd) (l : Launch) (ox oy : Nat) : State :=
  let (prio, subj) := s.tag { vd := l.vd, pkt := l.pkt }
  let team := s.newTeam
  let l := { l with
    st := .running, team := team, tiles := teamTiles l.image.teamw l.image.teamh ox oy, heldSince := s.tick, prio := prio }
  let s := s.modLaunch l.id fun _ => l
  let s := (s.measureTeam v l).loadTeam v l
  let s := s.trace l.vd .place prio team subj (placeData l.tiles)
  let s := s.adjustQuantum v l prio subj
  let s := s.setBlockState v l.lcb stRun
  let s := s.postStarts l (s.tick + startTicks)
  match l.built, l.pkt with
  | true, some (q, i) => s.startPkt { vd := l.vd, q := q, idx := i } fun p => { p with team := some team }
  | _, _ => s

/-- A launch that can never be held fails with NO_FIT and a REJECT record (R291, R292). -/
def State.rejectLaunch (s : State) (l : Launch) (reason : Nat) : State :=
  let (prio, subj) := s.tag { vd := l.vd, pkt := l.pkt }
  (s.trace l.vd .reject prio noTeam subj reason).completeLaunch l reason (s.tick + 1)

/-- Post a new try of whatever waits for tiles, in every VD. -/
def State.retryAll (s : State) : State :=
  (s.vds.filter fun e => match e.2 with
    | some v => s.launches.any fun l => l.vd = v.vd && (l.st = .waiting || l.st = .saved)
    | none => false).foldl (fun s e => s.postIn 0 (.poolAllocRetry e.1)) s

end Sys2Proof.Machine
end

