-- ==== Sys2Proof/Machine/Context.lean ====
section
/-! DEFINITION. The context of a tile (R38, R40, R316, R324 to R326, R445): the bytes of its items, when a frozen tile has
drained, and what a save keeps and a restore puts back. -/
namespace Sys2Proof.Machine
open Sys2Proof

/-! ## Items (R38, R316) -/

def bytesG (x : Tile) : List Byte := (List.range 64).flatMap fun n => bytesOf 8 (x.seq.gr (BitVec.ofNat 6 n)).toNat
def bytesS (x : Tile) : List Byte := (List.range 32).flatMap fun n => bytesOf 8 (x.sr n).toNat
def bytesV (x : Tile) : List Byte :=
  (List.range 8).flatMap fun c => (List.range 80).flatMap fun i => bytesOf 64 (x.vr (128 * c + i)).toNat
def bytesK (x : Tile) : List Byte := (List.range 8).flatMap fun c => (List.range 8).flatMap fun i => bytesOf 2 (x.kr c i).toNat
def bytesFf (x : Tile) : List Byte := (List.range 8).flatMap fun c => bytesOf 1 (x.fflags c).toNat
def bytesSr (x : Tile) : List Byte := (List.range 8).flatMap fun c => bytesOf 8 (x.srstate c).toNat

/-- The registers of the control-register item, in the order of R35 (R326). -/
def ctlNumbers : List Nat :=
  [0x000, 0x001, 0x002, 0x003, 0x004] ++ (List.range 8).map (0x008 + ·) ++
  [0x010, 0x011, 0x012, 0x013, 0x014, 0x015, 0x020, 0x021, 0x022, 0x023, 0x024, 0x025, 0x026, 0x030, 0x031, 0x032,
    0x051, 0x052, 0x053, 0x054]

/-- The contexts of queued copy commands that differ from the tile's, in queue order (R326). -/
def Tile.heldContexts (x : Tile) : List TransCtx :=
  ((((x.c0.cmds ++ x.c1.cmds).map (·.ctx)).filter (· ≠ x.seq.csr.ctx)).eraseDups).take 5

/-- A held context's six words. -/
def ctxBytes (c : TransCtx) : List Byte :=
  bytesOf 8 c.hwbase.toNat ++ bytesOf 8 c.hwlimit.toNat ++ bytesOf 8 c.hwoffset.toNat ++ bytesOf 8 c.ptroot.toNat ++
  bytesOf 8 (c.hwkey.toNat + c.asid.toNat * 2 ^ 16) ++ bytesOf 8 0

/-- The control-register item of tile `t`. -/
def bytesCtl (t : Nat) (x : Tile) : List Byte :=
  (ctlNumbers.flatMap fun n => bytesOf 8
    (match n with
      | 0x004 => t
      | 0x051 => x.bsq.cq.length
      | _ => (x.seq.csr.read n).toNat)) ++
  bytesOf 8 (if x.latch then 1 else 0) ++
  (((List.range 5).map fun h => (x.heldContexts[h]?).getD {}).flatMap ctxBytes)

/-- A loop level (R222). -/
def loopBytes (l : Loop) : List Byte :=
  bytesOf 4 l.rem ++ bytesOf 4 l.iter ++
  bytesOf 8 (l.start + l.epi * 2 ^ 15 + (if l.clamp then 2 ^ 23 else 0) + l.loopId * 2 ^ 24 + l.curcyc * 2 ^ 32 + l.lastcyc * 2 ^ 48)

/-- The sequencer state (R326). -/
def bytesSeq (x : Tile) : List Byte :=
  let slot (i : Nat) : List Byte :=
    match x.bsq.slots.find? i with
    | some st => bytesOf 8 st.syl.toNat ++ bytesOf 8 (if i = 1 ∨ 4 ≤ i then st.ea.toNat else 0)
    | none => bytesOf 16 0
  let mSlot (i : Nat) : List Byte :=
    -- b, α and β of the M slot take the second words of S, C0 and C1
    match x.bsq.slots.find? 1, i with
    | some m, 0 => bytesOf 8 ((x.bsq.slots.find? 0).map (·.syl.toNat) |>.getD 0) ++ bytesOf 8 m.b.toNat
    | some m, 2 => bytesOf 8 ((x.bsq.slots.find? 2).map (·.syl.toNat) |>.getD 0) ++ bytesOf 8 m.al.toNat
    | some m, 3 => bytesOf 8 ((x.bsq.slots.find? 3).map (·.syl.toNat) |>.getD 0) ++ bytesOf 8 m.be.toNat
    | _, _ => slot i
  bytesOf 8 (x.seq.pc % 2 ^ 14 + if x.seq.waitFrom.isSome then 2 ^ 14 else 0) ++
  bytesOf 8 (x.bsq.pc % 2 ^ 15 + x.bsq.issued % 64 * 2 ^ 15 + if x.bsq.first then 2 ^ 21 else 0) ++
  bytesOf 8 (x.bsq.cqRead % 64 + (x.bsq.cqRead + x.bsq.cq.length) % 64 * 2 ^ 8 + x.bsq.loops.length * 2 ^ 16 +
    (if x.bsq.profile4 then 4 else 6) * 2 ^ 24) ++
  bytesOf 8 x.bsq.rho ++ bytesOf 32 0 ++ ((List.range 20).flatMap mSlot) ++
  ((List.range 16).flatMap fun i => match x.bsq.loops.reverse[i]? with
    | some l => loopBytes l
    | none => bytesOf 16 0)

/-- The CQ item (R445): entries at their ring positions. -/
def bytesCq (x : Tile) : List Byte :=
  (List.range 64).flatMap fun p =>
    match x.bsq.cq[(p + 64 - x.bsq.cqRead % 64) % 64]? with
    | some e => bytesOf 8 e.w.toNat
    | none => bytesOf 8 0

/-- The progress of a copy command (R208): the first element not performed. -/
def CQueue.progress (q : CQueue) (c : CCmd) : Nat :=
  ((q.lines.filter (·.cmd = c.serial)).flatMap fun l => l.pieces.map (·.elem)).foldl min c.nextElem

/-- The places of queued CPYM bitmaps, in queue order (R325). -/
def Tile.cpymPlace (x : Tile) (u : Nat) (serial : Nat) : Nat :=
  let l := ((x.c0.cmds.filter (·.op = opCpym)).map fun c => (0, c.serial)) ++ ((x.c1.cmds.filter (·.op = opCpym)).map fun c => (1, c.serial))
  (l.idxOf (u, serial)) % 8

/-- An entry of C0 or C1 (R325). -/
def copyEntry (x : Tile) (u : Nat) (q : CQueue) (c : CCmd) : List Byte :=
  let status := match c.st with
    | .waiting => 0
    | .running _ | .finished => 1
    | .stopped => 2
  let tctx := if c.ctx = x.seq.csr.ctx then 0 else x.heldContexts.idxOf c.ctx + 1
  let cpym := if c.op = opCpym then x.cpymPlace u c.serial * 2 ^ 8 + 2 ^ 11 else 0
  bytesOf 8 c.syl.toNat ++ bytesOf 8 c.s1.toNat ++ bytesOf 8 c.s2.toNat ++
  bytesOf 8 (q.progress c % 2 ^ 48 + c.baddr % 2 ^ 15 * 2 ^ 48) ++ bytesOf 8 (status + tctx % 8 * 2 ^ 4 + cpym) ++ bytesOf 24 0 ++
  ((List.range 8).flatMap fun i => bytesOf 8 (c.pat.getD i 0#64).toNat)

/-- C0 and C1, 64 entries each. -/
def bytesCopyq (x : Tile) : List Byte :=
  let one (u : Nat) (q : CQueue) : List Byte := (List.range 64).flatMap fun i => match q.cmds[i]? with
    | some c => copyEntry x u q c
    | none => bytesOf 128 0
  one 0 x.c0 ++ one 1 x.c1

def bytesAcc (x : Tile) : List Byte :=
  (List.range 4).flatMap fun n => (List.range 4096).flatMap fun e => bytesOf 4 (x.mat.acc.get 0#32 (4096 * n + e)).toNat

/-- The matrix queue (R28). -/
def bytesMq (x : Tile) : List Byte :=
  (List.range 16).flatMap fun i => match x.mat.queue[i]? with
    | some c => bytesOf 8 c.syl.toNat ++ bytesOf 8 c.a ++ bytesOf 8 (if c.op = opMma ∨ c.op = opAccmv then c.b else 0) ++ bytesOf 8 0
    | none => bytesOf 32 0

def bytesTcfg (x : Tile) : List Byte := x.mat.latched.words.flatMap (bytesOf 4)
def bytesSems (x : Tile) : List Byte := (List.range 256).flatMap fun i => bytesOf 2 (x.semVal i)

/-- The poison map (R324): one bit a line below the live extent. -/
def bytesPoison (x : Tile) : List Byte :=
  (List.range ((x.live + 511) / 512)).map fun n =>
    BitVec.ofNat 8 (((List.range 8).filter fun m => x.spoison.contains (8 * n + m)).foldl (fun a m => a + 2 ^ m) 0)

/-! ## Draining a frozen tile (R40, R208, R370) -/

/-- Every operation accepted by Q0 to Q2 and Q5 to Q8, and every line request sent, has performed. -/
def Tile.drainedQueues (x : Tile) : Bool :=
  (x.seq.accs.all fun a => a.performed && a.stage ≠ .signalling || a.fault.isSome) && x.c0.lines.isEmpty && x.c1.lines.isEmpty &&
  x.bsq.stores.isEmpty && x.mat.stores.isEmpty && x.constPend.isEmpty &&
  (x.ports.all fun e => !(e.2.bound && e.2.write) || e.2.buf.isEmpty) &&
  (x.mat.queue.all fun c => match c.st with
    | .running _ => c.op = opMma
    | _ => true) &&
  ((x.c0.cmds ++ x.c1.cmds).all fun c => c.nextByte = 0 && !c.idxOut) && x.wbuf.all (!·.flushing)

/-- A tile with nothing to stop: ended, parked, or drained already. -/
def Tile.idle (x : Tile) : Bool := x.use = .ended || x.use = .parked || x.use = .draining || x.use = .free

/-- The tile is frozen or idle, and has drained. -/
def Tile.stillAndDrained (x : Tile) : Bool := (x.keeperStopped || x.idle) && x.drainedQueues

/-! ## What a save keeps (R38, R39, R324) -/

/-- STATE of a directory entry. -/
def Tile.saveState (x : Tile) : Nat :=
  match x.use with
  | .ended => 2
  | .parked => 3
  | _ => 1

/-- A queue whose commands wait on no translation: they ask again after a resume. A translation that a prefetch still waits
for is not waited for any more (R217). -/
def CQueue.unblocked (q : CQueue) : CQueue :=
  { q with cmds := q.cmds.map fun c => { c with blocked := false, walks := 0 } }

/-- The context of a tile: what is not in it is not kept. The faults of accesses already issued stay, to be reported at the
first gate after the resume (R141). -/
def Tile.context (x : Tile) : Tile :=
  { x with
    spad := x.spad.filter fun c => c.1 < x.live
    spoison := x.spoison.filter fun l => 64 * l < x.live
    bprog := [], utlb := [], faults := [], semNow := [], fetched := []
    c0 := x.c0.unblocked, c1 := x.c1.unblocked
    seq := { x.seq with
      prog := [], fence := none, strmUntil := none, ready := []
      accs := x.seq.accs.filter (·.fault.isSome) } }

/-- Far targets of queued commands follow their logical numbers to the new tiles (R34). -/
def CCmd.moveTo (old new : List Nat) (c : CCmd) : CCmd :=
  { c with far := c.far.map fun p => (new[old.idxOf p]?).getD p }

/-- The tile a saved context resumes on (R328): its logical table and PTILE the new ones, its programs those of the image
loaded anew; a running one resumes in cycle `at_`. -/
def Tile.restored (x : Tile) (l : Launch) (old new : List Nat) (st at_ wall : Nat) : Tile :=
  let mv (q : CQueue) : CQueue := { q with cmds := q.cmds.map (CCmd.moveTo old new) }
  { x with
    use := if st = 2 then .ended else if st = 3 then .parked else .running
    bprog := fillFrom 0#64 l.image.bnd
    c0 := mv x.c0, c1 := mv x.c1
    seq := { x.seq with
      prog := fillFrom 0#32 l.image.ctl
      issueAt := at_
      waitFrom := x.seq.waitFrom.map fun _ => wall
      csr := { x.seq.csr with ltte := tileTable new } }
    freeze := x.freeze.map fun f =>
      if f.handler then { f with kind := .handler, resumeAt := none, handler := false } else { f with resumeAt := some at_ } }

end Sys2Proof.Machine
end

