-- ==== Sys2Proof/Machine/Units.lean ====
section
/-! DEFINITION. The start and the end of a unit (R20, R123 to R126, R238, R289, R290, R322). -/
namespace Sys2Proof.Machine
open Sys2Proof

/-- The registers a unit starts with (R20, R124, R238): register files, queues and counters at their launch values, the
rest of the tile as it stands. -/
def Tile.startUnit (x : Tile) (now entry iter : Nat) : Tile :=
  { x with
    use := .running
    sreg := [], vreg := [], kreg := []
    ports := [], rrPort := 0
    bsq := { profile4 := x.bsq.profile4 }
    mat := {}, c0 := {}, c1 := {}
    faults := [], held := [], freeze := none, clamped := none, constPend := []
    seq := { x.seq with
      on := true
      g := NMap.set 0#64 [] 1 (BitVec.ofNat 64 iter), ready := []
      pc := entry, issueAt := now, waitFrom := none
      accs := [], nextAcc := 0, mark := 0, fence := none, strmUntil := none, endAt := none, spawnWait := false
      csr := { x.seq.csr with
        mode := 0#2, epc := 0#14, ebaddr := 0#20, ecause := 0#16, eaddr := 0#64, estatus := 0#2
        cycle := 0#64, bndret := 0#64, stalls := 0#64, fflags := [], mprog := 0#64 } } }

/-- A unit starts on a loaded tile, at its entry or at `.resume` with g1 := I (R20, R238, R322). -/
def execUnitStart (t entry iter : Nat) (s : State) : Out' :=
  if Config.tiles ≤ t then .fault (.noSuchUnit "UNIT_START" t)
  else if (s.tile t).use ≠ .loading then .refused (.notEnabled "UNIT_START")
  else .next (s.modTile t fun x => x.startUnit s.now entry iter)

/-- A SPAWN's unit starts (R123, R124): SRSTATE, semaphores, scratchpad, constant bank and the CSRs of R124 stand. -/
def execSpawnUnitStart (t entry : Nat) (s : State) : Out' :=
  if Config.tiles ≤ t then .fault (.noSuchUnit "SPAWN_UNIT_START" t)
  else if !(s.tile t).spawned ∨ (s.tile t).use ≠ .loading then .refused (.notEnabled "SPAWN_UNIT_START")
  else .next (s.modTile t fun x => x.startUnit s.now entry 0)

/-- The waits of UEND (R125): the HALT retired, commands and write streams done, accesses performed, a combined store that
waits for a line in motion among them (R359). -/
def Tile.mayEnd (x : Tile) : Bool :=
  x.bsq.haltRetired && x.c0.cmds.isEmpty && x.c1.cmds.isEmpty && x.mat.queue.isEmpty &&
  (x.ports.all fun e => !(e.2.bound && e.2.write) || (e.2.buf.isEmpty && e.2.resv = 0)) &&
  x.seq.accs.all (·.performed) && x.wbuf.all (!·.flushing)

/-- Whether no tile of a launch runs a unit any more (R290). -/
def State.teamQuiet (s : State) (l : Launch) : Bool :=
  l.tiles.all fun t => (s.tile t).use = .ended || (s.tile t).use = .parked

/-- Set a DONEMAP bit and take one from the LCB's OUTST (R289, R290). -/
def State.unitReported (s : State) (l : Launch) (u : Nat) : State :=
  match s.vd? l.vd with
  | none => s
  | some v =>
    let s := match s.vdRead v (l.donemap + u / 8) 1 with
      | (s1, .ok [b]) => s1.vdPut v (l.donemap + u / 8) [b ||| BitVec.ofNat 8 (2 ^ (u % 8))]
      | (s1, _) => s1
    let s := (s.vdAtomic v (l.lcb + 8) (.fn 0) (2 ^ 64 - 1)).1
    s.modLaunch l.id fun l => { l with doneUnits := markIn l.doneUnits u }

/-- Waves of a launch (R290). -/
def Launch.waves (l : Launch) : Nat := if l.tiles.isEmpty then 0 else (l.nunits + l.tiles.length - 1) / l.tiles.length

/-- No walk and no request to the host is waited for by tile `t` any more. -/
def State.forgetTile (s : State) (t : Nat) : State :=
  let keep (w : Waiter) : Bool := w.tile? ≠ some t
  let s := s.modDies (fun _ => true) fun d => { d with walks := d.walks.map fun w => { w with waiters := w.waiters.filter keep } }
  { s with hostReqs := s.hostReqs.map fun r => { r with waiters := r.waiters.filter keep } }

/-- A tile begins its drain (R30, R416): nothing of it is left, and it stays bound to its world until the drain ends. That its
contents go in the drain's first cycle is a DESIGN CHOICE (log 138). -/
def State.drainTile (s : State) (t : Nat) : State :=
  let x := s.tile t
  let s := s.forgetTile t
  (s.setTile t { use := .draining, team := x.team, vd := x.vd, launch := x.launch
                 seq := { csr := { ctx := { world := x.seq.csr.ctx.world } } } }).postIn Config.drainCycles (.tileDrainComplete t)

/-- All tiles of a launch begin their drain. -/
def State.drainTeam (s : State) (l : Launch) : State :=
  (l.tiles.filter fun t => (s.tile t).launch = l.id).foldl State.drainTile s

/-- A launch whose last unit is over has succeeded: its tiles drain at once, and its report follows at the next tick
without waiting for them (R290). -/
def State.succeed (s : State) (l : Launch) : State :=
  ((s.modLaunch l.id fun l => { l with st := .draining, stopAction := 6, reason := 0 }).drainTeam l).postTick (s.tick + 1)
    (.launchComplete l.id)

/-- Once no unit of the team runs, the next wave or the launch's completion follows (R290); a team that drains or is
clamped for a pre-emption leaves its tiles and waits to return (R321, R322). -/
def State.afterUnit (s : State) (t : Nat) : State :=
  match s.launch? (s.tile t).launch with
  | none => s
  | some l =>
    if !s.teamQuiet l then s
    else match l.st with
      | .running => if l.wave + 1 < l.waves then s.postIn 0 (.waveStart l.id) else s.succeed l
      | .clamping =>
        if l.nunits ≤ l.doneUnits.length ∧ l.clampI.isEmpty then s.succeed l
        else (s.modLaunch l.id fun l => { l with st := .draining, stopAction := 5 }).drainTeam l
      | _ => s

/-- A unit has ended (R125, R126): its tile stands ended or parked, the freeze of a handler it ended in is over, a far SEMOVF
held through it is its team's, and the unit is reported unless it was spawned or clamped. -/
def State.finishUnit (s : State) (t : Nat) (parked : Bool) : State :=
  let x := s.tile t
  let s := s.modTile t fun y => { y with
    use := if parked then .parked else .ended
    spawned := false
    bsq := { y.bsq with cq := [] }
    freeze := none, held := []
    seq := { y.seq with on := false, waitFrom := none } }
  let s := (x.held.filter (·.far)).foldl (fun (s : State) f => s.raiseIdle t f) s
  let s := match s.launch? x.launch with
    | some l => if x.spawned || x.clamped.isSome then s else s.unitReported l x.seq.csr.unitidx.toNat
    | none => s
  s.afterUnit t

/-- UEND and PARK (R125, R126): a gate; the waits; CQ_PROTOCOL for entries left, unless the unit is clamped (R322). The
unit reports in the cycle after the one the wait ends in. -/
def endForm (s : State) (name : String) (parked : Bool) : Out' :=
  issueCtl s [] true true true fun _ =>
    match s.cur with
    | .keeper _ => .refused (.keeperLacks name)
    | .tile t =>
      let x := s.tile t
      if !x.mayEnd then .next s.waitCsq
      else if !x.bsq.cq.isEmpty && x.clamped.isNone then .next (s.raise cqProtocol 0#64)
      else if x.seq.endAt = some s.now then .next (s.finishUnit t parked)
      else .next (((s.flushWc t 7).modSeq s.cur fun q => { q with endAt := some (s.now + 1) }).waitCsq)

/-- UEND (R125). -/
def execUend (s : State) : Out' := endForm s "UEND" false
/-- PARK (R126). -/
def execPark (s : State) : Out' := endForm s "PARK" true

/-- A clamped unit whose HALT has retired and whose waits are done ends, its CSQ stopped and its CQ discarded (R322);
its combined stores perform first (R268). -/
def execClampedUnitEnd (t : Nat) (s : State) : Out' :=
  if Config.tiles ≤ t then .fault (.noSuchUnit "CLAMPED_UNIT_END" t)
  else
    let x := s.tile t
    if x.clamped.isSome && x.use = .running && x.mayEnd && x.freeze.isNone then
      .next (if x.wbuf.isEmpty then s.finishUnit t false else s.flushWc t 7)
    else .refused (.notEnabled "CLAMPED_UNIT_END")

/-- SPAWN (R123). -/
def execSpawn (a b : BitVec 6) (s : State) : Out' :=
  issueCtl s [a, b, 8#6, 9#6, 10#6, 11#6, 12#6, 13#6, 14#6, 15#6] true true true fun q =>
    let lt := (q.gr a).toNat
    match q.csr.ptile lt with
    | none => .next (s.raise spadBounds 0#64)
    | some u =>
      if q.csr.teamsz.toNat ≤ lt then .next (s.raise spadBounds 0#64)
      else if 16383 < (q.gr b).toNat then .next (s.raise illegalEnc 0#64)
      else if !q.allReleased then .next s.waitCsq
      else
        match s.cur with
        | .keeper _ => .next (s.raise spadBounds 0#64)
        | .tile t =>
          let s := s.flushWc t 7
          if (s.tile t).flushHeld 7 then .next s.waitCsq
          else if (s.tile u).use ≠ .parked then .next ((s.modTile u fun y => { y with latch := true }).raise spawnBusy 0#64)
          else
            let args := (List.range 8).foldl (fun m i => NMap.set 0#64 m i (q.gr (BitVec.ofNat 6 (8 + i)))) []
            let s := s.modTile u fun y => ({ y with use := .loading, spawned := true }).modCsr fun c => { c with args := args }
            (s.postIn (2 + 2 * hops t u) (.spawnUnitStart u (q.gr b).toNat)).retireWith id

end Sys2Proof.Machine
end

