-- ==== Sys2Proof/Machine/Save.lean ====
section
/-! DEFINITION. The cost estimator (R318, R319), the save region and the save of a team (R324 to R326), and the
loading of a saved team on new tiles (R328). -/
namespace Sys2Proof.Machine
open Sys2Proof

/-! ## The estimator (R318, R319) -/

/-- A product or sum of the estimator saturates at 2^48 - 1. -/
def sat48 (n : Nat) : Nat := min n (2 ^ 48 - 1)

/-- A cycle count in ticks (R319). -/
def estTicks (c : Nat) : Nat := (2 * c + 44) / 45

/-- The 64-byte lines an unindexed command has still to ask for: consecutive pieces of one source and one destination
line share a request (R202). -/
def CCmd.unsent (c : CCmd) : Nat → Nat → Nat → Option (Nat × Nat) → Nat → Nat
  | 0, _, _, _, n => n
  | fuel + 1, e, b, last, n =>
    if c.count ≤ e then n
    else
      let p := c.pieceAt e b (c.elemAddr 0 c.s1 e) (c.elemAddr 4 c.s2 e)
      let key := (if c.usesSrc then p.src.toNat / 64 else 0, p.dst.toNat / 64)
      let n := if last = some key ∧ !c.oneByOne then n else n + 1
      if b + p.len = c.srcBytes ∨ c.oneByOne then c.unsent fuel (e + 1) 0 (some key) n
      else c.unsent fuel e (b + p.len) (some key) n

/-- Lines a command has not asked for; an element at an index it has not read counts its own lines. -/
def CCmd.unsentLines (c : CCmd) : Nat :=
  if c.op = opCprf || c.op = opCfence || c.op = opCsig then 0
  else if c.indexed 0 || c.indexed 4 then (c.count - c.nextElem) * ((c.srcBytes + 63) / 64)
  else c.unsent ((c.count - c.nextElem) * (c.srcBytes / 32 + 4)) c.nextElem c.nextByte none 0

/-- Lq: the lines that C0 and C1 commands have still to perform. -/
def Tile.lq (x : Tile) : Nat :=
  x.c0.lines.length + x.c1.lines.length + ((x.c0.cmds ++ x.c1.cmds).map CCmd.unsentLines).sum

/-- LASTCYC of a level, or its CURCYC. -/
def Loop.cyc (l : Loop) : Nat := if l.lastcyc = 0 then l.curcyc else l.lastcyc

/-- The drain estimate of a running unit. -/
def Tile.estDrain (x : Tile) : Nat := sat48 ((x.bsq.loops.map fun l => l.rem * l.cyc).sum + 2 * x.lq + 640)

/-- The innermost active level with CLAMP = 1. -/
def Tile.clampLevel (x : Tile) : Option Loop := x.bsq.loops.find? (·.clamp)

/-- The clamp estimate of a running unit. -/
def Tile.estClamp (x : Tile) : Nat :=
  match x.clampLevel with
  | some c => sat48 (min c.rem (c.epi + 1) * c.cyc + 2 * x.lq + 640)
  | none => x.estDrain

/-- The four estimates, in cycles; none where a choice is unavailable. -/
structure Estimates where
  drain : Option Nat
  clamp : Option Nat
  save : Option Nat
  discard : Option Nat
  deriving DecidableEq, Repr

def Estimates.get (e : Estimates) (choice : Nat) : Option Nat :=
  match choice with
  | 0 => e.drain
  | 1 => e.clamp
  | 2 => e.save
  | _ => e.discard

/-- KEST (R319). -/
def Estimates.kest (e : Estimates) : Word :=
  BitVec.ofNat 64 (((List.range 4).map fun k =>
    (match e.get k with
      | some c => min (estTicks c) 0xFFFE
      | none => 0xFFFF) * 2 ^ (16 * k)).sum)

/-- Dies that hold tiles of a list. -/
def diesOf (tiles : List Nat) : List Nat := (tiles.map dieOf).eraseDups

/-- Cycles in which the dies write or read their tiles' records (R318, R324, R328), `rec` giving a tile's bytes. -/
def moveCycles (tiles : List (Nat × Nat)) : Nat :=
  (((tiles.map fun e => dieOf e.1).eraseDups).map fun d =>
    let mine := tiles.filter fun e => dieOf e.1 = d
    let rate := min 768 (192 * mine.length)
    ((mine.map Prod.snd).sum + rate - 1) / rate).foldl max 0

/-! ## The save region (R324, R438) -/

/-- The fitted stacks, in order. -/
def Fitted.stacks (f : Fitted) : List Nat := (List.range 12).filter fun n => bitOf n f.stackMap

/-- The PA of an offset of the save region: the top 512 MiB of each stack, in stack order. -/
def State.savePa (s : State) (off : Nat) : Nat :=
  (s.fitted.stacks.getD (off / saveRegionBytes) 0) * 2 ^ 38 + s.fitted.usableH + off % saveRegionBytes

abbrev up4k (n : Nat) : Nat := (n + 4095) / 4096 * 4096

/-- RECOFF of each tile and the area's LENGTH, from the tiles' live extents (R324). -/
def areaLayout (lives : List Nat) : List Nat × Nat :=
  lives.foldl (fun (r : List Nat × Nat) live => (r.1 ++ [r.2], up4k (r.2 + recBytes live)))
    ([], up4k (0x40 + 32 * lives.length))

/-- The lowest free run of the save region that holds `n` bytes. -/
def State.saveHole (s : State) (n : Nat) : Option Nat :=
  let used := (s.launches.filter fun (l : Launch) => l.saveLen ≠ 0).map fun l => (l.saveAt, l.saveLen)
  let starts := sortBy (fun a b => a ≤ b) (0 :: used.map fun r => r.1 + r.2)
  starts.find? fun o => o + n ≤ s.fitted.stacks.length * saveRegionBytes &&
    used.all fun r => o + n ≤ r.1 || r.1 + r.2 ≤ o

/-- The live extents of a team's tiles, in logical order. -/
def State.lives (s : State) (l : Launch) : List Nat := l.tiles.map fun t => (s.tile t).live

/-- The estimates of a team as it stands (R318). -/
def State.estimate (s : State) (l : Launch) : Estimates :=
  let xs := l.tiles.map s.tile
  let run := xs.filter fun x => x.use = .running
  let out := if xs.any fun x => !(x.c0.lines.isEmpty && x.c1.lines.isEmpty) then 320 else 0
  { drain := some ((run.map Tile.estDrain).foldl max 0)
    clamp := if l.image.resume.isSome && run.any (fun x => x.clampLevel.isSome) then some ((run.map Tile.estClamp).foldl max 0) else none
    save := if (s.saveHole (areaLayout (s.lives l)).2).isSome then
        some (sat48 (moveCycles (l.tiles.map fun t => (t, recBytes (s.tile t).live)) + out + 320)) else none
    discard := if l.restart then some (out + 2048) else none }

/-! ## The record (R38, R316) -/

/-- Bytes of an item that the part encodes as it likes (R325): free values. -/
def State.freeBytes (s : State) (n : Nat) : State × List Byte :=
  ({ s with fresh := s.fresh + n }, (List.range n).map fun i => Config.freeHostByte (s.fresh + i))

/-- The first 0x900 bytes of the snapshot item: CPYM bitmaps, scale offsets and TCFG blocks (R325). -/
def bytesSnapHead (x : Tile) : List Byte :=
  let cpym := (x.c0.cmds.filter (·.op = opCpym)) ++ (x.c1.cmds.filter (·.op = opCpym))
  let map (c : CCmd) : List Byte := (List.range 128).map fun n =>
    BitVec.ofNat 8 (((List.range 8).filter fun m => c.bitmap.contains (8 * n + m)).foldl (fun a m => a + 2 ^ m) 0)
  ((List.range 8).flatMap fun i => match cpym[i]? with
    | some c => map c
    | none => bytesOf 128 0) ++
  ((List.range 16).flatMap fun p => match x.mat.queue[p]? with
    | some c =>
      let mx := c.op = opMma && (isMx c.cfg.afmt || isMx c.cfg.bfmt)
      bytesOf 8 (if mx then c.al else 0) ++ bytesOf 8 (if mx then c.be else 0)
    | none => bytesOf 16 0) ++
  ((List.range 16).flatMap fun p => match x.mat.queue[p]? with
    | some c => if c.op = opTcfg then c.cfg.words.flatMap (bytesOf 4) else bytesOf 64 0
    | none => bytesOf 64 0)

/-- POS0 to POS3 of a port (R25): the position of its next element, dimension 0 innermost. -/
def Port.pos (p : Port) : List Nat :=
  let (c0, c1, c2) := (p.cnt.d0.toNat, p.cnt.d1.toNat, p.cnt.d2.toNat)
  if p.total = 0 then [0, 0, 0, 0]
  else [p.next % c0, p.next / c0 % c1, p.next / (c0 * c1) % c2, p.next / (c0 * c1 * c2)]

/-- A stream descriptor (R25): DIR and BOUND in the low bits of its last word. -/
def bytesPort (p : Port) : List Byte :=
  bytesOf 8 p.base ++ bytesOf 4 p.cnt.d0.toNat ++ bytesOf 4 p.cnt.d1.toNat ++ bytesOf 4 p.cnt.d2.toNat ++
  bytesOf 4 p.cnt.d3.toNat ++ ([p.str.d0, p.str.d1, p.str.d2, p.str.d3].flatMap fun d => bytesOf 4 (BitVec.ofInt 32 d).toNat) ++
  p.pos.flatMap (bytesOf 4) ++ bytesOf 8 (if !p.bound then 0 else if p.write then 3 else 1)

def bytesPorts (x : Tile) : List Byte := (List.range 64).flatMap fun p => bytesPort (x.ports.get {} p)

/-- The buffered elements of the ports. -/
def bytesBuffers (x : Tile) : List Byte :=
  (List.range 64).flatMap fun p => (List.range 16).flatMap fun i => match (x.ports.get {} p).buf[i]? with
    | some e => bytesOf 64 e.data.toNat
    | none => bytesOf 64 0

def bytesLtt (x : Tile) : List Byte := (List.range 1024).flatMap fun i => bytesOf 2 (x.seq.csr.ltte.get 0#16 i).toNat
def bytesConst (x : Tile) : List Byte := (List.range 4096).flatMap fun i => bytesOf 4 (x.constWord i).toNat

/-- The record of tile `t`, the items of R38 in their order, then its live scratchpad and its poison map. -/
def State.recordOf (s : State) (t : Nat) (x : Tile) : State × List Byte :=
  let (s, window) := s.freeBytes 1024
  let (s, snap) := s.freeBytes (14336 - 0x900)
  (s, bytesG x ++ bytesS x ++ bytesV x ++ bytesK x ++ bytesFf x ++ bytesSr x ++ bytesAcc x ++ bytesOf 8 x.seq.csr.mprog.toNat ++
    bytesTcfg x ++ bytesMq x ++ bytesSems x ++ bytesCq x ++ window ++ bytesPorts x ++ bytesBuffers x ++ bytesCopyq x ++
    bytesSnapHead x ++ snap ++ bytesSeq x ++ bytesCtl t x ++ bytesLtt x ++ bytesConst x ++ x.bytes 0 x.live ++ bytesPoison x)

/-- Write bytes of the save region, line by line, by the save path. -/
def State.regionWrite (s : State) (off : Nat) (bs : List Byte) : State :=
  (runParts off bs.length).foldl (fun (s : State) p =>
    (s.putLine false false true (s.savePa p.addr) ((bs.drop (p.addr - off)).take p.len)).getD s) s

/-- Read bytes of the save region. -/
def State.regionRead (s : State) (off n : Nat) : List Byte := (List.range n).map fun i => s.mem.deviceByte (s.savePa (off + i))

/-- A directory entry. -/
def dirEntry (off live st : Nat) : List Byte :=
  bytesOf 8 off ++ bytesOf 4 live ++ bytesOf 1 st ++ bytesOf 3 0 ++ bytesOf 8 (off + 230032 + live) ++ bytesOf 8 0

/-- The header at COMMIT. -/
def areaHeader (l : Launch) (world time len : Nat) : List Byte :=
  bytesOf 4 0x53484749 ++ bytesOf 2 1 ++ bytesOf 2 1 ++ bytesOf 2 l.tiles.length ++ bytesOf 1 l.image.teamw ++
  bytesOf 1 l.image.teamh ++ bytesOf 2 l.vd ++ bytesOf 1 world ++ bytesOf 1 0 ++ bytesOf 8 time ++ bytesOf 8 len ++
  bytesOf 32 l.image.digest.toNat

/-- Write a team's area: records, directory and header (R324). -/
def State.writeArea (s : State) (l : Launch) (world : Nat) : State :=
  let (offs, len) := areaLayout (s.lives l)
  let s := (l.tiles.zip offs).foldl (fun (s : State) (t, o) =>
    let (s, bs) := s.recordOf t (s.tile t)
    s.regionWrite (l.saveAt + o) bs) s
  let dir := (l.tiles.zip offs).flatMap fun (t, o) => dirEntry o (s.tile t).live (s.tile t).saveState
  (s.regionWrite (l.saveAt + 0x40) dir).regionWrite l.saveAt (areaHeader l world s.tick len)

/-! ## SAVE (R324) -/

/-- Buffered writes of a team's tiles perform, those of its copies among them (R40, R208, R268, R370); whether none waits
still. -/
def State.flushTeam (s : State) (l : Launch) : State × Bool :=
  let s := l.tiles.foldl (fun (s : State) t => if (s.tile t).launch = l.id then s.flushWc t 31 else s) s
  (s, l.tiles.all fun t => (s.tile t).launch ≠ l.id || !(s.tile t).flushHeld 31)

/-- A fault of the team is on its way to the keeper, who takes it before a save or a discard ends (R331). -/
def State.faultOpen (s : State) (l : Launch) : Bool := s.kfaults.any fun k => (s.tile k.tile).launch = l.id

/-- SAVE (R324): once every tile has drained the records are written at the dies' rate; at COMMIT the area is whole, the
context of every tile is captured, and the tiles drain. -/
def execSave (team : Nat) (s : State) : Out' :=
  match s.team? team with
  | none => .refused (.notEnabled "SAVE")
  | some l =>
    if l.st ≠ .saving ∨ !l.settled ∨ s.faultOpen l then .refused (.notEnabled "SAVE")
    else if l.saveTime = 0 then
      let due := s.now + max 1 (moveCycles (l.tiles.map fun t => (t, recBytes (s.tile t).live)))
      .next ((s.modLaunch l.id fun l => { l with saveTime := due }).post due (.save team))
    else if s.now < l.saveTime then .refused (.notEnabled "SAVE")
    else
      let s := s.writeArea l ((s.vd? l.vd).map (·.world) |>.getD 0)
      let data := l.tiles.zipIdx.map fun (t, lt) => (lt, (s.tile t).context, (s.tile t).saveState)
      let s := s.modLaunch l.id fun l => { l with st := .draining, saveData := data, saveTime := 0 }
      .next (s.drainTeam l)

/-! ## Restoring (R328) -/

/-- The runs of an area that its save has written, by offset: header and directory, and each record with its poison map. -/
def Launch.areaRuns (l : Launch) : List (Nat × Nat) :=
  let lives := l.saveData.map fun e => e.2.1.live
  (0, 0x40 + 32 * lives.length) :: ((areaLayout lives).1.zip lives).map fun e => (e.1, recBytes e.2)

/-- Check lines where they lie; whether one is found bad. -/
def State.checkLines (s : State) : List Nat → State × Bool
  | [] => (s, false)
  | pa :: l =>
    let (s, r) := s.checkLine pa
    let (s, bad) := s.checkLines l
    (s, bad || r != LineRes.good)

/-- What the area holds: nothing wrong, or the reason its use fails with. An area whose key has been scrubbed reads as
INTEGRITY (R140, R324). -/
def State.areaCheck (s : State) (l : Launch) (world : Nat) : State × Option Nat :=
  let (s, bad) := s.checkLines ((l.areaRuns.flatMap fun r => runParts (l.saveAt + r.1) r.2).map fun p => s.savePa p.addr)
  let h := s.regionRead l.saveAt 0x40
  let ok := field h 0 4 = 0x53484749 && bitOf 48 (field h 0 8) && field h 14 1 = world && hashOf (slice h 0x20 32) = l.image.digest
  (s, if bad || !ok || s.scrubbedKey l.saveKey then some integrity else none)

/-- Part of a launch's area lies on stack `n`. -/
def State.areaOn (s : State) (l : Launch) (n : Nat) : Bool :=
  (List.range (l.saveLen / 4096)).any fun i => homeOf (s.savePa (l.saveAt + 4096 * i)) = some (.stack n)

/-- Put a saved team on its new tiles: they resume together once the last die has read its records and the programs are
loaded. -/
def State.restoreTeam (s : State) (l : Launch) (old : List Nat) : State :=
  let data := l.saveData.map fun (lt, x, st) => (l.tiles.getD lt 0, x, st)
  let due := s.now + 1 + max (moveCycles (data.map fun e => (e.1, recBytes e.2.1.live))) ((startTicks * Config.unitsPerTick + 1) / 2)
  let s := data.foldl (fun (s : State) (t, x, st) =>
    s.setTile t { x.restored l old l.tiles st due (s.wall + 2 * (due - s.now)) with team := l.team, vd := l.vd, launch := l.id }) s
  s.modLaunch l.id fun l => { l with saveData := [], saveLen := 0, saveAt := 0 }

end Sys2Proof.Machine
end

