-- ==== Sys2Proof/Machine/Launches.lean ====
section
/-! DEFINITION. Launches from their dispatch to their end (R284, R290 to R294, R304, R305, R321, R322, R328, R329):
placing what waits, resuming what is held, waves, the drain of tiles, discarding and cancelling. -/
namespace Sys2Proof.Machine
open Sys2Proof

/-! ## Dispatch order of what waits (R304) -/

/-- The PRIO a launch competes with. -/
def State.launchPrio (s : State) (l : Launch) : Nat :=
  if l.st = .waiting && l.built then (s.tag { vd := l.vd, pkt := l.pkt }).1 else l.prio

/-- Launches that want tiles in dispatch order: the higher PRIO, the lower queue, held teams ahead of what has not
started, then the order of dispatch. -/
def State.wantOrder (s : State) (a b : Launch) : Bool :=
  let key (l : Launch) : Nat × Nat × Nat × Nat :=
    (7 - s.launchPrio l, (l.pkt.map Prod.fst).getD 0, if l.st = .saved then 0 else 1, l.id)
  let x := key a
  let y := key b
  x.1 < y.1 || (x.1 = y.1 && (x.2.1 < y.2.1 || (x.2.1 = y.2.1 && (x.2.2.1 < y.2.2.1 || (x.2.2.1 = y.2.2.1 && x.2.2.2 ≤ y.2.2.2)))))

/-- A VD's launches that want tiles. -/
def State.wanting (s : State) (vd : Nat) : List Launch :=
  sortBy s.wantOrder (s.launches.filter fun l => l.vd = vd && (l.st = .waiting || l.st = .saved))

/-! ## Resuming a held team (R322, R328, R329) -/

/-- The first wave from the launch's that has a unit to run. -/
def Launch.nextWave (l : Launch) : Nat :=
  ((List.range (l.nunits + 1)).map (· + l.wave)).find? (fun w => (List.range l.size).any fun lt => ({ l with wave := w } : Launch).starts lt)
    |>.getD l.wave

/-- Place a held team again: its saved context is restored, or its unfinished units are relaunched. -/
def State.resumeLaunch (s : State) (v : Vd) (l : Launch) (ox oy : Nat) : State :=
  let (prio, subj) := s.tag { vd := l.vd, pkt := l.pkt }
  let old := l.tiles
  let restore := !l.saveData.isEmpty
  let l := { l with
    st := .running, tiles := teamTiles l.image.teamw l.image.teamh ox oy, heldSince := s.tick, stopAction := 0, settled := false
    wave := if restore then l.wave else l.nextWave, firstFault := none }
  let s := (s.modLaunch l.id fun _ => l).measureTeam v l
  let s := if restore then s.restoreTeam l old
    else ((s.loadTeam v l).postStarts l (s.tick + startTicks)).modLaunch l.id fun l => { l with clampI := [] }
  let s := s.trace l.vd .resume prio l.team subj (placeData l.tiles)
  let s := s.adjustQuantum v l prio subj
  match l.tiles with
  | t :: _ => if restore && s.teamQuiet l then s.afterUnit t else s
  | [] => s

/-- Free a launch's save area. -/
def State.freeArea (s : State) (l : Launch) : State :=
  (s.modLaunch l.id fun l => { l with saveData := [], saveLen := 0, saveAt := 0, saveTime := 0, areaGone := false }).checkFreed l.saveKey

/-- The stack of a held team's area is lost (R331): a restartable launch is to be relaunched from its entry, as by a discard,
and any other fails. -/
def State.loseArea (s : State) (l : Launch) : State :=
  let s := s.freeArea l
  if l.restart then s.modLaunch l.id fun l => { l with clampI := [], relaunched := true }
  else match s.launch? l.id with
    | some l => s.completeLaunch l dieResetReason (s.tick + 1)
    | none => s

/-- What a held team's area allows (R39, R328): its area checked, its image read and measured anew from where it lies
sealed; a colophon that differs from the one recorded at the save fails it with INTEGRITY. -/
def State.openArea (s : State) (l : Launch) (v : Vd) : State × Except Nat Launch :=
  if l.saveData.isEmpty then (s, .ok l)
  else match s.areaCheck l v.world with
    | (s, some r) => (s.freeArea l, .error r)
    | (s, none) => match s.readImage v l.imageDva with
      | (s, .error c) => (s.freeArea l, .error c)
      | (s, .ok img) => if img.digest = l.image.digest then (s, .ok { l with image := img }) else (s.freeArea l, .error integrity)

/-- A place where no tile is one that the head of another VD, of a WEIGHT not 0, cannot be placed without; asked of a team of
a VD of WEIGHT 0 (R300, R303). -/
def State.spare (s : State) (v : Vd) (t : Nat) : Bool :=
  s.tileFree t && (v.weight ≠ 0 || (s.vds.filterMap Prod.snd).all fun u =>
    u.vd = v.vd || u.weight = 0 || !u.owns t || match s.wanting u.vd with
      | [] => true
      | l :: _ => (findPlace u l.image.teamw l.image.teamh fun x => x ≠ t && s.tileFree x).isSome)

/-- Try to give one launch its tiles. -/
def State.tryLaunch (s : State) (id : Nat) : State :=
  match s.launch? id with
  | none => s
  | some l =>
    match s.vd? l.vd with
    | none => s
    | some v =>
      if v.st = 3 then s
      else if l.st = .saved then
        match findPlace v l.image.teamw l.image.teamh (s.spare v) with
        | none => s.postIn 0 (.preemptRequest l.vd)
        | some (ox, oy) => match s.openArea l v with
          | (s, .error r) => s.completeLaunch l r (s.tick + 1)
          | (s, .ok l) => s.resumeLaunch v l ox oy
      else if l.st ≠ .waiting then s
      else if poolBytes < l.poolNeed || !s.canFit v l.image then s.rejectLaunch l noFit
      else
        let image := match l.pkt with
          | some (q, i) => ((v.pkt? q i).map (·.word 2)).getD 0
          | none => 0
        let (s, met) := if l.allocated then (s, true) else s.allocate v l image
        if !met then s
        else match s.launch? id, findPlace v l.image.teamw l.image.teamh (s.spare v) with
          | some l, some (ox, oy) => s.placeLaunch v l ox oy
          | _, _ => s.postIn 0 (.preemptRequest v.vd)

/-- Try everything of a VD that waits, in dispatch order. -/
def State.tryAll (s : State) (vd : Nat) : State := (s.wanting vd).foldl (fun s l => s.tryLaunch l.id) s

/-- POOL_ALLOC_RETRY (R292, R304): the pool or tiles have changed, and what waits is tried again. -/
def execPoolAllocRetry (vd : Nat) (s : State) : Out' :=
  if (s.wanting vd).isEmpty then .refused (.notEnabled "POOL_ALLOC_RETRY") else .next (s.tryAll vd)

/-! ## LAUNCH -/

/-- A head that dispatches before `x` (R304). -/
def State.outranked (s : State) (v : Vd) (x : Pkt) : Bool :=
  v.jrnl.any fun y => y.typ = tyLaunch && y.st = PktSt.accepted && y.queued && y.startTick ≤ s.tick &&
    (s.builtBy v.vd y).isNone && v.before y x && !v.before x y

/-- LAUNCH (R283, R284, R287): the image is taken and the keeper-built launch waits to be placed. -/
def execLaunch (p : PktId) (s : State) : Out' :=
  s.starting "LAUNCH" p tyLaunch fun v x =>
    if (s.builtBy p.vd x).isSome then .refused (.notEnabled "LAUNCH")
    else if s.outranked v x then .next (s.postIn 0 (.launch p))
    else match s.readImage v (x.word 2) with
      | (s, .error code) => .next (s.endPkt p code)
      | (s, .ok img) =>
        let (id, s) := s.newId
        let l : Launch :=
          { id := id, vd := p.vd, lcb := 0, built := true, pkt := some (p.q, p.idx), image := img, imageDva := x.word 2
            lseed := x.words.getD 3 0#64, nunits := img.teamw * img.teamh, prio := v.prioOf x
            args := (x.words.drop 4).take 4 }
        .next (State.tryAll { s with launches := s.launches ++ [l] } p.vd)

/-! ## Waves and the end (R290) -/

/-- WAVE_START: the tiles of a team whose wave is over drain, and are loaded for the next one. -/
def execWaveStart (id : Nat) (s : State) : Out' :=
  match s.launch? id with
  | none => .refused (.notEnabled "WAVE_START")
  | some l =>
    if l.st = .running && l.wave + 1 < l.waves && s.teamQuiet l then
      .next ((s.modLaunch id fun l => { l with wave := l.wave + 1 }).drainTeam l)
    else .refused (.notEnabled "WAVE_START")

/-- Every tile of a team has left its drain. -/
def State.allDrained (s : State) (l : Launch) : Bool := l.tiles.all fun t => (s.tile t).launch ≠ l.id

/-- LAUNCH_COMPLETE: after the last unit of a launch that succeeds, whose tiles drain meanwhile; after the drain of one
that does not. -/
def execLaunchComplete (id : Nat) (s : State) : Out' :=
  match s.launch? id with
  | none => .refused (.notEnabled "LAUNCH_COMPLETE")
  | some l =>
    if l.st = .draining && l.stopAction = 6 then .next ((s.completeLaunch l 0 s.tick).dropDone.retryAll)
    else if l.st = .draining && s.allDrained l && (l.stopAction = 0 || l.stopAction = 1 || l.stopAction = 3) then
      .next ((s.completeLaunch l l.reason s.tick).dropDone.retryAll)
    else .refused (.notEnabled "LAUNCH_COMPLETE")

/-- A tile of a team between two waves is loaded; once all are, the units start together. -/
def State.loadForWave (s : State) (v : Vd) (l : Launch) (t : Nat) : State :=
  let lt := l.tiles.idxOf t
  let x := loadedTile v l lt (l.unitOf lt)
  let s := s.setTile t (if l.owed lt then x else { x with use := .parked })
  if l.tiles.all fun u => (s.tile u).use = .loading || (s.tile u).use = .parked then
    ({ s with fresh := s.fresh + 1 } : State).postStarts l (s.tick + min startTicks (Config.freeDelay s.fresh))
  else s

/-- The last tile of a team has drained: a team to be resumed or relaunched is held, any other launch ends. -/
def State.teamDrained (s : State) (l : Launch) : State :=
  if l.st ≠ .draining || !s.allDrained l then s
  else if l.stopAction = 2 || l.stopAction = 4 || l.stopAction = 5 then
    let s := s.modLaunch l.id fun l => { l with st := .saved }
    if l.areaGone then s.loseArea l else s
  else if l.stopAction = 6 then s
  else s.postTick (s.tick + 2) (.launchComplete l.id)

/-- The tiles a stopped team still holds drain; with none left it is drained already. -/
def State.leaveTiles (s : State) (l : Launch) : State :=
  let s := s.drainTeam l
  match s.launch? l.id with
  | some l => if s.allDrained l then (s.teamDrained l).retryAll else s
  | none => s

/-- TILE_DRAIN_COMPLETE (R30, R290, R416): the tile is free, or loaded for its team's next wave. -/
def execTileDrainComplete (t : Nat) (s : State) : Out' :=
  if Config.tiles ≤ t then .fault (.noSuchUnit "TILE_DRAIN_COMPLETE" t)
  else if (s.tile t).use ≠ .draining then .refused (.notEnabled "TILE_DRAIN_COMPLETE")
  else match s.launch? (s.tile t).launch with
    | none => .next (s.setTile t {}).retryAll
    | some l => match l.st, s.vd? l.vd with
      | .running, some v => .next (s.loadForWave v l t)
      | _, _ => .next ((((s.setTile t {}).teamDrained l).dropDone).retryAll)

/-! ## Clamps (R321) -/

/-- A clamp on a unit: REM of the innermost clampable level and of those outside it; the iteration it records. None where
no level is clampable. -/
def Bsq.clampNow (b : Bsq) : Option (Bsq × Nat) :=
  match b.loops.findIdx? (·.clamp) with
  | none => none
  | some i =>
    let c := b.loops.getD i { rem := 0, iter := 0, start := 0, epi := 0, clamp := false, loopId := 0 }
    let r := min c.rem (c.epi + 1)
    some ({ b with loops := b.loops.zipIdx.map fun (l, j) =>
      if j = i then { l with rem := r } else if i < j then { l with rem := 1 } else l }, c.iter + r - c.epi)

/-- CLAMP_ARRIVAL (R321): acts on the running unit of a tile, after an ENDL of the same cycle; a unit with no clampable
level active runs to its end. -/
def execClampArrival (t team : Nat) (s : State) : Out' :=
  if Config.tiles ≤ t then .fault (.noSuchUnit "CLAMP_ARRIVAL" t)
  else
    let x := s.tile t
    match s.team? team with
    | none => .refused (.notEnabled "CLAMP_ARRIVAL")
    | some l =>
      if x.team ≠ team ∨ x.use ≠ .running ∨ l.st ≠ .clamping then .refused (.notEnabled "CLAMP_ARRIVAL")
      else match x.bsq.clampNow with
        | none => .next s
        | some (b, i) =>
          let s := s.setTile t { x with bsq := b, clamped := some i }
          .next (s.modLaunch l.id fun l => { l with clampI := l.clampI.insert x.seq.csr.unitidx.toNat i })

/-! ## Discard (R329) -/

/-- DISCARD: a halted team has come to rest; its tiles drain, and its unfinished units are relaunched later from their
entry, or not at all. -/
def execDiscard (team : Nat) (s : State) : Out' :=
  match s.team? team with
  | none => .refused (.notEnabled "DISCARD")
  | some l =>
    if l.st = .halting && l.settled && !s.faultOpen l && (l.stopAction = 2 || l.stopAction = 3) then
      .next ((s.modLaunch l.id fun l =>
        { l with st := .draining, clampI := [], relaunched := l.relaunched || l.stopAction = 2 }).leaveTiles l)
    else .refused (.notEnabled "DISCARD")

/-! ## CANCEL (R293) -/

/-- The blocks above a launch that the keeper has dispatched. -/
def Vd.above (v : Vd) (l : Launch) : List Nat :=
  let up (b : Nat) : Nat := if b = 0 then 0 else ((v.blocks.find? (·.dva = b)).map (·.parent)).getD 0
  let g := l.gcb
  let p := up g
  (l.lcb :: [g, p, up p]).filter (· ≠ 0)

/-- The graphs dispatched at or below block `b`. -/
def Vd.graphsUnder (v : Vd) (b : Nat) : List Block :=
  v.blocks.filter fun g => g.kind = 2 && (g.dva = b || g.parent = b ||
    ((v.blocks.find? (·.dva = g.parent)).map (·.parent)) = some b)

/-- A launch whose last unit has completed: a CANCEL comes too late for it. -/
def State.unitsOver (s : State) (l : Launch) : Bool :=
  ((l.st = .running || l.st = .clamping) && s.teamQuiet l && l.waves ≤ l.wave + 1) || (l.st = .draining && l.stopAction = 6)

/-- The PHASE packet that dispatched a graph (R312). -/
def Vd.phaseOf (v : Vd) (g : Nat) : Option (Nat × Nat) :=
  let p := ((v.blocks.find? (·.dva = g)).map (·.parent)).getD 0
  (v.jrnl.find? fun x => x.typ = tyPhase && x.st = .started && x.top = p && p ≠ 0).map fun x => (x.qnum, x.idx)

/-- Cancel one launch that has been dispatched; whether the packet has to wait for it. -/
def State.cancelLaunch (s : State) (v : Vd) (l : Launch) : State × Bool :=
  let at_ := s.tick + 1
  match l.st with
  | .done => (s, false)
  | .waiting => (s.completeLaunch l cancelled at_, false)
  | .saved => ((s.freeArea l).completeLaunch l cancelled at_, false)
  | .running | .clamping | .saving =>
    if s.unitsOver l then (s, false)
    else
      let s := (s.freeArea l).modLaunch l.id fun l => { l with st := .halting, stopAction := 3, reason := cancelled, settled := false }
      (s.haltTeam (.keeper (2 * v.home)) l.team, true)
  | .halting | .draining =>
    if s.unitsOver l then (s, false)
    else if l.stopAction = 2 || l.stopAction = 4 || l.stopAction = 5 then
      ((s.freeArea l).modLaunch l.id fun l => { l with stopAction := 3, reason := cancelled }, true)
    else (s, true)
  | .dumping => (s, true)

/-- Mark the launches under a block that are not placed. -/
def State.markCancelled (s : State) (v : Vd) (dvas : List Nat) : State :=
  dvas.foldl (fun (s : State) b => s.modHeader v b fun h => putBits h 24 1 1) s

/-- The LCBs of a graph that are still NEW. -/
def State.newKids (s : State) (v : Vd) (g : Block) : State × List Nat :=
  g.kids.foldl (fun (r : State × List Nat) b =>
    match r.1.vdWord v b with
    | (s, .ok h) => (s, if hdrKind h = 1 && hdrState h = stNew then r.2 ++ [b] else r.2)
    | (s, .error _) => (s, r.2)) (s, [])

/-- CANCEL on a block that is under way: launches not placed never start, running teams are discarded. The launches the
packet has to wait for. -/
def State.cancelTree (s : State) (v : Vd) (b : Nat) : State × List Nat :=
  let mine := s.launches.filter fun l => l.vd = v.vd && l.st != LaunchSt.done && (v.above l).contains b
  let graphs := v.graphsUnder b
  let unplaced := (mine.filter fun l => l.st = LaunchSt.waiting && l.lcb ≠ 0).map (·.lcb)
  let (s, kids) := graphs.foldl (fun (r : State × List (Nat × Nat)) g =>
    let (s, l) := r.1.newKids v g
    (s, r.2 ++ l.map fun k => (k, g.dva))) (s, [])
  let s := s.markCancelled v (unplaced ++ kids.map Prod.fst)
  let c (g : Nat) : Cause := { vd := v.vd, pkt := v.phaseOf g, at_ := s.tick + 1 }
  let (s, waits) := mine.foldl (fun (r : State × List Nat) l =>
    match r.1.launch? l.id with
    | some l => let (s, w) := r.1.cancelLaunch v l; (s, if w then r.2 ++ [l.id] else r.2)
    | none => r) (s, [])
  (kids.foldl (fun (s : State) k => s.complete (c k.2) k.1 cancelled k.2) s, waits)

/-- Everything below a block under way has ended but for launches whose last unit has completed: the block is DONE as far as
a CANCEL goes. -/
def State.blockOver (s : State) (v : Vd) (b : Nat) : Bool :=
  let mine := s.launches.filter fun l => l.vd = v.vd && l.st != LaunchSt.done && (v.above l).contains b
  let open_ := (v.graphsUnder b).flatMap fun g => g.kids.filter fun k => !g.ended.contains k
  let lastPhase := (v.blocks.all fun k => k.dva ≠ b || k.kind ≠ 4) || (match (s.vdWord v (b + 8)).2 with
    | .ok n => n = 1
    | .error _ => true)
  !mine.isEmpty && mine.all s.unitsOver && (open_.all fun k => mine.any fun l => l.lcb = k) && lastPhase

/-- CANCEL (R293). -/
def execCancel (p : PktId) (s : State) : Out' :=
  s.starting "CANCEL" p tyCancel fun v x =>
    let b := x.word 2
    let s := s.startPkt p id
    match s.vdWord v b with
    | (s, .error code) => .next (s.endPkt p (s.lostReason v b code))
    | (s, .ok h) =>
      if stDone ≤ hdrState h ∨ s.blockOver v b then .next (s.endPkt p 0)
      else
        let s := s.modHeader v b fun h => putBits h 24 1 1
        if hdrState h = stNew then
          let gcb := ((v.blocks.find? fun g => g.kind = 2 && g.kids.contains b).map (·.dva)).getD 0
          .next ((s.complete { vd := p.vd, pkt := v.phaseOf gcb, at_ := s.tick + 1 } b cancelled gcb).endPkt p 0)
        else
          let (s, waits) := s.cancelTree v b
          .next (if waits.isEmpty then s.endPkt p 0 else s.modPkt p fun x => { x with waits := waits })

end Sys2Proof.Machine
end

