-- ==== Sys2Proof/Machine/Preempt.lean ====
section
/-! DEFINITION. Pre-emption (R303, R304, R318 to R321, R331) and the operation block of the keeper (R311). -/
namespace Sys2Proof.Machine
open Sys2Proof

/-! ## The choice (R320) -/

/-- The choice and the flags of DATA[3:2]; none where a forced choice is unavailable. -/
def Estimates.choose (e : Estimates) (deadline : Nat) (restart : Bool) (force : Option Nat) : Option (Nat × Nat) :=
  let late (c : Nat) : Bool := (e.get c).any fun n => deadline < estTicks n
  match force with
  | some c => if (e.get c).isSome then some (c, 4 + if late c then 8 else 0) else none
  | none =>
    match (List.range 4).find? fun c => (e.get c).isSome && !late c with
    | some c => some (c, 0)
    | none => some (if e.save.isSome then 2 else if restart then 3 else 0, 8)

/-- The DATA of a PREEMPT record (R312). -/
def preemptData (choice flags est deadline : Nat) : Nat :=
  choice + flags + min (estTicks est) (2 ^ 24 - 1) * 2 ^ 8 + deadline % 2 ^ 32 * 2 ^ 32

/-- Send a clamp to the tiles of a team, as the halt broadcast of R138 travels (R321). -/
def State.sendClamp (s : State) (v : Vd) (l : Launch) : State :=
  l.tiles.foldl (fun (s : State) t => s.postIn (10 + 8 * dieEdges v.home (dieOf t)) (.clampArrival t l.team)) s

/-- Begin what was chosen for a team. -/
def State.beginChoice (s : State) (v : Vd) (l : Launch) (choice : Nat) : State :=
  let set (st : LaunchSt) (action : Nat) : State := s.modLaunch l.id fun l => { l with st := st, stopAction := action, settled := false }
  let keeper : SeqId := .keeper (2 * v.home)
  match choice with
  | 0 => set .clamping 0
  | 1 => (set .clamping 0).sendClamp v l
  | 2 =>
    let len := (areaLayout (s.lives l)).2
    match s.saveHole len with
    | some o => ((set .saving 4).modLaunch l.id fun l =>
        { l with saveAt := o, saveLen := len, saveTime := 0, saveKey := v.ctx.hwkey.toNat, areaGone := false }).haltTeam keeper l.team
    | none => s
  | _ => (set .halting 2).haltTeam keeper l.team

/-- A unit of the team runs, or is on its way to a parked tile. -/
def State.unitRuns (s : State) (l : Launch) : Bool := l.tiles.any fun t => (s.tile t).use = .running || (s.tile t).spawned

/-- KPREEMPT's work: the estimates, the choice, the PREEMPT record, and its beginning; none when it is refused (R320,
R331). -/
def State.preempt (s : State) (v : Vd) (l : Launch) (deadline : Nat) (force : Option Nat) : Option State :=
  if l.st ≠ .running ∨ !s.unitRuns l then none
  else
    let e := s.estimate l
    let s := { s with kblock := { s.kblock with kest := e.kest } }
    match e.choose deadline l.restart force with
    | none => none
    | some (c, flags) =>
      let (prio, subj) := s.tag { vd := l.vd, pkt := l.pkt }
      let s := s.trace l.vd .preempt prio l.team subj (preemptData c flags ((e.get c).getD (2 ^ 48)) deadline)
      some (s.beginChoice v l c)

/-! ## Requests (R303, R304) -/

/-- A tile that is free or will be without a further request. -/
def State.comingFree (s : State) (t : Nat) : Bool :=
  let x := s.tile t
  !(s.die (dieOf t)).resetting && !(s.die (dieOf t)).held &&
  (x.use = .free || match s.launch? x.launch with
    | some l => l.st != LaunchSt.running
    | none => true)

/-- The launch fits once the tiles of `vs` are free. -/
def State.fitsWith (s : State) (v : Vd) (l : Launch) (vs : List Launch) : Option (Nat × Nat) :=
  findPlace v l.image.teamw l.image.teamh fun t => s.comingFree t || vs.any fun u => (s.tile t).launch = u.id

/-- Teams of the VD with PRIO below `p`, in the order in which they are pre-empted. -/
def State.lowerTeams (s : State) (v : Vd) (p : Nat) : List Launch :=
  sortBy (fun (a b : Launch) => a.prio < b.prio || (a.prio = b.prio && (b.heldSince < a.heldSince || (a.heldSince = b.heldSince && b.id ≤ a.id))))
    (s.launches.filter fun l => l.vd = v.vd && l.st = LaunchSt.running && l.prio < p)

/-- The shortest first part of a list with which the launch fits. -/
def State.firstThatFit (s : State) (v : Vd) (l : Launch) (vs : List Launch) : Option (List Launch) :=
  ((List.range (vs.length + 1)).map fun n => vs.take n).find? fun part => (s.fitsWith v l part).isSome

/-- Teams of other VDs that R303 lets `v` have pre-empted, the longest held first. -/
def State.otherTeams (s : State) (v : Vd) : List Launch :=
  if v.weight = 0 then []
  else sortBy (fun (a b : Launch) => a.heldSince ≤ b.heldSince) (s.launches.filter fun l =>
    l.vd ≠ v.vd && l.st = LaunchSt.running && match s.vd? l.vd with
      | some u => !u.excl && (u.weight = 0 || (v.vt < u.vt && u.qeff * 100 ≤ s.tick - l.heldSince))
      | none => false)

/-- Request the pre-emption of teams, one after the other. -/
def State.preemptAll (s : State) (deadline : Nat) (vs : List Launch) : State :=
  vs.foldl (fun (s : State) l => match s.vd? l.vd with
    | some u => (s.preempt u l deadline none).getD s
    | none => s) s

/-- What the keeper requests for one launch that does not fit: teams of its own VD of lower PRIO, or those teams of other
VDs that hold tiles it would take. -/
def State.requestFor (s : State) (v : Vd) (l : Launch) : State :=
  match s.firstThatFit v l (s.lowerTeams v (s.launchPrio l)) with
  | some vs => s.preemptAll (if l.deadline ≠ 0 then l.deadline else v.deadline) vs
  | none =>
    let vs := s.otherTeams v
    match s.fitsWith v l vs with
    | none => s
    | some (ox, oy) =>
      let place := teamTiles l.image.teamw l.image.teamh ox oy
      s.preemptAll v.deadline (vs.filter fun u => place.any fun t => (s.tile t).launch = u.id)

/-- PREEMPT_REQUEST (R303, R304): heads that cannot be placed, in dispatch order. -/
def execPreemptRequest (vd : Nat) (s : State) : Out' :=
  match s.vd? vd with
  | none => .refused (.notEnabled "PREEMPT_REQUEST")
  | some v =>
    let ls := (s.wanting vd).filter fun l => l.allocated || l.st = LaunchSt.saved
    if ls.isEmpty then .refused (.notEnabled "PREEMPT_REQUEST")
    else .next (ls.foldl (fun (s : State) l => s.requestFor v l) s)

/-! ## The operation block (R311) -/

/-- An operation is refused: no effect, no record, KSTAT[15:8] = 0x13. -/
def State.refuseOp (s : State) : State := { s with kblock := { s.kblock with reason := vdcfg } }

/-- The packet in a journal place that a keeper sequencer serves: of the lowest VD it serves that has one there. -/
def State.entryOf (s : State) (k slot : Nat) : Option (Vd × Pkt) :=
  (s.vds.filterMap Prod.snd).findSome? fun v =>
    let alone := !(s.seq (.keeper (2 * (k / 2) + (k + 1) % 2))).on
    if v.home = k / 2 then
      (v.jrnl.find? fun x => x.slot = slot && (alone || x.qnum % 2 = k % 2)).map fun x => (v, x)
    else none

/-- R305 admits a translation, and R300 does: a VD of WEIGHT 0 takes no tile another VD wants. -/
def State.admits (s : State) (v : Vd) (i : Image) (ox oy : Nat) : Bool :=
  translates i.teamw i.teamh ox oy && (teamTiles i.teamw i.teamh ox oy).all fun t => v.owns t && s.spare v t

/-- A command of the security controller holds the VD's decision lock: R309 refuses the operation (R311, R414). -/
def State.lockHeld (s : State) (v : Vd) : Bool := s.sct.locked.contains v.vd

/-- KPLACE: places a LAUNCH by R305. -/
def execKplace (k : Nat) (v : Word) (s : State) : Out' :=
  if 32 ≤ k then .fault (.noSuchUnit "KPLACE" k)
  else
    let n := v.toNat
    let ox := bitsOf 17 13 n
    let oy := bitsOf 22 18 n
    match s.entryOf k (bitsOf 12 0 n) with
    | none => .next s.refuseOp
    | some (d, x) =>
      match s.builtBy d.vd x with
      | none => .next s.refuseOp
      | some l =>
        if l.st = .waiting && l.allocated && !s.lockHeld d && s.admits d l.image ox oy then .next (s.placeLaunch d l ox oy) else .next s.refuseOp

/-- KPREEMPT: the estimator, then the choice or the forced one. -/
def execKpreempt (k : Nat) (v : Word) (s : State) : Out' :=
  if 32 ≤ k then .fault (.noSuchUnit "KPREEMPT" k)
  else
    let n := v.toNat
    let force := if bitOf 50 n then some (bitsOf 49 48 n) else none
    match s.team? (bitsOf 15 0 n) with
    | none => .next s.refuseOp
    | some l => match s.vd? l.vd with
      | none => .next s.refuseOp
      | some d => if s.lockHeld d then .next s.refuseOp else match s.preempt d l (bitsOf 47 16 n) force with
        | some s => .next s
        | none => .next (State.refuseOp (if l.st = .running && s.unitRuns l then
            { s with kblock := { s.kblock with kest := (s.estimate l).kest } } else s))

/-- KRESUME: resumes a held team (R328). -/
def execKresume (k : Nat) (v : Word) (s : State) : Out' :=
  if 32 ≤ k then .fault (.noSuchUnit "KRESUME" k)
  else
    let n := v.toNat
    match s.team? (bitsOf 15 0 n) with
    | none => .next s.refuseOp
    | some l => match s.vd? l.vd with
      | none => .next s.refuseOp
      | some d =>
        let ox := bitsOf 20 16 n
        let oy := bitsOf 25 21 n
        if s.lockHeld d ∨ l.st ≠ .saved ∨ bitsOf 15 0 n = 0 ∨ !s.admits d l.image ox oy then .next s.refuseOp
        else match s.openArea l d with
          | (s, .error r) => .next (s.completeLaunch l r (s.tick + 1))
          | (s, .ok l) => .next (s.resumeLaunch d l ox oy)

/-- The reasons of R295 for work that fails: a code not in its table is never written (log 122). -/
def reasonOk (r : Nat) : Bool := (1 ≤ r && r ≤ 0x13) || (0x80 ≤ r && r ≤ 0x84)

/-- KREJECT: a REJECT record and a failed completion; refused for a reason R295 does not name. -/
def execKreject (k : Nat) (v : Word) (s : State) : Out' :=
  if 32 ≤ k then .fault (.noSuchUnit "KREJECT" k)
  else
    let n := v.toNat
    let reason := bitsOf 20 13 n
    match s.entryOf k (bitsOf 12 0 n) with
    | none => .next s.refuseOp
    | some (d, x) =>
      if s.lockHeld d ∨ x.st ≠ .accepted ∨ !reasonOk reason then .next s.refuseOp
      else match s.builtBy d.vd x with
        | some l => .next (s.rejectLaunch l reason)
        | none => .next ((s.trace d.vd .reject (d.prioOf x) noTeam (subjOf x.qnum x.idx) reason).endPkt (x.id d.vd) reason)

/-- KREPORT: the report of R278, for the oldest packet of its queue whose work has ended. -/
def execKreport (k : Nat) (v : Word) (s : State) : Out' :=
  if 32 ≤ k then .fault (.noSuchUnit "KREPORT" k)
  else match s.entryOf k (bitsOf 12 0 v.toNat) with
    | none => .next s.refuseOp
    | some (d, x) =>
      if x.st = .performed && !s.lockHeld d && (d.oldest? x.qnum).any (·.idx = x.idx) then .next (s.report (x.id d.vd) d x) else .next s.refuseOp

/-- KFREE: names the quire whose free tiles it reads. -/
def execKfree (k : Nat) (v : Word) (s : State) : Out' :=
  if 32 ≤ k then .fault (.noSuchUnit "KFREE" k)
  else .next { s with kblock := { s.kblock with kfree := v.toNat % 64 } }

end Sys2Proof.Machine
end

