-- ==== Sys2Proof/Machine/Dump.lean ====
section
/-! DEFINITION. Containment (R369 to R371) and the dump (R333 to R338). -/
namespace Sys2Proof.Machine
open Sys2Proof

/-! ## Fault records (R335) -/

/-- The 64 bytes of a fault record. -/
def faultRecord (time code slot flags lt pt team vd world eaddr epc ebaddr prog cycle : Nat) : List Byte :=
  bytesOf 8 time ++ bytesOf 1 code ++ bytesOf 1 slot ++ bytesOf 1 flags ++ bytesOf 1 0 ++ bytesOf 2 lt ++ bytesOf 2 pt ++
  bytesOf 4 team ++ bytesOf 2 vd ++ bytesOf 1 world ++ bytesOf 1 0 ++ bytesOf 8 eaddr ++ bytesOf 4 epc ++ bytesOf 4 ebaddr ++
  bytesOf 8 prog ++ bytesOf 8 cycle ++ bytesOf 8 0

/-- The record of a tile fault. Its EPC is the word address of the faulting instruction itself, which for a deferred fault
is that of the access and not of the gate (R98, R335; log 108). -/
def Launch.recordFor (l : Launch) (world tick : Nat) (f : PendFault) (lt cycle : Nat) : List Byte :=
  faultRecord tick f.code f.slot ((if f.bsq then 1 else 0) + if f.cmd then 2 else 0) lt (l.tiles.getD lt 0) l.team l.vd world
    f.eaddr.toNat (f.pc.getD f.epc) f.ebaddr f.prog cycle

/-- The record of a fault the dump writer meets. -/
def Launch.secondRecord (l : Launch) (world tick code lt pt eaddr : Nat) : List Byte :=
  faultRecord tick code 0xFF 4 lt pt l.team l.vd world eaddr 0 0 0 0

/-! ## Sections (R336) -/

/-- A run of section bytes from one place, with what reading it meets: the fault's code, its tile and address. -/
structure DumpRun where
  bytes : List Byte
  fault : Option (Nat × Nat × Nat × Nat) := none   -- code, logical and physical tile, EADDR
  deriving DecidableEq, Repr

/-- The bytes of a kind a tile contributes, in lines where a line may be poisoned. -/
def State.pieceRuns (s : State) (kind : Nat) (lt t : Nat) : State × List DumpRun :=
  let x := s.tile t
  match kind with
  | 1 => (s, [{ bytes := bytesG x ++ bytesS x ++ bytesV x ++ bytesK x ++ bytesFf x ++ bytesSr x ++ bytesSeq x ++ bytesCtl t x }])
  | 2 =>
    let lines := (List.range (x.live / 64)).map fun n =>
      ({ bytes := x.bytes (64 * n) 64
         fault := if x.poisoned (64 * n) then some (poisonF, lt, t, 2 ^ 62 + lt * 2 ^ 21 + 64 * n) else none } : DumpRun)
    (s, lines ++ [{ bytes := bytesPoison x }])
  | 3 => (s, [{ bytes := bytesSems x }])
  | 4 =>
    let (s, w) := s.freeBytes 1024
    (s, [{ bytes := bytesCq x ++ w }])
  | 5 => (s, [{ bytes := bytesCopyq x }])
  | _ => (s, [{ bytes := bytesAcc x ++ bytesOf 8 x.seq.csr.mprog.toNat ++ bytesTcfg x ++ bytesMq x }])

/-- The last 64 trace records of a VD, oldest first, zeros behind them where fewer exist. -/
def State.traceRuns (s : State) (v : Vd) : State × List DumpRun :=
  let n := min 64 v.trnext
  let (s, rs) := (List.range n).foldl (fun (r : State × List DumpRun) i =>
    let a := v.recordAt (v.trnext - n + i)
    match r.1.vdRead v a 32 with
    | (s, .ok bs) => (s, r.2 ++ [{ bytes := bs }])
    | (s, .error c) => (s, r.2 ++ [{ bytes := bytesOf 32 0, fault := some (c, 0, 0, a / 64 * 64) }])) (s, [])
  (s, rs ++ [{ bytes := bytesOf (32 * (64 - n)) 0 }])

/-- All runs of a section, the tiles in logical order. -/
def State.sectionRuns (s : State) (v : Vd) (l : Launch) (kind : Nat) : State × List DumpRun :=
  if kind = 7 then s.traceRuns v
  else l.tiles.zipIdx.foldl (fun (r : State × List DumpRun) (t, lt) =>
    let (s, p) := r.1.pieceRuns kind lt t
    (s, r.2 ++ p)) (s, [])

/-- The runs up to the first fault, and the fault. -/
def upToFault : List DumpRun → List Byte → List Byte × Option (Nat × Nat × Nat × Nat)
  | [], acc => (acc, none)
  | r :: rs, acc => match r.fault with
    | some f => (acc, some f)
    | none => upToFault rs (acc ++ r.bytes)

/-- Bytes of a section. -/
def State.sectionSize (s : State) (l : Launch) (kind : Nat) : Nat :=
  match kind with
  | 1 => 43080 * l.tiles.length
  | 2 => ((s.lives l).map fun n => n + (n + 511) / 512).sum
  | 3 => 512 * l.tiles.length
  | 4 => 1536 * l.tiles.length
  | 5 => 16384 * l.tiles.length
  | 6 => 66120 * l.tiles.length
  | _ => 2048

/-- OFFSET of the section of a kind. -/
def State.sectionOff (s : State) (l : Launch) (kind : Nat) : Nat :=
  ((List.range (kind - 1)).map (· + 1)).foldl (fun o k => up4k (o + s.sectionSize l k)) 0x1000

/-- LENGTH of the dump. -/
def State.dumpLen (s : State) (l : Launch) : Nat := up4k (s.sectionOff l 7 + s.sectionSize l 7)

/-- Write a run of bytes line by line, up to the first line that cannot be written: the bytes written, and its fault. -/
def State.writeUpTo (s : State) (v : Vd) (dva : Nat) (bs : List Byte) : State × Nat × Option (Nat × Nat) :=
  (runParts dva bs.length).foldl (fun (r : State × Nat × Option (Nat × Nat)) p =>
    match r with
    | (s, n, none) => match s.vdWritePart v p.addr ((bs.drop n).take p.len) with
      | (s, .ok ()) => (s, n + p.len, none)
      | (s, .error c) => (s, n, some (c, p.addr))
    | r => r) (s, 0, none)

/-! ## The dump (R333, R334, R337) -/

/-- The first 256 bytes with COMMIT and the INCOMPLETE bit as given. -/
def State.dumpHeader (s : State) (v : Vd) (l : Launch) (flags time : Nat) : List Byte :=
  bytesOf 4 0x44484749 ++ bytesOf 2 1 ++ bytesOf 2 flags ++ bytesOf 2 v.vd ++ bytesOf 1 v.world ++ bytesOf 1 0 ++ bytesOf 4 l.team ++
  bytesOf 2 l.tiles.length ++ bytesOf 1 l.image.teamw ++ bytesOf 1 l.image.teamh ++ bytesOf 2 7 ++ bytesOf 2 0 ++
  bytesOf 8 time ++ bytesOf 8 (s.dumpLen l) ++ bytesOf 32 l.image.digest.toNat ++ bytesOf 56 0 ++
  (match l.firstFault with
    | some (tick, f, lt, cyc) => l.recordFor v.world tick f lt cyc
    | none => bytesOf 64 0) ++ bytesOf 8 l.lcb ++ bytesOf 56 0

/-- A section table entry. -/
def State.dumpEntry (s : State) (l : Launch) (kind : Nat) : List Byte :=
  let size := s.sectionSize l kind
  let err := l.dumpErr.find? fun e => e.1 = kind
  bytesOf 1 kind ++ bytesOf 1 (if err.isSome then 2 else 1) ++ bytesOf 6 0 ++ bytesOf 8 (s.sectionOff l kind) ++ bytesOf 8 size ++
  bytesOf 8 ((err.map (·.2.1)).getD size) ++ ((err.map (·.2.2)).getD (bytesOf 64 0))

/-- Step `k` of a dump follows `n` ticks on. -/
def State.dumpStepAt (s : State) (l : Launch) (k n : Nat) : State :=
  (s.modLaunch l.id fun l => { l with dumpStep := k, dumpAt := s.tick + n }).postTick (s.tick + n) (.keeperContainment l.team)

/-- The end of a dump, whole or abandoned: the team's tiles begin to drain (R339), and the dump of another halted team of the
VD may begin. -/
def State.endDump (s : State) (l : Launch) : State :=
  let s := (s.modLaunch l.id fun l => { l with st := .draining }).leaveTiles l
  (s.launches.filter fun u => u.vd = l.vd && u.st = .halting && u.settled && u.stopAction = 1).foldl
    (fun (s : State) u => s.postIn 0 (.keeperContainment u.team)) s

/-- A fault of the header or the table abandons the dump. -/
def State.failDump (s : State) (v : Vd) (l : Launch) (code : Nat) : State :=
  ((s.modLaunch l.id fun l => { l with dumpFail := code }).postEvent (.vd v.vd) evDumpFail code v.vd l.team v.dump code).endDump l

/-- Go on with step `k` in the next tick. -/
def State.nextDump (s : State) (l : Launch) (k : Nat) : State := (s.modLaunch l.id fun l => { l with dumpPos := 0 }).dumpStepAt l k 1

/-- Header and table (step 0). -/
def State.dumpOpen (s : State) (v : Vd) (l : Launch) : State :=
  let table := ((List.range 7).map (· + 1)).flatMap (s.dumpEntry l)
  match s.vdWrite v.own v.dump (s.dumpHeader v l 0 0 ++ table) with
  | (s, .error c) => s.failDump v l c
  | (s, .ok ()) => s.nextDump l 1

/-- A tick of a section: up to 4096 bytes more of it, and the fault that ends it with them, if one: of the next line's read,
or of its write. -/
def State.dumpBytes (s : State) (v : Vd) (l : Launch) (kind : Nat) : State × Nat × Option (Nat × Nat × Nat × Nat) × Bool :=
  let (s, rs) := s.sectionRuns v l kind
  let (bs, f) := upToFault rs []
  let base := v.dump + s.sectionOff l kind
  let (s, n, w) := s.writeUpTo v.own (base + l.dumpPos) ((bs.drop l.dumpPos).take 4096)
  let pos := l.dumpPos + n
  match w with
  | some (c, a) => (s, pos, some (c, 0, 0, a), true)
  | none =>
    if bs.length ≤ pos then (s, pos, f, true)
    else match (s.vdWritePart v.own (base + pos) ((bs.drop pos).take 64)).2 with
      | .error c => (s, pos, some (c, 0, 0, base + pos), true)
      | .ok () => (s, pos, none, false)

/-- One tick of a section (R332), then its entry where it ends INCOMPLETE. -/
def State.dumpSection (s : State) (v : Vd) (l : Launch) (kind : Nat) : State :=
  let (s, n, bad, last) := s.dumpBytes v l kind
  match bad with
  | none => if last then s.nextDump l (kind + 1) else (s.modLaunch l.id fun l => { l with dumpPos := n }).dumpStepAt l kind 1
  | some (code, lt, pt, ea) =>
    let l := { l with dumpErr := l.dumpErr ++ [(kind, n, l.secondRecord v.world s.tick code lt pt ea)] }
    let s := s.modLaunch l.id fun _ => l
    match s.vdWrite v.own (v.dump + 0x100 + 96 * (kind - 1)) (s.dumpEntry l kind) with
    | (s, .error c) => s.failDump v l c
    | (s, .ok ()) => match s.vdWrite v.own (v.dump + 6) (bytesOf 1 2) with
      | (s, .error c) => s.failDump v l c
      | (s, .ok ()) => s.nextDump l (kind + 1)

/-- COMMIT: TIME, then the byte at 0x06; then DUMPDONE. -/
def State.dumpCommit (s : State) (v : Vd) (l : Launch) : State :=
  let bad := (l.dumpErr.map fun e => 2 ^ (e.1 - 1)).sum
  match s.vdWrite v.own (v.dump + 0x18) (bytesOf 8 s.tick) with
  | (s, .error c) => s.failDump v l c
  | (s, .ok ()) => match s.vdWrite v.own (v.dump + 6) (bytesOf 1 (if bad = 0 then 1 else 3)) with
    | (s, .error c) => s.failDump v l c
    | (s, .ok ()) =>
      (s.postEvent (.vd v.vd) evDumpDone 0 v.vd l.team v.dump (bad + s.dumpLen l / 4096 * 2 ^ 32)).endDump l

/-- The next step of a dump. -/
def State.dumpNext (s : State) (v : Vd) (l : Launch) : State :=
  match l.dumpStep with
  | 0 => s.dumpOpen v l
  | 8 => s.dumpCommit v l
  | k => s.dumpSection v l k

/-! ## Containment (R369 to R371) -/

/-- A fault of the team that the keeper is to take now. -/
def State.dueFault (s : State) (team : Nat) : Option KFault :=
  s.kfaults.find? fun k => (s.tile k.tile).team = team && k.due ≤ s.now

/-- The stop that CONTAIN directs: 2 relaunch, 1 dump, 0 fail. -/
def containAction (v : Vd) (l : Launch) : Nat :=
  match v.contain with
  | 0 => if l.restart && !l.relaunched then 2 else 0
  | 2 => 1
  | _ => 0

/-- The keeper takes a fault: its record and its FAULT event; the first one halts the team and fixes reason and policy. A
team that is being cancelled stays so; a save that has not reached its COMMIT gives way (R331). A check that fails in the
drain of a halted team is only posted (R370). -/
def State.takeByKeeper (s : State) (v : Vd) (l : Launch) (k : KFault) : State :=
  let lt := l.tiles.idxOf k.tile
  let s := s.postEvent (.vd v.vd) evFault k.fault.code v.vd l.team k.fault.eaddr.toNat (k.fault.slot + lt * 2 ^ 16)
  let halts := l.st = .running || l.st = .clamping || l.st = .saving
  if l.firstFault.isSome || !(halts || (l.st = .halting && l.stopAction = 2 && !k.drain)) then s
  else
    let act := containAction v l
    let s := (s.freeArea l).modLaunch l.id fun l => { l with
      st := .halting, stopAction := act, reason := k.fault.code
      firstFault := some (k.tick, k.fault, lt, k.cycle.toNat)
      settled := if halts then false else l.settled }
    if halts then s.haltTeam (.keeper (2 * v.home)) l.team else s

/-- KEEPER_CONTAINMENT: the keeper takes a fault 23 cycles after it arose; once every tile of the team has stopped and
drained it acts by CONTAIN: the tiles drain, or the dump is written step by step, after that of another team of the VD
(R333). -/
def execKeeperContainment (team : Nat) (s : State) : Out' :=
  match s.dueFault team with
  | some k =>
    let s := { s with kfaults := s.kfaults.erase k }
    if Config.tiles ≤ k.tile then .next (s.postEvent .pf evFault k.fault.code 0 noTeam k.fault.eaddr.toNat 0)
    else match s.launch? (s.tile k.tile).launch with
    | none => .next s
    | some l => match s.vd? l.vd with
      | some v => .next (s.takeByKeeper v l k)
      | none => .next s
  | none =>
    match s.team? team with
    | none => .refused (.notEnabled "KEEPER_CONTAINMENT")
    | some l => match s.vd? l.vd with
      | none => .refused (.notEnabled "KEEPER_CONTAINMENT")
      | some v =>
        if l.st = .dumping then
          if l.dumpAt ≤ s.tick then .next (s.dumpNext v l) else .refused (.notEnabled "KEEPER_CONTAINMENT")
        else if l.st = .halting && l.settled then
          match l.stopAction with
          | 0 => .next ((s.modLaunch l.id fun l => { l with st := .draining }).leaveTiles l)
          | 1 => if s.launches.any fun u => u.vd = l.vd && u.st = .dumping then .refused (.notEnabled "KEEPER_CONTAINMENT")
            else .next ((s.modLaunch l.id fun l => { l with st := .dumping, dumpErr := [], dumpFail := 0 }).dumpStepAt l 0 1)
          | _ => .refused (.notEnabled "KEEPER_CONTAINMENT")
        else .refused (.notEnabled "KEEPER_CONTAINMENT")

end Sys2Proof.Machine
end

