-- ==== Sys2Proof/Machine/Keeper.lean ====
section
/-! DEFINITION. Virtual devices (R299 to R303, R308, R409, R418), the keeper's clocks (R302, R303), its microcode (R310)
and the events it delivers to a tile (R134). -/
namespace Sys2Proof.Machine
open Sys2Proof

/-! ## The configuration block (R299, R300) -/

/-- The die that keeps a VD: that of its lowest quire on a running die, else the lowest running one (R308). -/
def State.homeDie (s : State) (quires : Nat) : Nat :=
  let up (d : Nat) : Bool := !(s.die d).resetting && !(s.die d).held
  match (quiresOf quires).find? fun q => up (q / 4) with
  | some q => q / 4
  | none => ((List.range Config.dies).find? up).getD 0

/-- The VD a VDCB describes; none where a field breaks the limits of R299. -/
def vdOf (vd home : Nat) (b : List Byte) : Option Vd :=
  let w (o : Nat) : Nat := field b o 8
  let ok : Bool := w 0x00 ≠ 0 && bitsOf 63 56 (w 0x08) = 0 && bitsOf 10 9 (w 0x10) ≠ 3 && bitsOf 31 30 (w 0x10) = 0 &&
    (bitsOf 63 32 (w 0x10) ≠ 0 || bitOf 8 (w 0x10)) && w 0x28 < 64 && w 0x38 < 2 ^ 16 && w 0x58 < 2 ^ 8 &&
    6 ≤ w 0x68 && w 0x68 ≤ 20 && bitsOf 63 46 (w 0xA0) = 0 && w 0xA8 < 2 ^ 32 && w 0xB0 = 0 && w 0xB8 = 0
  if !ok then none
  else some
    { vd := vd
      quires := w 0x00
      mports := bitsOf 47 0 (w 0x08)
      world := bitsOf 55 48 (w 0x08)
      weight := bitsOf 7 0 (w 0x10)
      excl := bitOf 8 (w 0x10)
      contain := bitsOf 10 9 (w 0x10)
      hmask := w 0x10 % 2 ^ 30 / 2 ^ 11 * 2 ^ 11
      quantum := bitsOf 63 32 (w 0x10)
      tokrate := bitsOf 31 0 (w 0x18)
      tokdepth := bitsOf 63 32 (w 0x18)
      qtab := w 0x20
      nq := w 0x28 + 1
      ctx :=
        { ptroot := BitVec.ofNat 64 (w 0x30), asid := BitVec.ofNat 16 (w 0x38), hwbase := BitVec.ofNat 64 (w 0x40)
          hwlimit := BitVec.ofNat 64 (w 0x48), hwoffset := BitVec.ofNat 64 (w 0x50), hwkey := BitVec.ofNat 8 (w 0x58)
          world := BitVec.ofNat 8 (bitsOf 55 48 (w 0x08)) }
      trbase := w 0x60
      trlog2 := w 0x68
      jrnl0 := w 0x70
      jrnl1 := w 0x78
      pool := w 0x80
      status := w 0x88
      dump := w 0x90
      evq := w 0x98
      deadline := bitsOf 31 0 (w 0xA0)
      hvec := bitsOf 45 32 (w 0xA0)
      wdlimit := w 0xA8
      qeff := bitsOf 63 32 (w 0x10)
      home := home }

/-- What a refusal of a block that breaks its limits can still name: where its records and its status block lie. -/
def vdShell (vd home : Nat) (b : List Byte) : Vd :=
  let w (o : Nat) : Nat := field b o 8
  { vd := vd, home := home, quires := w 0x00, world := bitsOf 55 48 (w 0x08)
    ctx :=
      { ptroot := BitVec.ofNat 64 (w 0x30), asid := BitVec.ofNat 16 (w 0x38), hwbase := BitVec.ofNat 64 (w 0x40)
        hwlimit := BitVec.ofNat 64 (w 0x48), hwoffset := BitVec.ofNat 64 (w 0x50), hwkey := BitVec.ofNat 8 (w 0x58)
        world := BitVec.ofNat 8 (bitsOf 55 48 (w 0x08)) }
    trbase := w 0x60, trlog2 := max 6 (min 20 (w 0x68 % 32)), status := w 0x88 }

/-- The dies of the 16 frames of a journal; none where one of them is no memory of the package. -/
def State.journalDies (s : State) (v : Vd) (base : Nat) : Option (List Nat) :=
  (List.range 16).foldl (fun (r : Option (List Nat)) i =>
    match r with
    | none => none
    | some ds => match s.vdTarget v (base + i * 2 ^ 16) .write with
      | (_, .ok (.mem pa, _)) => (homeOf pa).map fun h => ds ++ [h.die]
      | _ => none) (some [])

/-- JRNL0 and JRNL1 are homed on different dies (R297). -/
def State.journalsApart (s : State) (v : Vd) : Bool :=
  match s.journalDies v v.jrnl0, s.journalDies v v.jrnl1 with
  | some a, some b => a.all fun d => !b.contains d
  | _, _ => false

/-- The grants and the world a block asks for are admitted (R300, R409, R418). -/
def State.vdAdmitted (s : State) (v : Vd) : Bool :=
  let others := (s.vds.filterMap Prod.snd).filter fun u => u.vd ≠ v.vd && (quiresOf v.quires).any fun q => bitOf q u.quires
  (match s.world? v.world with
    | some w => w.active
    | none => false) &&
  ((s.vd? v.vd).all fun u => u.world = v.world) &&
  (others.all fun u => !u.excl && !v.excl) &&
  ((quiresOf v.quires).all fun q => (List.range 48).all fun p => !bitOf p v.mports || bitOf p (s.sct.pcm.get 0 q)) &&
  s.journalsApart v

/-! ## VDCREATE -/

/-- A block is refused: a REJECT record and the refusal in the status block, of the VD as it stands or as the block
describes it (R300). -/
def State.refuseVd (s : State) (shell : Vd) : State :=
  match s.vd? shell.vd with
  | some v =>
    (s.modVd v.vd fun v => { v with lastRefusal := vdcfg }).trace v.vd .reject 0 noTeam 0 vdcfg
  | none => (s.traceBy { shell with st := 2, lastRefusal := vdcfg } .reject 0 noTeam 0 vdcfg).1

/-- Open the queue of a QCB, or refuse it (R274, R282). A QNUM another open queue of the VD has is refused. -/
def State.openQueue (s : State) (vd qcb : Nat) : State :=
  match s.vd? vd with
  | none => s
  | some v =>
    let refuse (s : State) : State := s.trace vd .reject 0 noTeam 0 vdcfg
    match s.readQcb v qcb with
    | (s, .ok u) =>
      if v.queues.any fun q => q.qnum = u.qnum && q.openQ then refuse s
      else s.modVd vd fun v => { v with queues := v.queues.filter (fun q => q.qnum ≠ u.qnum) ++ [u] }
    | (s, .error none) => refuse s
    | (s, .error (some c)) => (refuse s).postWordFault vd c qcb

/-- The queues of the table: those that stand open stay, the others of it open, and the rest close (R282). -/
def State.openTable (s : State) (vd : Nat) : State :=
  match s.vd? vd with
  | none => s
  | some v => match s.vdRead v v.qtab (8 * v.nq) with
    | (s, .error c) => s.postWordFault vd c v.qtab
    | (s, .ok bs) =>
      let qcbs := (pieces_ 8 v.nq bs).map natOf
      let s := s.modVd vd fun v => { v with queues := v.queues.map fun q => { q with openQ := q.openQ && qcbs.contains q.qcb } }
      (qcbs.filter fun a => !v.queues.any fun q => q.qcb = a && q.openQ).foldl (fun (s : State) a => s.openQueue vd a) s

/-- VT of a VD that is created or given a weight (R303). -/
def State.firstVt (s : State) (v : Vd) : Nat :=
  let near := (s.vds.filterMap Prod.snd).filter fun u =>
    u.vd ≠ v.vd && u.st = 1 && u.weight ≠ 0 && (quiresOf v.quires).any fun q => bitOf q u.quires
  match near.map (·.vt) with
  | [] => 0
  | a :: l => l.foldl min a

/-- VT after a block is taken. -/
def State.newVt (s : State) (v : Vd) : Nat :=
  if v.weight = 0 then 2 ^ 64 - 1
  else match s.vd? v.vd with
    | some u => if u.weight = 0 then s.firstVt v else u.vt
    | none => s.firstVt v

/-- A block that is admitted becomes the VD's: what the keeper has kept of it stays (R299, R303); the frame of a new VD's notify
page is tagged 255 (R432). -/
def State.takeVd (s : State) (v : Vd) : State :=
  let vt := s.newVt v
  let old := s.vd? v.vd
  let v : Vd := match old with
    | some u =>
      { v with
        vt := vt, st := u.st, trnext := u.trnext, cnt := u.cnt, cntadj := u.cntadj, tokens := u.tokens, queues := u.queues
        jrnl := u.jrnl, jnext := u.jnext, poolUse := u.poolUse, blocks := u.blocks, lastRefusal := u.lastRefusal }
    | none => { v with vt := vt }
  let s : State := { s with vds := s.vds.set none v.vd (some v) }
  let s := match old with
    | some _ => s.postIn 0 (.tdispErrorEvent v.vd)
    | none => (s.setTag (s.notifyFrame v.vd) 255).modVf v.vd fun f => { f with tdisp := .unlocked }
  ((s.openTable v.vd).putStatus v.vd).retryAll

/-- VDCREATE (R299, R300): the block is read under key ID 0 and taken whole, or refused. A block that cannot be read
changes nothing; one for VD 0, which is no virtual device, is refused (R299, R438). -/
def execVdcreate (vd pa : Nat) (s : State) : Out' :=
  if 64 ≤ vd then .fault (.noSuchUnit "VDCREATE" vd)
  else match s.paRead 0 pa 192 with
    | (s, .error _) => .next s
    | (s, .ok b) =>
      let home := s.homeDie (field b 0 8)
      match (if vd = 0 then none else vdOf vd home b) with
      | none => .next (s.refuseVd (vdShell vd home b))
      | some v => if s.vdAdmitted v then .next (s.takeVd v) else .next (s.refuseVd v)

/-! ## Clocks -/

/-- Tiles the teams of a VD hold. -/
def State.tilesHeld (s : State) (vd : Nat) : Nat := (s.tiles.filter fun e => e.2.vd = vd && e.2.use != .free).length

/-- VT_ADVANCE (R303): one tick of every VD's virtual time; what waits for tiles may now have others pre-empted. -/
def execVtAdvance (s : State) : Out' :=
  let vds := s.vds.filterMap Prod.snd
  .next (vds.foldl (fun (s : State) v =>
    let s := if v.weight = 0 then s
      else s.modVd v.vd fun u => { u with vt := min (u.vt + 256 * s.tilesHeld v.vd / v.weight) (2 ^ 64 - 2) }
    if (s.wanting v.vd).isEmpty then s
    else if v.weight = 0 then s.postIn 0 (.poolAllocRetry v.vd) else s.postIn 0 (.preemptRequest v.vd)) s)

/-- Controllers of the package (R376). -/
abbrev controllers : Nat := 29

/-- TOKEN_REFILL (R302): one tick of every bucket. -/
def execTokenRefill (s : State) : Out' :=
  .next ((s.vds.filterMap Prod.snd).foldl (fun (s : State) v => s.modVd v.vd fun u => { u with
    tokens := (List.range controllers).foldl (fun m h => m.set 0 h (min u.tokdepth (m.get 0 h + u.tokrate))) u.tokens }) s)

/-! ## Microcode and events -/

/-- A keeper microcode image: the form of R94 and R95 with no bundle section, signed by the fused signer (R310). -/
def checkMicrocode (img : List Byte) : Except Nat Image :=
  match checkImage img [Config.microcodeSigner] with
  | .error c => .error c
  | .ok i => if i.bnd.isEmpty then .ok i else .error illegalEnc

/-- Microcode starts at its entry on a keeper sequencer of a running die. -/
def State.loadKeepers (s : State) (i : Image) : State :=
  ((List.range 32).filter fun k => !(s.die (k / 2)).held).foldl (fun (s : State) k =>
    s.setSeq (.keeper k) { keeperIdle with on := true, pc := i.entry, issueAt := s.now, prog := fillFrom 0#32 i.ctl }) s

/-- MICROCODE_RELOAD (R310): the keeper's decisions are whole between steps; an image that fails is not loaded, and the
refusal is posted to the physical function. -/
def execMicrocodeReload (image : List Byte) (s : State) : Out' :=
  match checkMicrocode image with
  | .error c => .next (s.postEvent .pf evFault c 0 noTeam 0 0)
  | .ok i => .next { s.loadKeepers i with sct := { s.sct with microcode := sha256 image } }

/-- EVENT_DELIVERED_BY_KEEPER (R134): sets the event latch. -/
def execEventDeliveredByKeeper (t : Nat) (s : State) : Out' :=
  if Config.tiles ≤ t then .fault (.noSuchUnit "EVENT_DELIVERED_BY_KEEPER" t)
  else .next (s.modTile t fun x => { x with latch := true })

end Sys2Proof.Machine
end

