-- ==== Sys2Proof/Machine/Bulk.lean ====
section
/-! DEFINITION. Bulk copy engines: COPY packets (R306, R307) and bounce-buffer channels (R435 to R437). -/
namespace Sys2Proof.Machine
open Sys2Proof

def State.bulk (s : State) (e : Nat) : Bulk := s.bulks.get {} e
def State.setBulk (s : State) (e : Nat) (b : Bulk) : State := { s with bulks := s.bulks.set {} e b }
def Bulk.idle (b : Bulk) : Bool := b.pkt.isNone && b.chan.isNone

/-- Ticks a chunk of `n` bytes takes (R280). -/
def bulkTicks (n : Nat) : Nat := (6 * n + 4095) / 4096

/-! ## Copying a chunk -/

/-- How far a chunk has come. -/
inductive BulkRes where
  | done
  | asked
  | fault (code : Nat)
  deriving DecidableEq, Repr

/-- Write bytes of one line at a place, with the poison they carry. -/
def State.bulkWrite (s : State) (v : Vd) (dva : Nat) (bad : Bool) (bs : List Byte) : State × Except Nat Unit :=
  match s.vdTarget v dva .write with
  | (s, .error c) => (s, .error c)
  | (s, .ok (t, a)) =>
    match (s.spend v.vd (some t)).writeTargetNow v.world bad t a.keyId bs with
    | (s, .ok ()) => (s, .ok ())
    | (s, .fault c) => (s, .error c)
    | (s, .held _) => (s, .error notPresent)

/-- Read bytes of one line, poisoned or not. -/
def State.bulkRead (s : State) (v : Vd) (dva n : Nat) : State × Except Nat (List Byte × Bool) :=
  match s.vdTarget v dva .read with
  | (s, .error c) => (s, .error c)
  | (s, .ok (t, a)) =>
    match (s.spend v.vd (some t)).readTarget v.world t a.keyId n with
    | (s, .ok r) => (s, .ok r)
    | (s, .fault c) => (s, .error c)
    | (s, .held _) => (s, .error notPresent)

/-- Read a run of lines: the bytes, and the lines that are poisoned, by their place in the run. -/
def State.bulkGather (s : State) (v : Vd) (dva n : Nat) : State × Except Nat (List Byte × Nat) :=
  (runParts dva n).foldl (fun (r : State × Except Nat (List Byte × Nat)) p =>
    match r with
    | (s, .ok (acc, m)) => match s.bulkRead v p.addr p.len with
      | (s, .ok (bs, bad)) => (s, .ok (acc ++ bs, if bad then m ||| 2 ^ (p.addr / 64 - dva / 64) else m))
      | (s, .error c) => (s, .error c)
    | r => r) (s, .ok ([], 0))

/-- Write a run of bytes read from `src`, whose poisoned lines the map names. -/
def State.bulkScatter (s : State) (v : Vd) (src dva map : Nat) (bs : List Byte) : State × Except Nat Unit :=
  let pieces := (runParts dva bs.length).flatMap fun p => (runParts (src + (p.addr - dva)) p.len).map fun q => (q.addr - src, q.len)
  pieces.foldl (fun (r : State × Except Nat Unit) (o, n) =>
    match r with
    | (s, .ok ()) => s.bulkWrite v (dva + o) (bitOf ((src + o) / 64 - src / 64) map) ((bs.drop o).take n)
    | r => r) (s, .ok ())

/-- The peer a DVA of a VD names. -/
def State.peerAt (s : State) (v : Vd) (dva : Nat) (need : Need) : State × Except Nat (Option (Nat × Nat × Nat)) :=
  match s.vdTarget v dva need with
  | (s, .ok (.peer pkg pa, a)) => (s, .ok (some (pkg, pa, a.keyId)))
  | (s, .ok _) => (s, .ok none)
  | (s, .error c) => (s, .error c)

/-- Send an engine's message to a peer (R387, R391). -/
def State.bulkSend (s : State) (e pkg : Nat) (m : Message) : State :=
  s.submit pkg ((1024 + e) % 16) { m with origin := 1024 + e } (some (.bulk e))

/-- Copy the rest of an engine's chunk for `v`, run by run in order, up to a fault or a peer whose answer it waits for. -/
def State.bulkRun : Nat → State → Vd → Nat → State × BulkRes
  | 0, s, _, _ => (s, .done)
  | fuel + 1, s, v, e =>
    let b := s.bulk e
    if b.len ≤ b.pos then (s, .done)
    else
      let src := b.src + b.pos
      let dst := b.dst + b.pos
      match s.peerAt v src .read with
      | (s, .error c) => (s, .fault c)
      | (s, .ok sp) => match s.peerAt v dst .write with
        | (s, .error c) => (s, .fault c)
        | (s, .ok dp) =>
          let rest := b.len - b.pos
          let ofSrc := min rest (2 ^ 16 - src % 2 ^ 16)
          let ofDst := min rest (2 ^ 16 - dst % 2 ^ 16)
          -- a run lies in one page of either side
          let page := min ofSrc ofDst
          let n := match sp, dp with
            | none, none => min page (min (64 - src % 64) (64 - dst % 64))
            | none, some (pkg, _, _) | some (pkg, _, _), none => min page (s.msgCap pkg)
            | some (p1, _, _), some (p2, _, _) => min page (min (s.msgCap p1) (s.msgCap p2))
          let data : State × Except Nat (Option (List Byte × Nat)) := match sp, b.got with
            | some _, some g => (s, .ok (some g))
            | some _, none => (s, .ok none)
            | none, _ => match s.bulkGather v src n with
              | (s, .ok g) => (s, .ok (some g))
              | (s, .error c) => (s, .error c)
          match data, sp, dp with
          | (s, .error c), _, _ => (s, .fault c)
          | (s, .ok none), some (pkg, pa, key), _ =>
            let s := s.setBulk e { b with asked := true, askedAt := s.now, run := n, got := none }
            (s.bulkSend e pkg { op := .readReq, keyId := key, world := v.world, len := n, pa := pa }, .asked)
          | (s, .ok none), none, _ => (s, .done)
          | (s, .ok (some (bs, map))), _, some (pkg, pa, key) =>
            let lines := ((List.range bs.length).filter fun i => bitOf ((src + i) / 64 - src / 64) map).foldl
              (fun m i => m ||| 2 ^ ((dst + i) / 64 - dst / 64)) 0
            let s := s.setBulk e { b with asked := true, askedAt := s.now, run := bs.length, got := some ([], 0) }
            (s.bulkSend e pkg
              { op := .write, keyId := key, world := v.world, len := bs.length, pa := pa, status := 256 * lines, data := bs }, .asked)
          | (s, .ok (some (bs, map))), _, none =>
            match s.bulkScatter v src dst map bs with
            | (s, .error c) => (s, .fault c)
            | (s, .ok ()) => State.bulkRun fuel (s.setBulk e { b with pos := b.pos + bs.length, got := none }) v e

/-! ## COPY packets -/

/-- An engine copies for the packet. -/
def State.onEngine (s : State) (p : PktId) : Bool := s.bulks.any fun b => b.2.pkt = some p

/-- The COPY packets of a VD that wait for an engine: heads that have not started, and suspended ones. -/
def State.copiesOf (s : State) (v : Vd) : List Pkt :=
  v.jrnl.filter fun x => x.typ = tyCopy && !s.onEngine (x.id v.vd) &&
    (x.st = PktSt.started || (x.st = PktSt.accepted && x.queued && x.startTick ≤ s.tick && v.head? x.qnum = some x))

/-- The VD holds a token at the controller of the packet's next byte. -/
def State.hasToken (s : State) (v : Vd) (x : Pkt) : Bool :=
  match s.vdTarget v (x.word 2 + x.bytes) .read with
  | (_, .ok (.mem pa, _)) => match homeOf pa with
    | some h => v.tokens.get 0 h.index ≠ 0
    | none => true
  | _ => true

/-- The packet an engine of a die takes next, by the keys of R307 in their order. -/
def State.nextCopy (s : State) (die e : Nat) : Option (Vd × Pkt) :=
  let last := (s.bulk e).lastVd
  let all := ((s.vds.filterMap Prod.snd).filter fun v => v.home = die).flatMap fun v => (s.copiesOf v).map fun x => (v, x)
  let key (c : Vd × Pkt) : Nat :=
    ((((if s.hasToken c.1 c.2 then 0 else 1) * 8 + (7 - c.1.prioOf c.2)) * 64 + (c.1.vd + 63 - last) % 64) * 2 ^ 12 + c.2.qnum) * 2 ^ 64 +
      c.2.idx
  match all with
  | [] => none
  | c :: cs => some (cs.foldl (fun a b => if key b < key a then b else a) c)

/-- An engine takes a packet's next chunk; the first one starts it, with its PLACE record (R279, R284). -/
def State.takeChunk (s : State) (e : Nat) (v : Vd) (x : Pkt) : State :=
  let p := x.id v.vd
  let s := if x.st = .accepted then
      (s.startPkt p id).trace v.vd .place (v.prioOf x) noTeam (subjOf x.qnum x.idx) (2 ^ 63 + e)
    else s
  let n := min (2 ^ 16) (x.word 4 - x.bytes)
  let due := s.tick + bulkTicks n
  (s.setBulk e
    { pkt := some p, src := x.word 2 + x.bytes, dst := x.word 3 + x.bytes, len := n, dueAt := due, lastVd := v.vd }).postTick due
      (.bulkChunkBoundary (e / 8) (e % 8))

/-! ## Channels (R435 to R437) -/

/-- An entry of the channel table. -/
structure Chan where
  hprod : Nat
  hcommit : Nat
  dcons : Nat
  src : Nat
  dst : Nat
  log2n : Nat
  chunk : Nat
  st : Nat
  deriving DecidableEq, Repr

/-- Where entry `c` of a function's channel table lies. -/
def Vf.chanAt (f : Vf) (c : Nat) : Nat := f.chanbase.toNat + 64 * c

/-- Read an entry. -/
def State.readChan (s : State) (v : Vd) (c : Nat) : State × Option Chan :=
  match s.vdRead v ((s.vf v.vd).chanAt c) 64 with
  | (s, .error _) => (s, none)
  | (s, .ok b) =>
    let w := field b 0x28 8
    (s, some { hprod := field b 0 8, hcommit := field b 8 8, dcons := field b 0x10 8, src := field b 0x18 8, dst := field b 0x20 8
               log2n := bitsOf 4 0 w, chunk := bitsOf 23 8 w, st := bitsOf 31 24 w })

/-- Write STATE of an entry. -/
def State.setChanState (s : State) (v : Vd) (c st : Nat) : State := s.vdPut v ((s.vf v.vd).chanAt c + 0x2B) (bytesOf 1 st)

/-- Give an engine the next chunk of an open channel; whether there was one. -/
def State.chanChunk (s : State) (e : Nat) (v : Vd) (c : Nat) : State × Bool :=
  match s.readChan v c with
  | (s, none) => (s, false)
  | (s, some h) =>
    if h.st ≠ 1 ∨ h.log2n = 0 ∨ 16 < h.log2n ∨ h.chunk = 0 ∨ h.hprod ≤ h.dcons then (s, false)
    else
      let n := 64 * h.chunk
      let o := n * (h.dcons % 2 ^ h.log2n)
      let due := s.tick + bulkTicks n
      ((s.setBulk e
        { chan := some (v.vd, c), src := h.src + o, dst := h.dst + o, len := n, idx := h.dcons, dueAt := due
          lastVd := (s.bulk e).lastVd }).postTick due (.chunkCopy v.vd c), true)

/-- Serve the channels that wait for an engine of a die; the fuel bounds their number. -/
def State.waitingChan : Nat → State → Nat → Nat → State
  | 0, s, _, _ => s
  | fuel + 1, s, die, e =>
    match List.find? (fun (f : Nat × Vf) => !f.2.chans.isEmpty && (s.vd? f.1).any fun v => v.home = die) s.vfs with
    | none => s
    | some (n, f) => match f.chans, s.vd? n with
      | c :: rest, some v =>
        let s := s.modVf n fun f => { f with chans := rest }
        match s.chanChunk e v c with
        | (s, true) => s
        | (s, false) => State.waitingChan fuel s die e
      | _, _ => s

/-- An engine that is free takes its next work: a packet, else a channel. -/
def State.nextBulk (s : State) (e : Nat) : State :=
  match s.nextCopy (e / 8) e with
  | some (v, x) => s.takeChunk e v x
  | none => State.waitingChan 1024 s (e / 8) e

/-- An engine is free. -/
def State.freeBulk (s : State) (e : Nat) : State := (s.setBulk e { lastVd := (s.bulk e).lastVd }).nextBulk e

/-- A free engine of a die. -/
def State.idleEngine (s : State) (die : Nat) : Option Nat := ((List.range 8).map (· + 8 * die)).find? fun e => (s.bulk e).idle

/-- A channel is to be served: by a free engine of the home die, else it waits; one that is being served stays so. -/
def State.serveChan (s : State) (v : Vd) (c : Nat) : State :=
  if s.bulks.any (fun b => b.2.chan = some (v.vd, c)) || (s.vf v.vd).chans.contains c then s
  else match s.idleEngine v.home with
    | some e => (s.chanChunk e v c).1
    | none => s.modVf v.vd fun f => { f with chans := f.chans ++ [c] }

/-- CNOTIFY (R436, R437): an open channel is served; one in RESYNC is brought to where the host holds it, or to DESYNC. -/
def execCnotify (vf c : Nat) (s : State) : Out' :=
  if vf = 0 ∨ 64 ≤ vf then .fault (.noSuchUnit "CNOTIFY" vf)
  else if 16 ≤ c then .fault (.noSuchUnit "CNOTIFY" c)
  else match s.vd? vf with
    | none => .next s
    | some v =>
      if (s.vf vf).chancnt ≤ c then .next s
      else match s.readChan v c with
        | (s, none) => .next s
        | (s, some h) =>
          if h.st = 1 then .next (s.serveChan v c)
          else if h.st = 2 then
            if h.hcommit < h.dcons then .next (s.setChanState v c 3)
            else .next (((s.vdPut v ((s.vf vf).chanAt c + 0x10) (bytesOf 8 h.hcommit)).setChanState v c 1).serveChan v c)
          else .next s

/-- A chunk copy of a channel aborts (R437). -/
def State.abortChan (s : State) (e : Nat) (v : Vd) (c : Nat) : State := (s.setChanState v c 2).freeBulk e

/-- Every channel of a function in use enters RESYNC (R433, R437): those that wait for an engine, and those being served. -/
def State.abortChans (s : State) (v : Vd) : State :=
  let s := (s.vf v.vd).chans.foldl (fun (s : State) c => s.setChanState v c 2) (s.modVf v.vd fun f => { f with chans := [] })
  ((List.range 128).filterMap fun e => match (s.bulk e).chan with
    | some (n, c) => if n = v.vd then some (e, c) else none
    | none => none).foldl (fun (s : State) (e, c) => s.abortChan e v c) s

/-! ## Steps of the engines -/

/-- A chunk of a packet or of a channel goes on, and what follows its end. -/
def State.runChunk (s : State) (e : Nat) : State :=
  let b := s.bulk e
  match b.pkt, b.chan with
  | some p, _ => match s.pkt? p with
    | none => s.freeBulk e
    | some (v, x) => match State.bulkRun (b.len + 1) s v e with
      | (s, .asked) => s
      | (s, .fault c) => (s.endPkt p c).freeBulk e
      | (s, .done) =>
        let n := x.bytes + b.len
        let s := s.modPkt p fun x => { x with bytes := n }
        (if x.word 4 ≤ n then s.endPkt p 0 else s).freeBulk e
  | none, some (f, c) => match s.vd? f with
    | none => s.freeBulk e
    | some v => match State.bulkRun (b.len + 1) s v e with
      | (s, .asked) => s
      | (s, .fault _) => s.abortChan e v c
      | (s, .done) =>
        let s := s.vdPut v ((s.vf f).chanAt c + 0x10) (bytesOf 8 (b.idx + 1))
        match (s.setBulk e { lastVd := b.lastVd }).chanChunk e v c with
        | (s, true) => s
        | (s, false) => s.freeBulk e
  | none, none => s

/-- An engine's chunk may go on: its time has come, and no peer's answer is awaited. -/
def State.chunkDue (s : State) (e : Nat) : Bool := !(s.bulk e).idle && !(s.bulk e).asked && (s.bulk e).dueAt ≤ s.tick

/-- COPY (R284, R306): starts once an engine takes its first chunk; with none free it waits for one. -/
def execCopy (p : PktId) (s : State) : Out' :=
  s.starting "COPY" p tyCopy fun v _ =>
    match s.idleEngine v.home with
    | some e => .next (s.nextBulk e)
    | none => .next s

/-- BULK_CHUNK_BOUNDARY (R306, R307): a chunk of a packet has performed, and the engine takes the next one by R307. -/
def execBulkChunkBoundary (die engine : Nat) (s : State) : Out' :=
  if Config.dies ≤ die ∨ 8 ≤ engine then .fault (.noSuchUnit "BULK_CHUNK_BOUNDARY" (8 * die + engine))
  else if (s.bulk (8 * die + engine)).pkt.isSome && s.chunkDue (8 * die + engine) then .next (s.runChunk (8 * die + engine))
  else .refused (.notEnabled "BULK_CHUNK_BOUNDARY")

/-- CHUNK_COPY (R436): a chunk of a channel has performed; DCONS follows, and the next chunk. -/
def execChunkCopy (vf c : Nat) (s : State) : Out' :=
  match (List.range 128).find? fun e => (s.bulk e).chan = some (vf, c) && s.chunkDue e with
  | some e => .next (s.runChunk e)
  | none => .refused (.notEnabled "CHUNK_COPY")

/-- A peer has answered an engine: the bytes it asked for, or the ACK of its write; or the message failed (R396, R400). -/
def State.answerBulk (s : State) (e : Nat) (r : Except Nat (List Byte × Nat)) : State :=
  let b := s.bulk e
  if !b.asked then s
  else match r with
    | .error c => match b.pkt, b.chan with
      | some p, _ => (s.endPkt p c).freeBulk e
      | none, some (f, c') => match s.vd? f with
        | some v => s.abortChan e v c'
        | none => s.freeBulk e
      | none, none => s
    | .ok (bs, map) =>
      let b := match b.got with
        | none => { b with asked := false, got := some (bs, map) }
        | some _ => { b with asked := false, got := none, pos := b.pos + b.run }
      (s.setBulk e b).runChunk e

end Sys2Proof.Machine
end

