-- ==== Sys2Proof/Machine/Walks.lean ====
section
/-! DEFINITION. The end of a page walk and the host's part in translation (R349, R350, R353, R354). -/
namespace Sys2Proof.Machine
open Sys2Proof

/-! ## Who waits -/

/-- The address a waiter wants translated. -/
def State.waiterAddr (s : State) : Waiter → Nat
  | .acc q id part => match s.acc? q id with
    | some a => ((a.parts[part]?).map (·.addr)).getD 0
    | none => 0
  | .prefetch _ _ _ a | .index _ _ _ a _ => a
  | .lines _ _ _ | .wc _ _ | .bulk _ | .aperture _ | .pkt _ | .host _ _ => 0

/-- What it asks of its page. -/
def State.waiterNeeds (s : State) : Waiter → List Need
  | .acc q id _ => match s.acc? q id with
    | some a => [a.need]
    | none => []
  | .index _ _ _ _ needs => needs
  | .prefetch _ _ _ _ => [.read]
  | .lines _ _ _ | .wc _ _ | .bulk _ | .aperture _ | .pkt _ | .host _ _ => []

/-- Whether it wants to write. -/
def State.waiterWrites (s : State) (w : Waiter) : Bool := (s.waiterNeeds w).any (· ≠ .read)

/-- The agent a waiter is. -/
def State.waiterAgent (s : State) (die : Nat) (c : TransCtx) : Waiter → Agent
  | .acc q _ _ => s.agentOf q c
  | w => { die := die, tile := w.tile?, quires := w.tile?.map fun t => [quireOf t] }

/-- The check of R346 a waiter's translation fails, if one. -/
def State.waiterFault (s : State) (die : Nat) (c : TransCtx) (e : TlbEnt) (w : Waiter) : Option Nat :=
  let tgt := e.tgt.plus (s.waiterAddr w % 2 ^ e.bits)
  if w = .aperture false then some perm
  else (s.waiterNeeds w).findSome? fun n => s.pageCheck (s.waiterAgent die c w) c.world.toNat tgt e.attr n

/-- The translation a waiter waited for, or its fault. -/
def State.answerWaiter (s : State) (w : Waiter) (r : Except Nat TlbEnt) : State :=
  match w with
  | .acc q id part =>
    s.resumeAcc q id part (match r with
      | .ok e => .ok (e.tgt.plus (s.waiterAddr w % 2 ^ e.bits), e.attr)
      | .error c => .error c)
  | .lines _ _ _ | .wc _ _ | .bulk _ | .aperture _ | .pkt _ | .host _ _ => s
  | .prefetch t u cmd _ => s.answerPrefetch t u cmd
  | .index t u cmd addr _ => s.answerIndex t u cmd addr (match r with
      | .ok _ => .ok none
      | .error c => .error c)

/-- Answer all of them with a fault. -/
def State.failAll (s : State) (ws : List Waiter) (code : Nat) : State := ws.foldl (fun s w => s.answerWaiter w (.error code)) s

/-- Answer all of them with a translation, the TLBs taking it (R349), but for those whose check it fails: that is their
fault, and a fault is never cached (R346). -/
def State.answerAll (s : State) (die : Nat) (c : TransCtx) (ws : List Waiter) (e : TlbEnt) : State :=
  let s := if ws.any fun w => (s.waiterFault die c e w).isNone then s.modDie die fun d => { d with tlb := addTlb 4096 d.tlb e } else s
  ws.foldl (fun s w => match s.waiterFault die c e w with
    | none => (s.addMicro w.tile? e).answerWaiter w (.ok e)
    | some code => s.answerWaiter w (.error code)) s

/-! ## Walks -/

/-- The VD whose default context is `c`, for a request of no tile's. -/
def State.ownerOf (s : State) (c : TransCtx) : Nat :=
  ((s.vdIn c).map (·.vd)).getD 0

/-- Ask the host for a translation (R353); the request keeps the waiters of one host page. -/
def State.askAts (s : State) (die : Nat) (c : TransCtx) (dva : Nat) (perms : PageAttr) (asked : Nat) (ws : List Waiter) : State :=
  let (id, s) := s.newId
  let vd := match ws.findSome? Waiter.tile? with
    | some t => (s.tile t).vd
    | none => s.ownerOf c
  let r : HostReq := { tag := hostTag c id, die := die, vd := vd, ctx := c, dva := dva, page := false, asked := asked, perms := perms, waiters := ws }
  { s with hostReqs := s.hostReqs ++ [r] }.emit (.ats vd r.tag (hostPageOf dva))

/-- Send a page request for a host page (R354). -/
def State.askPri (s : State) (r : HostReq) : State :=
  let (id, s) := s.newId
  let q := { r with tag := hostTag r.ctx id, page := true, asked := r.asked + 1 }
  { s with hostReqs := s.hostReqs ++ [q] }.emit (.pri q.vd q.tag (hostPageOf q.dva))

/-- Waiters by host page, one request for each page. -/
def State.askPages (s : State) (die : Nat) (c : TransCtx) (perms : PageAttr) : Nat → List Waiter → State
  | 0, _ => s
  | _ + 1, [] => s
  | fuel + 1, w :: ws =>
    let page (x : Waiter) : Nat := s.waiterAddr x / 2 ^ hostBits
    let (mine, others) := (w :: ws).partition fun x => page x = page w
    (s.askAts die c (s.waiterAddr w) perms 0 mine).askPages die c perms fuel others

/-- Give a waiting walk a walker that has come free (R349). -/
def State.nextWalk (s : State) (die : Nat) : State :=
  match (s.die die).walks.find? (·.dueAt.isNone) with
  | some w => s.beginWalk die w
  | none => s

/-- A walk has read its next entry (R349): it goes on with the table that names, or ends with the translation into the TLBs,
a delegated page to the host (R353), or a fault to all that wait on it. -/
def execWalkComplete (die id : Nat) (s : State) : Out' :=
  match (s.die die).walks.find? fun w => w.id = id && w.dueAt.any (· ≤ s.now) with
  | none => .refused (.notEnabled "WALK_COMPLETE")
  | some w =>
    let (s, r) := s.walkStep w.ctx w.dva w.level w.table
    let ended (s : State) : State := (s.modDie die fun d => { d with walks := d.walks.filter (·.id ≠ id) }).nextWalk die
    match r with
    | .ok next =>
      let s := s.modDie die fun d => { d with wcache := addWalks d.wcache [w.ctx.walkEnt w.dva (w.level + 1) next] }
      .next ((s.modWalk die id fun x => { x with dueAt := some (s.now + 188), level := w.level + 1, table := next }).post
        (s.now + 188) (.walkComplete die id))
    | .error (.leaf bits tgt attr) => .next ((ended s).answerAll die w.ctx w.waiters (w.ctx.entry w.dva bits tgt attr))
    | .error (.delegated attr) => .next ((ended s).askPages die w.ctx attr w.waiters.length w.waiters)
    | .error (.fault code) => .next ((ended s).failAll w.waiters code)

/-! ## The host's answers -/

def State.takeReq (s : State) (tag : Nat) : State := { s with hostReqs := s.hostReqs.filter fun (r : HostReq) => r.tag ≠ tag }

/-- The page is refused: a prefetch skips it, a second refusal raises HOSTPAGE, a first one sends a page request. -/
def State.refusePage (s : State) (r : HostReq) (ws : List Waiter) : State :=
  let (pre, ws) := ws.partition fun w => match w with | .prefetch _ _ _ _ => true | _ => false
  let s := s.failAll pre hostPage
  if ws.isEmpty then s
  else if 0 < r.asked then s.failAll ws hostPage
  else s.askPri { r with waiters := ws }

/-- An ATS completion (R353): permissions ANDed with the leaf's and cached; a refusal, or a right it does not grant the
access, leads to a page request (R354). Of a context killed since, the translation is not used and the walk starts
again. -/
def execAtsCompletion (tag : Nat) (a : AtsResult) (s : State) : Out' :=
  match s.hostReqs.find? fun r => r.tag = tag && !r.page with
  | none => .refused (.notEnabled "ATS_COMPLETION")
  | some r =>
    let s := s.takeReq tag
    if r.dead then .next (r.waiters.foldl (fun s w => s.startWalk r.die r.ctx (s.waiterAddr w) w) s)
    else match a with
      | .denied => .next (s.refusePage r r.waiters)
      | .granted page rd wr at_ =>
        let p := r.perms
        let e := r.ctx.entry r.dva hostBits (.host (page * 2 ^ hostBits)) (p.and rd wr at_)
        let grants (n : Need) : Bool := match n with
          | .read => rd || !p.r
          | .write => wr || !p.w
          | .atomic _ _ => (rd || !p.r) && (wr || !p.w) && (at_ || !p.a)
        let (ok, no) := r.waiters.partition fun w => (s.waiterNeeds w).all grants
        .next ((s.answerAll r.die r.ctx ok e).refusePage r no)

/-- A page response (R354): success asks ATS again, failure raises HOSTPAGE; for a context killed since it is discarded
and counted in PRILATE. -/
def execPriResponse (tag : Nat) (ok : Bool) (s : State) : Out' :=
  match s.hostReqs.find? fun r => r.tag = tag && r.page with
  | none => .refused (.notEnabled "PRI_RESPONSE")
  | some r =>
    let s := s.takeReq tag
    if r.dead then .next { s with kblock := { s.kblock with prilate := s.kblock.prilate + 1 } }
    else if ok then .next (s.askAts r.die r.ctx r.dva r.perms r.asked r.waiters)
    else .next (s.failAll r.waiters hostPage)

/-- An ATS invalidation of a page of a virtual function (R353): its cached host translations are dropped. -/
def execAtsInvalidation (vd page : Nat) (s : State) : Out' :=
  let world := match s.vd? vd with
    | some v => v.world
    | none => 0
  let keep (e : TlbEnt) : Bool := !(e.world = world && e.bits = hostBits && e.page % 2 ^ (46 - hostBits) = page &&
    match e.tgt with | .host _ => true | _ => false)
  let s := s.modTiles (fun _ => true) fun x => { x with utlb := x.utlb.filter keep }
  .next (s.modDies (fun _ => true) fun d => { d with tlb := d.tlb.filter keep })

end Sys2Proof.Machine
end

