-- ==== Sys2Proof/Machine/Migration.lean ====
section
/-! DEFINITION. Key tags and scrubbing (R140, R410, R422), page migration (R356 to R363), key rotation (R139, R364) and
the hotness counters' period (R355). -/
namespace Sys2Proof.Machine
open Sys2Proof

/-! ## Key tags (R410) -/

/-- KEYID_FREED (R410): a scrubbed key ID becomes free once no frame of the package holds it. -/
def execKeyidFreed (i : Nat) (s : State) : Out' :=
  if s.sct.keys.get .free i = .scrubbed && !s.keyInUse i then
    .next { s with sct := { s.sct with keys := s.sct.keys.set .free i .free } }
  else .refused (.notEnabled "KEYID_FREED")

/-- Destroy a key ID's keys in the lantern and at every home; combiner entries held under it are dropped, and it is no
alias of a rotated frame any more (R140, R364, R422). -/
def State.scrubKey (s : State) (i : Nat) : State :=
  let s := s.modMem fun m => { m with
    comb := m.comb.filter fun (e : CombEnt) => e.keyId ≠ i
    aliases := m.aliases.filterMap fun e =>
      let l := e.2.filter (· ≠ i)
      if l.isEmpty then none else some (e.1, l) }
  State.checkFreed { s with sct := { s.sct with keys := s.sct.keys.set .free i .scrubbed } } i

/-- Cycles SCRUB may take (R140): 10 µs. -/
abbrev scrubLimit : Nat := 22500

/-- SCRUB (R135, R140): PERM from a tile and for a key ID outside 1 to 254. -/
def execScrub (a : BitVec 6) (s : State) : Out' :=
  let i := ((s.seq s.cur).gr a).toNat
  issueCtl s [a] false true ((s.seq s.cur).privileged && (seqTile? s.cur).isNone && 1 ≤ i && i ≤ 254) fun _ =>
    let wait := min scrubLimit (Config.freeDelay s.fresh)
    .next (State.modSeq { s.scrubKey i with fresh := s.fresh + 1 } s.cur fun q => { q.retire s.now with issueAt := s.now + 1 + wait })

/-! ## Leaves in motion (R345, R356 to R363) -/

/-- Kinds of events of R363. -/
abbrev evMigDone : Nat := 4
abbrev evMigAbort : Nat := 5
abbrev evMigRef : Nat := 6
abbrev evKrotDone : Nat := 7
abbrev evKrotRef : Nat := 8

/-- The event queue a request names: of the VD whose default context it was made in (log 70), or the physical
function's. -/
def State.migQueue (s : State) (r : MigReq) : EvQueue :=
  if r.evq = 0 ∨ r.pf then .pf
  else
    let vds := s.vds.filterMap Prod.snd
    match vds.find? fun v => v.world = r.world && v.ctx.asidNo = r.asid with
    | some v => .dva v.vd r.evq
    | none => match vds.find? fun v => v.world = r.world with
      | some v => .dva v.vd r.evq
      | none => .pf

/-- Post an event of a migration. -/
def State.migEvent (s : State) (r : MigReq) (kind code low : Nat) : State :=
  s.postEvent (s.migQueue r) kind code 0 noTeam r.dva (low + r.tag * 2 ^ 32)

/-- An access of the migration engine: no home samples it (R355). -/
def State.unsampled {α : Type} (s : State) (f : State → State × α) : State × α :=
  let (s1, r) := f s
  (s1.modMem fun m => { m with hot := s.mem.hot, hotPos := s.mem.hotPos }, r)

def State.engineRead (s : State) (key pa n : Nat) : State × Except Nat (List Byte) := s.unsampled fun s => s.paRead key pa n
def State.engineWrite (s : State) (key pa : Nat) (bs : List Byte) : State :=
  (s.unsampled fun s => (s.paWrite key pa bs, ())).1

/-- The level at which a walk of `c` from `table` reads LEAFPA; the fuel is the levels left. -/
def levelIn (r : MigReq) (c : TransCtx) : Nat → State → Nat → Nat → State × Nat
  | 0, s, _, _ => (s, 4)
  | fuel + 1, s, level, table =>
    if table + r.dva / 2 ^ levelBits level % 1024 * 8 = r.leafPa then (s, level)
    else match s.walkStep c r.dva level table with
      | (s, .ok next) => levelIn r c fuel s (level + 1) next
      | (s, .error _) => (s, 4)

/-- The contexts of a request's world and ASID: the VDs' default ones, and those of tiles and their commands. -/
def State.contextsOf (s : State) (r : MigReq) : List TransCtx :=
  let all := (s.vds.filterMap fun e => e.2.map (·.ctx)) ++ s.tiles.flatMap fun e => e.2.seq.csr.ctx :: e.2.heldContexts
  (all.filter fun c => c.world.toNat = r.world && c.asidNo = r.asid).eraseDups

/-- The level of the table the entry at LEAFPA belongs to, by the tables of the contexts of the request's world and ASID: 4
where none of them maps the page through it (log 114). -/
def State.leafLevel (s : State) (r : MigReq) : State × Nat :=
  (s.contextsOf r).foldl (fun (x : State × Nat) c =>
    if x.2 < 4 then x
    else match c.root with
      | some root => x.1.unsampled fun s => levelIn r c 4 s 1 root
      | none => x) (s, 4)

/-- The leaf of a request as it stands: its word, where it is a valid 64 KiB leaf of tier H, L or X. -/
def State.migLeaf (s : State) (r : MigReq) : State × Option (Nat × Nat × PageAttr) :=
  if r.leafPa % 8 ≠ 0 ∨ 2 ≤ paTier r.leafPa then (s, none)
  else match s.engineRead r.tkey r.leafPa 8 with
    | (s, .error _) => (s, none)
    | (s, .ok bs) =>
      let e := natOf bs
      let (s, level) := s.leafLevel r
      if bitOf 0 e && bitOf 1 e && level = 4 then match leafOf 4 e with
        | some (.mem pa, attr) => (s, some (e, pa, attr))
        | _ => (s, none)
      else (s, none)

/-- TKEY is bound to WORLD (R356). -/
def State.tkeyOk (s : State) (r : MigReq) : Bool :=
  match s.sct.keys.get .free r.tkey with
  | .bound w _ => 1 ≤ r.tkey && r.tkey ≤ 254 && w = r.world
  | _ => false

/-- The tier of a destination is absent (R348, R357). -/
def State.destAbsent (s : State) (dest : Nat) : Bool :=
  match homeOf dest with
  | some .lpddr => s.fitted.tierL = 0
  | some (.expander e) => !bitOf e s.fitted.expanders
  | _ => false

/-- The reason a request is refused with (R357), or its leaf. -/
def State.migCheck (s : State) (r : MigReq) (zeros : Bool) : State × Except Nat (Nat × Nat × PageAttr) :=
  if !zeros ∨ r.dva % 2 ^ 16 ≠ 0 ∨ r.dest % 2 ^ 16 ≠ 0 ∨ !s.tkeyOk r then (s, .error 7)
  else match s.migLeaf r with
    | (s, none) => (s, .error 2)
    | (s, some (e, src, attr)) =>
      if bitOf 18 e then (s, .error 3)
      else if s.destAbsent r.dest then (s, .error 4)
      else if 3 ≤ paTier r.dest ∨ !s.present r.dest then (s, .error 5)
      else if frameOf r.dest = frameOf src then (s, .error 6)
      else (s, .ok (e, src, attr))

/-- The lowest free slot. -/
def State.freeSlot (s : State) : Option Nat := (List.range 512).find? fun n => !s.mig.any fun m => m.slot = n

/-- Something waits for a slot: a request, or a frame of a rotation that holds fewer than 64. -/
def State.slotWanted (s : State) : Bool := !s.migWait.isEmpty || s.rots.any fun r => !r.frames.isEmpty && r.active < 64

/-- Post the start of what waits for a slot, where one is free. -/
def State.fillSlot (s : State) : State :=
  match s.freeSlot with
  | some n => if s.slotWanted then s.postIn 0 (.migrationStart n) else s
  | none => s

/-- The fields of a descriptor, and whether its zero fields are zero. -/
def migReqOf (b : List Byte) (pf : Bool) : MigReq × Bool :=
  let w (o : Nat) : Nat := field b o 8
  ({ leafPa := w 0, dva := w 8, asid := bitsOf 11 0 (w 0x10), world := bitsOf 23 16 (w 0x10), tkey := bitsOf 31 24 (w 0x10)
     dest := w 0x18, evq := w 0x20, pf := pf, tag := bitsOf 31 0 (w 0x28) },
   bitsOf 63 32 (w 0x10) = 0 && bitsOf 63 32 (w 0x28) = 0 && w 0x30 = 0 && w 0x38 = 0)

/-- MIGREQ (R356, R357): the descriptor is read under key ID 0; the request waits for a slot, or is refused. -/
def execMigreq (pa : Nat) (pf : Bool) (s : State) : Out' :=
  match s.engineRead 0 pa 64 with
  | (s, .error _) => .next (s.migEvent { pf := true } evMigRef 0 7)
  | (s, .ok b) =>
    let (r, zeros) := migReqOf b pf
    if 512 ≤ s.migWait.length then .next (s.migEvent r evMigRef 0 1)
    else match s.migCheck r zeros with
      | (s, .error c) => .next (s.migEvent r evMigRef 0 c)
      | (s, .ok _) =>
        let (id, s) := s.newId
        .next (State.fillSlot { s with migWait := s.migWait ++ [{ r with order := id }] })

/-- Post the copy of a slot's next line: how long it takes is free, and at most 2 µs (R359). -/
def State.postLine (s : State) (n : Nat) : State :=
  ({ s with fresh := s.fresh + 1 } : State).postIn (1 + min 4499 (Config.freeDelay s.fresh)) (.migrationLineCopy n)

/-- The word of a leaf in motion in slot `n`: MOV and MSLOT (R358). -/
def leafMoving (e n : Nat) : Nat := e % 2 ^ 18 + 2 ^ 18 + n * 2 ^ 19 + e / 2 ^ 28 * 2 ^ 28
/-- The word of a leaf at rest at frame PA `pa` (R361, R362). -/
def leafAt (e pa : Nat) : Nat := e % 2 ^ 8 + paTier pa * 2 ^ 8 + e / 2 ^ 10 % 2 ^ 8 * 2 ^ 10 + pa % 2 ^ 44 / 2 ^ 16 * 2 ^ 36

/-- Combiner entries of a frame are written back before its lines are copied. -/
def State.settleFrame (s : State) (pa : Nat) : State := s.writeBackAll fun (e : CombEnt) => frameOf e.addr = frameOf pa

/-- A slot begins to copy line 0. -/
def State.beginMove (s : State) (m : MigSlot) : State :=
  (State.settleFrame { s with mig := s.mig ++ [{ m with copying := true }] } m.src).postLine m.slot

/-- Change a rotation. -/
def State.modRot (s : State) (id : Nat) (f : Rotation → Rotation) : State :=
  { s with rots := s.rots.map fun (r : Rotation) => if r.id = id then f r else r }

/-- Drop the frames at the head of a rotation that hold its old key no longer; they are not its frames any more (R139). -/
def State.skipRetagged (s : State) (r : Rotation) : Rotation :=
  { r with frames := r.frames.dropWhile fun f => s.mem.tags.get none f ≠ some r.old }

/-- The rotation a slot takes a frame of: the oldest with fewer than 64 in motion, where no request was queued before it
(R364). -/
def State.nextRotation (s : State) : Option Rotation :=
  (s.rots.find? fun (r : Rotation) => !r.frames.isEmpty && r.active < 64).filter fun r => s.migWait.head?.all (r.id < ·.order)

/-- MIGRATION_START (R358, R364): a slot takes the oldest request, or a frame of an older rotation that still holds the old
key. -/
def execMigrationStart (slot : Nat) (s : State) : Out' :=
  if 512 ≤ slot then .fault (.noSuchUnit "MIGRATION_START" slot)
  else if s.mig.any fun m => m.slot = slot then .refused (.notEnabled "MIGRATION_START")
  else match s.nextRotation, s.migWait with
    | none, r :: rest =>
      let s := { s with migWait := rest }
      match s.migCheck r true with
      | (s, .error c) => .next ((s.migEvent r evMigRef 0 c).fillSlot)
      | (s, .ok (e, src, attr)) =>
        let s := s.setTag (frameOf r.dest) attr.keyId
        let m : MigSlot := { slot := slot, req := { r with src := src }, src := src, newKey := attr.keyId }
        .next (((s.beginMove m).engineWrite r.tkey r.leafPa (bytesOf 8 (leafMoving e slot))).fillSlot)
    | none, [] => .refused (.notEnabled "MIGRATION_START")
    | some r, _ =>
      let r := s.skipRetagged r
      match r.frames with
      | [] => .next (((s.modRot r.id fun _ => r).postIn 0 (.krotComplete r.id)).fillSlot)
      | f :: rest =>
        let pa := f * 2 ^ 16
        let s := s.modRot r.id fun x => { x with frames := rest, active := x.active + 1 }
        let m : MigSlot := { slot := slot, req := { rot := some r.id, src := pa, dest := pa }, src := pa, newKey := r.new }
        .next ((s.beginMove m).fillSlot)

/-- A slot is abandoned for a cause of R362: the source serves every line, and the updates that wait perform there; a frame being
rotated stays under its old key and counts as failed. -/
def State.abortSlot (s : State) (n cause : Nat) : State :=
  match s.mig.find? fun m => m.slot = n && m.phase = 0 with
  | none => s
  | some m =>
    let s := (s.modSlot n fun m => { m with copying := false, early := false, doneLines := 0, phase := 2, cause := cause }).releaseHeld n
    match m.req.rot with
    | some id =>
      let s := State.modRot { s with mig := s.mig.filter fun x => x.slot ≠ n } id fun r =>
        { r with active := r.active - 1, failed := r.failed + 1 }
      (s.postIn 0 (.krotComplete id)).fillSlot
    | none =>
      let s := match s.engineRead m.req.tkey m.req.leafPa 8 with
        | (s, .ok bs) => s.engineWrite m.req.tkey m.req.leafPa (bytesOf 8 (leafAt (natOf bs) m.src))
        | (s, .error _) => s
      (s.startKill none m.req.asid m.req.world (List.range Config.dies) (some n)).postIn 1 (.migrationAbort n cause)

/-- MIGRATION_LINE_COPY (R359, R362): the line in motion is done, and the next is taken. -/
def execMigrationLineCopy (slot : Nat) (s : State) : Out' :=
  match s.mig.find? fun m => m.slot = slot && m.copying && m.phase = 0 && m.cause = 0 with
  | none => .refused (.notEnabled "MIGRATION_LINE_COPY")
  | some m =>
    let s := if m.early then s else s.copyNow m
    if (s.mig.find? (·.slot = slot)).any (·.cause ≠ 0) then .next (s.releaseHeld slot)
    else
      let n := m.doneLines + 1
      let s := s.modSlot slot fun m => { m with doneLines := n, line := n, copying := decide (n < 1024), early := false }
      let s := s.releaseHeld slot
      .next (if n < 1024 then s.postLine slot else s.postIn 0 (.migrationComplete slot))

/-- The kill of a slot is past its TLBSYNC. -/
def State.slotKilled (s : State) (n : Nat) : Bool := s.kills.all fun k => k.mig ≠ some n || s.killSettled k

/-- A slot and its kill are gone. -/
def State.closeSlot (s : State) (n : Nat) : State :=
  { s with mig := s.mig.filter (fun m => m.slot ≠ n), kills := s.kills.filter fun k => k.mig ≠ some n }

/-- MIGRATION_COMPLETE (R361, R364): the leaf is rewritten and the old translations killed; once the kill is past, the
slot is free and MIGDONE is posted; a cause of R362 met by then abandons it. A rotated frame takes its new tag, and
accepts its old key ID as an alias; one that was given another key while it was in its slot takes the rotation's new one all
the same (DESIGN CHOICE, log 128). -/
def execMigrationComplete (slot : Nat) (s : State) : Out' :=
  match s.mig.find? fun m => m.slot = slot && m.doneLines = 1024 && m.phase < 2 && m.cause = 0 with
  | none => .refused (.notEnabled "MIGRATION_COMPLETE")
  | some m =>
    if m.phase = 0 ∧ s.treeBad m then .next (s.failMove slot 3)
    else if m.phase = 0 ∧ (s.destBad m ∨ s.scrubbedKey m.newKey) then .next (s.failMove slot 1)
    else match m.req.rot with
    | some id =>
      let f := frameOf m.src
      let olds := (s.mem.tags.get none f).toList ++ s.mem.aliases.get [] f
      let s := (s.setTag f m.newKey).closeSlot slot
      let s := s.modMem fun x => { x with aliases := x.aliases.set [] f (olds.filter fun k => !s.scrubbedKey k) }
      let s := s.modRot id fun r => { r with active := r.active - 1, done := r.done + 1 }
      .next ((s.postIn 0 (.krotComplete id)).fillSlot)
    | none =>
      if m.phase = 0 then
        let s := match s.engineRead m.req.tkey m.req.leafPa 8 with
          | (s, .ok bs) => s.engineWrite m.req.tkey m.req.leafPa (bytesOf 8 (leafAt (natOf bs) m.req.dest))
          | (s, .error _) => s
        let s := s.modSlot slot fun m => { m with phase := 1 }
        .next ((s.startKill none m.req.asid m.req.world (List.range Config.dies) (some slot)).postIn 1 (.migrationComplete slot))
      else if s.slotKilled slot then .next (((s.closeSlot slot).migEvent m.req evMigDone 0 0).fillSlot)
      else .next (s.postIn 1 (.migrationComplete slot))

/-- MIGRATION_ABORT (R362): for a cause, while the leaf has not been rewritten; then its kill, and MIGABORT. -/
def execMigrationAbort (slot cause : Nat) (s : State) : Out' :=
  match s.mig.find? (·.slot = slot) with
  | none => .refused (.notEnabled "MIGRATION_ABORT")
  | some m =>
    if m.phase = 0 then .next (s.abortSlot slot cause)
    else if m.phase = 1 then .refused (.notEnabled "MIGRATION_ABORT")
    else if s.slotKilled slot then .next (((s.closeSlot slot).migEvent m.req evMigAbort migrateAbort m.cause).fillSlot)
    else .next (s.postIn 1 (.migrationAbort slot cause))

/-- Abort every migration with a frame `p` selects. -/
def State.abortMoves (s : State) (cause : Nat) (p : Nat → Bool) : State :=
  ((s.mig.filter fun m => m.phase = 0 && (p m.src || p m.req.dest)).map (·.slot)).foldl
    (fun (s : State) n => s.failMove n cause) s

/-- CXL_LINK_LOSS (R362): an expander's link is lost; its memory is no longer there. -/
def execCxlLinkLoss (e : Nat) (s : State) : Out' :=
  if 16 ≤ e then .fault (.noSuchUnit "CXL_LINK_LOSS" e)
  else
    let s := s.abortMoves 2 fun pa => homeOf pa = some (.expander e)
    .next { s with fitted := { s.fitted with expanders := if bitOf e s.fitted.expanders then s.fitted.expanders - 2 ^ e else s.fitted.expanders } }

/-! ## Key rotation (R139, R364) -/

/-- The reason a rotation is refused with (R363). -/
def State.rotRefusal (s : State) (a b : Nat) : Option Nat :=
  if a = b then some 1
  else if s.keyInUse b then some 2
  else if s.sct.keys.get .free a = .scrubbed then some 3
  else none

/-- Post an event of a rotation: to the physical function's queue, or to the security controller's own for one it issued. -/
def State.rotEvent (s : State) (sct : Bool) (kind code a b data2 : Nat) : State :=
  if sct then
    { s with sct := { s.sct with events := s.sct.events ++ [eventBytes s.tick kind code 0 noTeam (a + b * 256) data2] } }
  else s.postEvent .pf kind code 0 noTeam (a + b * 256) data2

/-- Start the rotation of every frame of key ID `a` to `b`. Its frames are those tagged at issue; one tagged `a` later keeps
its key (log 106). -/
def State.startRotation (s : State) (sct : Bool) (a b : Nat) : State :=
  let (id, s) := s.newId
  let frames := (s.mem.tags.filter fun e => e.2 = some a).map Prod.fst
  let r : Rotation := { id := id, old := a, new := b, frames := frames, sct := sct
                        areas := (s.launches.filter fun l => l.saveLen ≠ 0 && l.saveKey = a).map (·.id) }
  let s : State := { s with rots := s.rots ++ [r] }
  if frames.isEmpty then s.postIn 0 (.krotComplete id) else s.fillSlot

/-- KROT (R135, R139): PERM from a tile and for key IDs outside 1 to 254; a refusal is posted as the rotation's other
events are (R363). -/
def execKrot (a b : BitVec 6) (s : State) : Out' :=
  let q := s.seq s.cur
  let i := (q.gr a).toNat
  let j := (q.gr b).toNat
  issueCtl s [a, b] false true (q.privileged && (seqTile? s.cur).isNone && 1 ≤ i && i ≤ 254 && 1 ≤ j && j ≤ 254) fun _ =>
    match s.rotRefusal i j with
    | some r => (s.rotEvent (s.cur = sctSeq) evKrotRef 0 i j r).retireWith id
    | none => (s.startRotation (s.cur = sctSeq) i j).retireWith id

/-- The save areas of a rotation take the new key, their frames counted; one whose old key is gone by now counts as failed
(R324, R364; log 115). -/
def State.rotateAreas (s : State) (r : Rotation) : State × Rotation :=
  let mine := s.launches.filter fun l => r.areas.contains l.id && l.saveLen ≠ 0 && l.saveKey = r.old
  let n := (mine.map fun l => (l.saveLen + 65535) / 65536).sum
  if s.scrubbedKey r.old then (s, { r with failed := r.failed + n })
  else ({ s with launches := s.launches.map fun l => if mine.any (·.id = l.id) then { l with saveKey := r.new } else l },
    { r with done := r.done + n })

/-- KROT_COMPLETE (R363, R364): every frame has been rotated or has failed. -/
def execKrotComplete (id : Nat) (s : State) : Out' :=
  match s.rots.find? fun (r : Rotation) => r.id = id && r.frames.isEmpty && r.active = 0 with
  | none => .refused (.notEnabled "KROT_COMPLETE")
  | some r =>
    let (s, r) := s.rotateAreas r
    let s := { s with rots := s.rots.filter fun (x : Rotation) => x.id ≠ id }
    .next (s.rotEvent r.sct evKrotDone (if r.failed = 0 then 0 else migrateAbort) r.old r.new (r.done + r.failed * 2 ^ 32))

/-! ## Hotness (R355) -/

/-- HOTNESS_PERIOD: counters of tiers L and X are halved; those of tier H count the period unless it sampled them. -/
def execHotnessPeriod (s : State) : Out' :=
  .next (s.modMem fun m => { m with
    periods := m.periods + 1
    hot := m.hot.filterMap fun e =>
      if paTier (e.1 * 2 ^ 16) = 0 then some e else if e.2 / 2 = 0 then none else some (e.1, e.2 / 2) })

end Sys2Proof.Machine
end

