-- ==== Sys2Proof/Machine/DieReset.lean ====
section
/-! DEFINITION. Die resets (R378) and what follows from them: the recovery of teams and the replay of journals (R298),
and failed die-to-die links (R297). -/
namespace Sys2Proof.Machine
open Sys2Proof

/-! ## The stack of a die -/

/-- The stack of a die, where it has one (R341). -/
def stackOf? (d : Nat) : Option Nat := (List.range 12).find? fun n => stackDies.getD n 99 = d

/-- The stack of a die lost with its contents (R341, R378). -/
def State.loseStack (s : State) (d : Nat) : State :=
  match stackOf? d with
  | none => s
  | some n =>
    let mine (pa : Nat) : Bool := homeOf pa = some (.stack n)
    (s.abortMoves 3 mine).modMem fun m => { m with
      cells := m.cells.filter fun c => !mine c.1
      comb := m.comb.filter fun e => !mine e.addr
      errs := m.errs.filter fun e => !mine (e.1 * 64)
      ctrs := m.ctrs.filter fun e => !mine (e.1 * 2048)
      upper := m.upperBut mine
      poison := m.poison.filter fun l => !mine (l * 64)
      cured := m.cured.filter fun l => !mine (l * 64)
      lostStacks := markIn m.lostStacks n }

/-! ## Work whose words went with the stack (R297, R331) -/

/-- A DVA of a VD is homed on stack `n`. -/
def State.onStack (s : State) (v : Vd) (n dva : Nat) : Bool :=
  match (s.vdTarget v dva .read).2 with
  | .ok (.mem pa, _) => homeOf pa = some (.stack n)
  | _ => false

/-- The words a packet names lie on the stack: its ring slot, its signal, its object, or a control block of its phase. -/
def State.pktOnStack (s : State) (v : Vd) (n : Nat) (x : Pkt) : Bool :=
  let q := v.queue? x.qnum
  let slot := q.any fun q => s.onStack v n (q.base + 64 * (x.idx % 2 ^ q.log2n))
  let signal := x.word 1 ≠ 0 && s.onStack v n (x.word 1)
  let object := (x.typ = tySignal || x.typ = tyWaitsig || x.typ = tyCancel || x.typ = tyPhase) && s.onStack v n (x.word 2)
  let block := x.top ≠ 0 && v.blocks.any fun k => v.under x.top k && s.onStack v n k.dva
  slot || signal || object || block

/-- Mark the work of a VD whose words lie on a stack that is about to be lost: it ends with DIE_RESET, and it is not reported
where its QCB goes. -/
def State.markLost (s : State) (n : Nat) (v : Vd) : State :=
  let s := v.jrnl.foldl (fun (s : State) x =>
    let mute := (v.queue? x.qnum).any fun q => s.onStack v n q.qcb
    if mute || s.pktOnStack v n x then s.modPkt (x.id v.vd) fun x => { x with lost := true, mute := x.mute || mute } else s) s
  { s with launches := s.launches.map fun l =>
      if l.vd = v.vd && l.lcb ≠ 0 && (s.onStack v n l.lcb || s.onStack v n l.donemap) then { l with lost := true } else l }

/-- A held or running launch ends without running on, for the reason given. -/
def State.failLaunch (s : State) (v : Vd) (l : Launch) (reason : Nat) : State :=
  match l.st with
  | .waiting | .saved => (s.freeArea l).completeLaunch l reason (s.tick + 1)
  | .running | .clamping | .saving =>
    let s := (s.freeArea l).modLaunch l.id fun l => { l with st := .halting, stopAction := 0, reason := reason, settled := false }
    s.haltTeam (.keeper (2 * v.home)) l.team
  | .halting | .draining =>
    if l.stopAction = 2 || l.stopAction = 4 || l.stopAction = 5 then
      (s.freeArea l).modLaunch l.id fun l => { l with stopAction := 0, reason := reason }
    else s
  | .dumping | .done => s

/-- A phase that has lost a block of its own starts nothing more: its launches end with DIE_RESET, and it with them. -/
def State.failPhase (s : State) (v : Vd) (x : Pkt) : State :=
  let mine := s.launches.filter fun l => l.vd = v.vd && l.pkt = some (x.qnum, x.idx) && l.st != LaunchSt.done
  let ids := mine.map (·.id)
  let s := s.modPkt (x.id v.vd) fun x => { x with waits := ids }
  if ids.isEmpty then s.endPkt (x.id v.vd) dieResetReason
  else mine.foldl (fun (s : State) l => match s.launch? l.id with
    | some l => s.failLaunch v l dieResetReason
    | none => s) s

/-- What a lost stack ends: phases that lost a block, and held teams whose area lay there; the area of a team still on its
way off its tiles is noted as gone (R331). -/
def State.endLost (s : State) (n : Nat) : State :=
  let s := (s.vds.filterMap Prod.snd).foldl (fun (s : State) v =>
    (v.jrnl.filter fun x => x.typ = tyPhase && x.st = PktSt.started && x.lost && x.waits.isEmpty).foldl
      (fun (s : State) x => s.failPhase v x) s) s
  s.launches.foldl (fun (s : State) l =>
    if !s.areaOn l n then s
    else if l.st = .saved then s.loseArea l
    else s.modLaunch l.id fun l => { l with areaGone := true }) s

/-! ## Recovery (R298) -/

/-- A team with a tile on the die has lost it: the launch completes normally when its units are all done, is relaunched
where it may be, and fails otherwise. A team already on its way out stays so. -/
def State.recoverTeam (s : State) (v : Vd) (l : Launch) : State :=
  let done := l.nunits ≤ l.doneUnits.length
  let act := if done || !l.restart then 0 else 2
  match l.st with
  | .running | .clamping | .saving =>
    let s := (s.freeArea l).modLaunch l.id fun l => { l with
      st := .halting, stopAction := act, reason := if done then 0 else dieResetReason, settled := false }
    s.haltTeam (.keeper (2 * v.home)) l.team
  | .halting => s.modLaunch l.id fun l => { l with settled := false }
  | .dumping => s.failDump v l dieResetReason
  | .draining => s.leaveTiles l
  | _ => s

/-- The report of a packet had been written before the reset: its entry is done (R298). -/
def State.wasReported (s : State) (v : Vd) (x : Pkt) : State × Bool :=
  match v.queue? x.qnum with
  | none => (s, false)
  | some q => match s.vdWord v (q.qcb + 0x20) with
    | (s, .ok n) => (s, x.idx < n)
    | (s, .error _) => (s, false)

/-- A packet the replay starts again: one that has started and needs no team and no engine. -/
def Pkt.startsAgain (x : Pkt) : Bool := x.st = .started && (x.typ = tyWaitsig || x.typ = tyCancel || x.typ = tyCkpt)

/-- Replay a launch (R298): complete where its units are all done, to be placed again where it may, else ended with
DIE_RESET. One already on its way out stays so (log 77). -/
def State.replayLaunch (s : State) (v : Vd) (l : Launch) : State :=
  let done := l.nunits ≤ l.doneUnits.length
  let again (s : State) : State := (s.freeArea l).modLaunch l.id fun l => { l with clampI := [], relaunched := true }
  match l.st with
  | .waiting => if l.restart then s else s.failLaunch v l dieResetReason
  | .saved => if done then (s.freeArea l).completeLaunch l 0 (s.tick + 1) else if l.restart then again s else s.failLaunch v l dieResetReason
  | .running | .clamping | .saving => if s.unitsOver l then s else s.recoverTeam v l
  | .halting | .draining =>
    if l.stopAction = 2 || l.stopAction = 4 || l.stopAction = 5 then
      if l.restart && !done then (again s).modLaunch l.id fun l => { l with stopAction := 2 } else s.failLaunch v l (if done then 0 else dieResetReason)
    else s
  | .dumping | .done => s

/-- The launches of a phase that are still NEW (R298): those that may be restarted wait on for what comes before them, the
others end with DIE_RESET. -/
def State.replayNew (s : State) (v : Vd) (x : Pkt) : State :=
  let c : Cause := { vd := v.vd, pkt := some (x.qnum, x.idx), at_ := s.tick + 1 }
  (v.blocks.filter fun k => k.kind = 2 && v.under x.top k).foldl (fun (s : State) k => k.kids.foldl (fun (s : State) b =>
    match s.vd? v.vd with
    | none => s
    | some w =>
      if (w.blocks.any fun j => j.dva = k.dva && j.ended.contains b) || s.inHand w b then s
      else match s.vdRead w b 0x40 with
        | (s, .ok bs) => if hdrState (field bs 0 8) = stNew && !bitOf 32 (field bs 0x30 8) then s.complete c b dieResetReason k.dva else s
        | (s, .error code) => s.complete c b (s.lostReason w b code) k.dva) s) s

/-- Replay an entry (R298): a LAUNCH by the launch it built, or at its end where it has none yet; the launches a PHASE has
dispatched; what starts again. A COPY goes on from its recorded count. -/
def State.replayEntry (s : State) (v : Vd) (x : Pkt) : State :=
  let mine := s.launches.filter fun l => l.vd = v.vd && l.pkt = some (x.qnum, x.idx)
  if x.st = .performed || x.st = .reported then s
  else if x.startsAgain then s.modPkt (x.id v.vd) fun x => { x with st := .accepted, queued := false, stage := 0, waits := [] }
  else if x.typ = tyLaunch && mine.isEmpty then s.endPkt (x.id v.vd) dieResetReason
  else
    let s := mine.foldl (fun (s : State) l => match s.launch? l.id with
      | some l => s.replayLaunch v l
      | none => s) s
    if x.typ = tyPhase && x.st = .started then s.replayNew v x else s

/-- Replay a VD's journal (R298), in index order of each queue. -/
def State.replay (s : State) (vd : Nat) : State :=
  match s.vd? vd with
  | none => s
  | some v =>
    let s := v.jrnl.foldl (fun (s : State) x =>
      match s.wasReported v x with
      | (s, true) => s.modVd vd fun v => { v with jrnl := v.jrnl.filter fun y => !(y.qnum = x.qnum && y.idx = x.idx) }
      | (s, false) => s.replayEntry v x) s
    s.kick vd

/-! ## DIE_RESET -/

/-- The engines of a die drop what they copy; their packets go on from the recorded count. -/
def State.dropBulks (s : State) (d : Nat) : State := { s with bulks := s.bulks.filter fun b => b.1 / 8 ≠ d }

/-- DIE_RESET (R378): tiles stop without save, teams are recovered, the stack is lost, migrations abort, the die's TLBs,
walks and keeper sequencers are gone, and VDs it kept pass to another die, which replays their journals. -/
def execDieReset (d : Nat) (s : State) : Out' :=
  if Config.dies ≤ d then .fault (.noSuchUnit "DIE_RESET" d)
  else if (s.die d).resetting ∨ (s.die d).held then .refused (.notEnabled "DIE_RESET")
  else
    let hit := s.launches.filter fun l => l.tiles.any fun t => dieOf t = d && (s.tile t).launch = l.id
    let s := { s with
      tiles := s.tiles.filter fun e => dieOf e.1 ≠ d
      keepers := s.keepers.filter fun e => e.1 / 2 ≠ d
      hostReqs := s.hostReqs.filter fun (r : HostReq) => r.die ≠ d
      kfaults := s.kfaults.filter fun k => Config.tiles ≤ k.tile || dieOf k.tile ≠ d }
    let s := s.modDie d fun x => { x with tlb := [], wcache := [], walks := [], resetting := true, gen := x.gen + 1 }
    let lost := stackOf? d
    let s := match lost with
      | some n => (s.vds.filterMap Prod.snd).foldl (fun (s : State) v => s.markLost n v) s
      | none => s
    let s := (s.loseStack d).dropBulks d
    let moved := (s.vds.filterMap Prod.snd).filter fun v => v.home = d
    let s := moved.foldl (fun (s : State) v => s.modVd v.vd fun v => { v with home := s.homeDie v.quires }) s
    let s := hit.foldl (fun (s : State) l => match s.vd? l.vd with
      | some v => s.recoverTeam v l
      | none => s) s
    let s := match lost with
      | some n => s.endLost n
      | none => s
    let s := moved.foldl (fun (s : State) v => s.replay v.vd) s
    let s := ((List.range 8).map (· + 8 * d)).foldl (fun (s : State) e => s.setBulk e {}) s
    let s := moved.foldl (fun (s : State) v => match s.vd? v.vd with
      | some v => match s.idleEngine v.home with
        | some e => s.nextBulk e
        | none => s
      | none => s) s
    .next (s.postFree (.dieResetComplete d))

/-- Event kind 10 (R378). -/
abbrev evDieReset : Nat := 10

/-- DIE_RESET_COMPLETE (R378): the die is back, its tiles free, and DIERESET is posted. -/
def execDieResetComplete (d : Nat) (s : State) : Out' :=
  if Config.dies ≤ d then .fault (.noSuchUnit "DIE_RESET_COMPLETE" d)
  else if !(s.die d).resetting then .refused (.notEnabled "DIE_RESET_COMPLETE")
  else .next (((s.modDie d fun x => { x with resetting := false }).postEvent .pf evDieReset 0 0 noTeam d 0).retryAll)

/-! ## Links (R297, R378) -/

/-- Two dies are neighbours on the 4 × 4 grid (R4). -/
def adjacent (d e : Nat) : Bool := dieEdges d e = 1

/-- The dies reached from those of `l` over links that have not failed; the fuel is the number of dies. -/
def State.reach (s : State) : Nat → List Nat → List Nat
  | 0, l => l
  | fuel + 1, l => s.reach fuel (l ++ (List.range Config.dies).filter fun e =>
      !l.contains e && l.any fun d => adjacent d e && !s.linksDown.contains (min d e, max d e))

/-- A packet that runs along its die row and then along the column crosses the edge of two dies (R257). -/
def crosses (a b d e : Nat) : Bool :=
  let between (x y z : Nat) : Bool := (x ≤ z && z ≤ y) || (y ≤ z && z ≤ x)
  if d / 4 = e / 4 then d / 4 = a / 4 && between (a % 4) (b % 4) (d % 4) && between (a % 4) (b % 4) (e % 4)
  else d % 4 = b % 4 && between (a / 4) (b / 4) (d / 4) && between (a / 4) (b / 4) (e / 4)

/-- The die a target lies at; none for a peer's. -/
def Target.die? : Target → Option Nat
  | .spad u _ => some (dieOf u)
  | .mem pa => (homeOf pa).map Home.die
  | .host _ => some 0
  | .peer _ _ | .reg _ => none

/-- A packet under way between dies: an access of a tile, a line of its copy queues, or a far increment. -/
inductive MeshPacket where
  | acc (t id : Nat)
  | line (t : Nat) (u : CmdUnit) (id : Nat)
  | far (at_ : Nat)            -- by its place in the agenda
  deriving DecidableEq, Repr

/-- A request of tile `t` to `g` runs over the edge. -/
def overEdge (t d e : Nat) (g : Target) : Bool := g.die?.any fun h => crosses (dieOf t) h d e

/-- The packets of one tile under way over an edge. -/
def Tile.packetsOver (x : Tile) (t d e : Nat) : List MeshPacket :=
  let line (u : CmdUnit) (q : CQueue) : List MeshPacket := (q.lines.filter fun l =>
    (l.stage = .reading && l.pieces.any fun p => p.srcT.any (overEdge t d e)) ||
    (l.stage = .writing && l.pieces.any fun p => p.dstT.any (overEdge t d e))).map fun l => .line t u l.id
  ((x.seq.accs.filter fun a => a.open_ && a.stage = .timed && a.parts.any fun p => p.tgt.any (overEdge t d e)).map fun a =>
    .acc t a.id) ++ line .c0 x.c0 ++ line .c1 x.c1

/-- All packets under way over an edge. -/
def State.packetsOver (s : State) (d e : Nat) : List MeshPacket :=
  (s.tiles.flatMap fun (t, x) => x.packetsOver t d e) ++ s.agenda.zipIdx.filterMap fun (a, n) => match a.2 with
    | .farIncrementArrival u _ _ t _ => if crosses (dieOf t) (dieOf u) d e then some (.far n) else none
    | _ => none

/-- A packet is discarded: its access does not perform (R417). -/
def State.losePacket (s : State) : MeshPacket → State
  | .acc t id => s.modAcc (.tile t) id fun a => { a with stage := .lost }
  | .line t u id => s.modCq t u fun q => { q with lines := q.lines.map fun l => if l.id = id then { l with stage := .lost } else l }
  | .far n => { s with agenda := s.agenda.eraseIdx n }

/-- The packet whose tag has failed a second time is discarded (R417): which of those under way, or one that carried none of
them, is free (log 125). -/
def State.discardOn (s : State) (d e : Nat) : State :=
  let l := s.packetsOver d e
  let s' : State := { s with fresh := s.fresh + 1 }
  match l[(Config.freeWord s.fresh).toNat % (l.length + 1)]? with
  | some p => s'.losePacket p
  | none => s'

/-- LINK_FAILURE (R297, R378, R417): the packet that has failed on it is discarded, and the link is routed around; dies no way
leads to any more reset. -/
def execLinkFailure (d e : Nat) (s : State) : Out' :=
  if Config.dies ≤ d ∨ Config.dies ≤ e ∨ !adjacent d e then .fault (.noSuchUnit "LINK_FAILURE" (16 * d + e))
  else if s.linksDown.contains (min d e, max d e) then .refused (.notEnabled "LINK_FAILURE")
  else
    let s := { s.discardOn d e with linksDown := s.linksDown ++ [(min d e, max d e)] }
    let there := s.reach Config.dies [0]
    .next (((List.range Config.dies).filter fun x => !there.contains x && !(s.die x).resetting && !(s.die x).held).foldl
      (fun (s : State) x => s.postIn 0 (.dieReset x)) s)

end Sys2Proof.Machine
end

