-- ==== Sys2Proof/Machine/Keys.lean ====
section
/-! DEFINITION. The keys the lantern derives (R410 to R412, R417, R428), and what they make of a line of memory: the
ciphertext and the tags a home stores with it (R61, R419, R420). What lies behind the homes only a bus agent could see, so no
step reads these forms: whether a stored line still carries its tag is what an error event says of it (log 86). -/
namespace Sys2Proof.Machine
open Sys2Proof

/-! ## Keys of the part -/

/-- FK (R412). -/
def State.fk (s : State) : BitVec 256 := kdf Config.huk "FW" (hashBytes Config.firmwareDigest ++ hashBytes s.sct.microcode)
/-- The seeds of the device identity key and of the alias key. -/
def deviceSeed : BitVec 256 := kdf Config.huk "DEVID" []
def State.aliasKey (s : State) : BitVec 256 := kdf s.fk "ALIAS" []

/-- WK_w of a world that holds one. -/
def State.worldKey (s : State) (w : Nat) : Option (BitVec 256) := (s.world? w).bind fun x => if x.active then some x.wk else none

/-- The generation of a pair of dies: it rises at every reset of either. -/
def State.edgeGen (s : State) (a b : Nat) : Nat := (s.die a).gen + (s.die b).gen

/-- The die key of a world for adjacent dies `a` < `b` (R412, R417); world 0 takes its from FK. -/
def State.dieKey (s : State) (w a b : Nat) : Option (BitVec 256) :=
  (if w = 0 then some s.fk else s.worldKey w).map fun k => kdf k "UCIE" (bigBytes 1 a ++ bigBytes 1 b ++ bigBytes 4 (s.edgeGen a b))

/-- The link key with a moored peer for a world (R412, R428). -/
def State.linkKey (s : State) (peer w : Nat) : Option (BitVec 256) :=
  let m := s.sct.moorings.get {} peer
  let lo := min s.fabric.mypkg peer
  let hi := max s.fabric.mypkg peer
  if !m.up then none
  else if w = 0 then some (kdf m.linkMs "LINK0" (hashBytes m.linkT))
  else (s.worldKey w).map fun k => kdf k "LINK" (bigBytes 2 lo ++ bigBytes 2 hi ++ hashBytes m.linkT)

/-- The IV of a packet over a die edge (R417): direction bit, number of the edge, packet counter of the direction and world. -/
def edgeIv (dir edge n : Nat) : List Byte := bigBytes 12 (dir % 2 * 2 ^ 95 + edge % 2 ^ 31 * 2 ^ 64 + n % 2 ^ 64)

/-- A packet sealed for a die edge: ciphertext and the 8-byte tag (R417; log 125). -/
def edgeSeal (key : BitVec 256) (dir edge n : Nat) (packet : List Byte) : List Byte × List Byte :=
  let (ct, tag) := gcmSeal (hashBytes key) (edgeIv dir edge n) [] packet
  (ct, tag.take 8)

/-- A sealed packet opened at the other side of the edge: none where its tag fails (R417). -/
def edgeOpen (key : BitVec 256) (dir edge n : Nat) (ct tag : List Byte) : Option (List Byte) :=
  if tag.length = 8 then gcmOpen (hashBytes key) (edgeIv dir edge n) [] ct tag else none

/-! ## Keys of a key ID -/

/-- A key of a key ID under a label: derived at its epoch where it is bound (R412), drawn for 0 and 255 (R410). -/
def State.idKey (s : State) (label : String) (drawn0 drawn255 : BitVec 256) (i : Nat) : Option (BitVec 256) :=
  if i = 0 then some drawn0
  else if i = 255 then some drawn255
  else match s.sct.keys.get .free i with
    | .bound w e => (s.worldKey w).map fun k => kdf k label (bigBytes 1 i ++ bigBytes 1 e)
    | _ => none

def State.dataKey (s : State) (i : Nat) : Option (BitVec 256) := s.idKey "DATA" s.sct.key0 s.sct.key255 i
def State.integrityKey (s : State) (i : Nat) : Option (BitVec 256) := s.idKey "INTG" s.sct.intg0 s.sct.intg255 i

/-! ## A stored line -/

/-- PA[61:6] ‖ the write counter, 96 bits: the IV of a line's tag and the head of its counter blocks. -/
def lineIv (pa wctr : Nat) : List Byte := bigBytes 12 (pa / 64 % 2 ^ 56 * 2 ^ 40 + wctr % 2 ^ 40)

/-- A line's ciphertext under a data key, or its plaintext again (R419). -/
def lineCrypt (key : BitVec 256) (pa wctr : Nat) (bs : List Byte) : List Byte :=
  xorBytes bs (ctrStream (aesKeys (hashBytes key)) (lineIv pa wctr) 2 64)

/-- mac(line) (R61): the leftmost 56 bits of the GMAC of the ciphertext under the integrity key. -/
def lineMac (key : BitVec 256) (pa wctr : Nat) (ct : List Byte) : Nat := bigNat ((gmac (hashBytes key) (lineIv pa wctr) ct).take 7)

/-- What the home stores for the line of `pa`: ciphertext and tag, under the keys of its frame's tag (R419); none where no key
is held. -/
def State.storedLine (s : State) (pa : Nat) : Option (List Byte × Nat) :=
  let a := pa / 64 * 64
  match s.mem.tags.get none (frameOf pa) with
  | none => none
  | some tag =>
    let i := s.lineKey tag pa
    match s.dataKey i, s.integrityKey i with
    | some k, some g =>
      let ct := lineCrypt k a (s.wctr a) (readBytes s.mem.cells a 64)
      some (ct, lineMac g a (s.wctr a) ct)
    | _, _ => none

/-- A level-0 counter line (R420): MAJOR, the 32 minors and their tag, under key ID 0's integrity key with the counter of its
parent. -/
def CtrGroup.line (g : CtrGroup) (key : BitVec 256) (pa parent : Nat) : List Byte :=
  let body := g.major + ((List.range 32).map fun n => g.minors.get 0 n * 2 ^ (33 + 7 * n)).sum
  bytesOf 64 (body + 2 ^ 257 * lineMac key pa parent (bytesOf 64 body))

end Sys2Proof.Machine
end

