-- ==== Sys2Proof/Machine/ReedSolomon.lean ====
section
/-! DEFINITION. The Reed–Solomon code of the guard leaves (R389): every leaf byte position is a code word over GF(2^8) of its
own. Of the code the manual leaves open the field's polynomial, the generator and the first root (log 119); the rest follows:
symbol `i` of a word is `g^(b i)` times the value at `g^i` of a polynomial of degree below `d`, so any `d` symbols give that
polynomial, and with it every other symbol. -/
namespace Sys2Proof.Machine
open Sys2Proof

/-! ## Polynomials over GF(2), as bits -/

/-- The remainder of `a` by `q`; the fuel is the number of bits. -/
def polyMod (q : Nat) : Nat → Nat → Nat
  | 0, a => a
  | fuel + 1, a => if a < 2 ^ q.log2 then a else polyMod q fuel (a ^^^ q * 2 ^ (a.log2 - q.log2))

/-- A polynomial of degree 8 has no factor of degree 1 to 4, and so none at all. -/
def noFactor (p : Nat) : Bool := ((List.range 32).drop 2).all fun q => polyMod q 8 p ≠ 0

/-- The polynomial of the field. -/
def fieldPoly : Nat :=
  let l := ((List.range 256).map (256 + ·)).filter noFactor
  l.getD (Config.codePolynomial % l.length) 0x11B

/-! ## GF(2^8) -/

/-- The product of two field elements. -/
def fieldMul (p a b : Nat) : Nat :=
  (List.range 8).foldl (fun r i =>
    let r := if 2 * r < 256 then 2 * r else 2 * r ^^^ p
    if b / 2 ^ (7 - i) % 2 = 1 then r ^^^ a else r) 0

def fieldPow (p a : Nat) : Nat → Nat
  | 0 => 1
  | n + 1 => fieldMul p a (fieldPow p a n)

/-- The inverse of an element that is not zero: its power 254. -/
def fieldInv (p a : Nat) : Nat := fieldPow p a 254

/-- An element whose powers are all 255 elements but zero. -/
def fieldPrimitive (p a : Nat) : Bool := 2 ≤ a && fieldPow p a 51 ≠ 1 && fieldPow p a 85 ≠ 1 && fieldPow p a 15 ≠ 1

/-- The generator whose powers are the places of the symbols. -/
def codeGen (p : Nat) : Nat :=
  let l := (List.range 256).filter (fieldPrimitive p)
  l.getD (Config.codeGenerator % l.length) 2

/-! ## Symbols from others -/

/-- The factor of symbol `j` in symbol `i`, where the symbols of `js` are known (R389). -/
def codeFactor (p g : Nat) (js : List Nat) (i j : Nat) : Nat :=
  let x (n : Nat) : Nat := fieldPow p g (n % 255)
  let v (n : Nat) : Nat := fieldPow p g (Config.codeFirst * n % 255)
  (js.filter (· ≠ j)).foldl (fun r k => fieldMul p r (fieldMul p (x i ^^^ x k) (fieldInv p (x j ^^^ x k)))) (fieldMul p (v i) (fieldInv p (v j)))

/-- Leaf `i` of a message, from as many leaves of it as it has data leaves (R389). -/
def codeLeaf (held : List (Nat × List Byte)) (i : Nat) : List Byte :=
  let p := fieldPoly
  let g := codeGen p
  let fs := held.map fun e => (codeFactor p g (held.map Prod.fst) i e.1, e.2)
  (List.range 256).map fun n => BitVec.ofNat 8 (fs.foldl (fun r e => r ^^^ fieldMul p e.1 (e.2.getD n 0#8).toNat) 0)

end Sys2Proof.Machine
end

