-- ==== Sys2Proof/Machine/Fabric.lean ====
section
/-! DEFINITION. The message layer of the scale-up fabric (R377, R383 to R403): routes, sealing and sending, windows and
sewing frames, loss and resending, and the accesses of peers. -/
namespace Sys2Proof.Machine
open Sys2Proof

/-! ## Routes and ports (R383, R385, R386) -/

/-! The counters of R403. -/

abbrev cTxMsg : Nat := 0x900
abbrev cTxLeaf : Nat := 0x908
abbrev cRetxReq : Nat := 0x910
abbrev cRetxTmo : Nat := 0x918
abbrev cTxLoss : Nat := 0x920
abbrev cRxMsg : Nat := 0x930
abbrev cRxLeaf : Nat := 0x938
abbrev cRxPois : Nat := 0x940
abbrev cRxLate : Nat := 0x948
abbrev cRxRecon : Nat := 0x950
abbrev cRxTmo : Nat := 0x958
abbrev cRxLoss : Nat := 0x960
abbrev cRxNoFr : Nat := 0x968
abbrev cRxAuth : Nat := 0x970
abbrev cRxBad : Nat := 0x978

/-- The class of a destination, and its k and m. -/
def Fabric.classOf (f : Fabric) (dst : Nat) : Nat := (f.routes.get {} dst).dcfg.toNat % 8
def Fabric.code (f : Fabric) (dst : Nat) : Nat × Nat := f.fcode.get (8, 2) (f.classOf dst)

/-- A 64-byte entry of the route image; none where R385 refuses it. -/
def routeOf (b : List Byte) : Option Route :=
  let paths := (pieces_ 4 8 b).map fun p => BitVec.ofNat 32 (natOf p)
  let dcfg := field b 0x20 8
  if paths.all (fun w => bitsOf 30 23 w.toNat = 0 && bitsOf 22 20 w.toNat < 4) && dcfg < 16 && allZero (slice b 0x28 24) then
    some { paths := paths, dcfg := BitVec.ofNat 64 dcfg }
  else none

/-- FRTLOAD (R386): the entries are replaced by those of the image at FRTSRC; one that is refused or cannot be read keeps
its value. -/
def execFrtload (first count : Nat) (s : State) : Out' :=
  .next (((List.range count).map (· + first)).foldl (fun (s : State) n =>
    if 1024 ≤ n then s
    else match s.paRead 0 (s.fabric.frtsrc + 64 * n) 64 with
      | (s, .ok b) => match routeOf b with
        | some r => s.modFab fun f => { f with routes := f.routes.set {} n r }
        | none => s
      | (s, .error _) => s) s)

/-- PORT_TRAINING_CHANGE (R383). -/
def execPortTrainingChange (port : Nat) (up : Bool) (s : State) : Out' :=
  if 16 ≤ port then .fault (.noSuchUnit "PORT_TRAINING_CHANGE" port)
  else .next (s.modFab fun f => { f with
    ports := if bitOf port f.ports = up then f.ports else if up then f.ports + 2 ^ port else f.ports - 2 ^ port })

/-! ## Sending (R387 to R391) -/

def State.modTx (s : State) (id : Nat) (f : TxMsg → TxMsg) : State :=
  s.modFab fun g => { g with tx := g.tx.map fun t => if t.id = id then f t else t }
def State.tx? (s : State) (id : Nat) : Option TxMsg := s.fabric.tx.find? (·.id = id)
def State.dropTx (s : State) (id : Nat) : State := s.modFab fun g => { g with tx := g.tx.filter fun t => t.id ≠ id }

/-- Sent as a response (R391). -/
def TxMsg.lane' (t : TxMsg) : Nat × Nat × Bool := (t.dst, t.lane, t.rsp)

def Fabric.txLane (f : Fabric) (k : Nat × Nat × Bool) : TxLane := ((f.txLanes.find? (·.1 = k)).map (·.2)).getD {}
def Fabric.setTxLane (f : Fabric) (k : Nat × Nat × Bool) (l : TxLane) : Fabric :=
  { f with txLanes := f.txLanes.filter (fun e => e.1 ≠ k) ++ [(k, l)] }

/-! ### Host requests that wait for a peer (R432) -/

/-- A request that is refused: counted, and answered unless it is a posted write. -/
def State.refuseAperture (s : State) (r : ApReq) (write : Bool) : State :=
  let s := s.modVf r.vf fun f => { f with apdrop := min (f.apdrop + 1) (2 ^ 64 - 1) }
  if write then s else s.emit (.apRefused r.vf r.tag)

/-- A posted write of a function waits for its ACK. -/
def State.hostBusy (s : State) (vf : Nat) : Bool := s.fabric.tx.any fun t => match t.waiter with
  | some (.host r 1) => r.vf = vf
  | _ => false

/-- The step of a request whose translation is done: a read, a posted write or an atomic. -/
def apertureStep (r : ApReq) : Nat → Instr
  | 0 => .apertureRead r
  | 1 => .apertureWrite r
  | _ => .apertureAtomic r

/-- The oldest request behind a posted write goes on, once no posted write waits (R432). -/
def State.nextHost (s : State) (vf : Nat) : State :=
  match (s.vf vf).apWait with
  | e :: _ => if s.hostBusy vf then s else s.postIn 0 (apertureStep e.1 e.2)
  | [] => s

/-- A peer has answered a host's request: its completion leaves, with EP for data that is poisoned or fails its MAC, or it is
refused (R400, R432). -/
def State.answerHost (s : State) (r : ApReq) (op : Nat) (a : Except Nat (List Byte × Nat)) : State :=
  let reply (s : State) (bs : List Byte) (bad : Bool) : State := s.emit (.apReply r.vf r.tag bs bad)
  let s := match a with
    | .ok (bs, map) => if op = 1 then s else reply s bs (map ≠ 0)
    | .error c =>
      if op ≠ 1 ∧ (c = poisonF ∨ c = integrity) then
        let (s, bs) := s.peerBytes r.len
        reply s bs true
      else s.refuseAperture r (op = 1)
  s.nextHost r.vf

/-- The answer a message's issuer takes: bytes with their poisoned lines, or a fault (R396, R400). -/
def State.answer (s : State) (w : Waiter) (r : Except Nat (List Byte × Nat)) : State :=
  match w with
  | .acc q id i =>
    let load := match s.acc? q id with
      | some a => match a.kind with
        | .load _ => true
        | _ => false
      | none => false
    s.answerAcc q id i (match r with
      | .error c => .error c
      | .ok (bs, map) => if load && map ≠ 0 then .error poisonF else .ok bs)
  | .lines t u ids => s.answerLines t u ids r
  | .index t u cmd a _ => s.answerIndex t u cmd a (match r with
      | .error c => .error c
      | .ok (bs, map) => if map ≠ 0 then .error poisonF else .ok (some (natOf bs)))
  | .wc t id => s.answerWc t id (r.map fun _ => ())
  | .bulk e => s.answerBulk e r
  | .pkt p => s.answerPkt p r
  | .host r' op => s.answerHost r' op r
  | .prefetch _ _ _ _ | .aperture _ => s

/-- A poison-notify has ended: the responses that wait for it go on (R377). -/
def State.noteEnded (s : State) (id : Nat) : State :=
  let s := s.modFab fun g => { g with tx := g.tx.map fun (x : TxMsg) => { x with noteIds := x.noteIds.filter (· ≠ id) } }
  (s.fabric.tx.filter fun (x : TxMsg) => x.seq.isNone && x.rsp).foldl (fun (s : State) x => s.postIn 0 (.messageSeal x.id)) s

/-- A message fails (R385, R396): it is forgotten and its issuer takes FABRIC_LOSS; a poison-notify's wait ends (R377). -/
def State.failTx (s : State) (t : TxMsg) : State :=
  let s := s.dropTx t.id
  let s := s.noteEnded t.id
  match t.waiter with
  | some w => s.answer w (.error fabricLoss)
  | none => s

/-- Bytes a message carries (R389). -/
def carried (m : Message) : Nat :=
  match m.op with
  | .readReq | .poisonNote => 0
  | _ => m.data.length

/-- Data leaves of a message. -/
def dataLeaves (m : Message) : Nat := max 1 ((carried m + 255) / 256)

/-! ### Sealing (R388, R390) -/

def opCode : MsgOp → Nat
  | .write => 1
  | .readReq => 2
  | .readRsp => 3
  | .atomic => 4
  | .atomRsp => 5
  | .poisonNote => 6

/-- The descriptor of a message (R390). -/
def descBytes (m : Message) : List Byte :=
  bytesOf 1 (opCode m.op) ++ bytesOf 1 m.fn ++ bytesOf 1 m.keyId ++ bytesOf 1 m.world ++ bytesOf 4 m.len ++ bytesOf 8 m.pa ++
  bytesOf 8 m.status ++ bytesOf 8 m.origin

/-- The 96-bit IV of a message (R388). -/
def sealIv (epoch seq lane src dst : Nat) (rsp : Bool) : List Byte :=
  bigBytes 12 ((((((epoch % 2 ^ 32 * 2 ^ 16 + seq % 2 ^ 16) * 2 ^ 4 + lane % 2 ^ 4) * 2 ^ 10 + src % 2 ^ 10) * 2 ^ 10 + dst % 2 ^ 10) * 2 +
    (if rsp then 1 else 0)) * 2 ^ 23)

/-- Ciphertext and tag of a message sent to `dst` under a link key. -/
def State.sealed (s : State) (key : BitVec 256) (t : TxMsg) (l : TxLane) : List Byte × List Byte :=
  let data := if carried t.msg = 0 then [] else t.msg.data
  gcmSeal (hashBytes key) (sealIv l.epoch l.seq t.lane s.fabric.mypkg t.dst t.rsp) [] (descBytes t.msg ++ data)

/-- The body of a leaf (R389): a piece of the sealed data, the last filled up with zeros, or a guard leaf. -/
def TxMsg.leafData (t : TxMsg) (idx : Nat) : List Byte :=
  let all := t.ct.drop 32 ++ List.replicate (256 * t.d - (t.ct.length - 32)) 0#8
  let data := (List.range t.d).map fun i => (i, slice all (256 * i) 256)
  if idx < t.d then slice all (256 * idx) 256 else codeLeaf data idx

/-- The way of leaf number `n` to a destination; responses and control leaves use the upper virtual channels (R385). -/
def wayOf (ways : List Way) (n : Nat) (upper : Bool) : Way :=
  let w := ways.getD (n % ways.length) {}
  { w with vc := if upper then w.vc + 4 else w.vc }

/-- Send one leaf: the next leaf number to the destination picks its path. -/
def State.sendLeaf (s : State) (t : TxMsg) (idx : Nat) : State :=
  let f := s.fabric
  let n := f.leafNo.get 0 t.dst
  match f.spray t.dst with
  | [] => s
  | ways =>
    let l : Leaf :=
      { src := f.mypkg, from_ := f.mypkg, lane := t.lane, resync := t.resync, seq := t.seq.getD 0, idx := idx, d := t.d, m := t.m
        cls := t.cls, rsp := t.rsp, epoch := t.epoch, body := { desc := t.ct.take 32, tag := t.tag, data := t.leafData idx } }
    ((s.modFab fun f => { f with leafNo := f.leafNo.set 0 t.dst (n + 1) }).emit (.leaf t.dst (wayOf ways n t.rsp) l)).count cTxLeaf

/-- Send leaves by their indices. -/
def State.sendLeaves (s : State) (t : TxMsg) (l : List Nat) : State := l.foldl (fun (s : State) i => s.sendLeaf t i) s

/-- Send a control leaf on two entries of the spray list (R397). -/
def State.sendControl (s : State) (dst kind : Nat) (c : ControlLeaf) : State :=
  let f := s.fabric
  let n := f.leafNo.get 0 dst
  match f.spray dst with
  | [] => s
  | ways =>
    let c := { c with src := f.mypkg, no := n }
    ((s.modFab fun f => { f with leafNo := f.leafNo.set 0 dst (n + 2) }).emit (.control dst (wayOf ways n true) kind c)).emit
      (.control dst (wayOf ways (n + 1) true) kind c)

/-- Unacknowledged messages of a lane (R391): they hold its credits. -/
def Fabric.openOn (f : Fabric) (k : Nat × Nat × Bool) : Nat := (f.tx.filter fun t => t.lane' = k && t.seq.isSome && !t.acked).length

/-- Post the sealing of the oldest message of a lane that is not sealed. -/
def State.sealNext (s : State) (k : Nat × Nat × Bool) : State :=
  match s.fabric.tx.find? fun t => t.lane' = k && t.seq.isNone with
  | some t => s.postIn 0 (.messageSeal t.id)
  | none => s

/-- Seal a message under a link key and send its leaves (R388 to R390). -/
def State.sealTx (s : State) (key : BitVec 256) (t : TxMsg) : State :=
  let k := t.lane'
  let l := s.fabric.txLane k
  let (_, m) := s.fabric.code t.dst
  let (ct, tag) := s.sealed key t l
  let t : TxMsg := { t with
    ct := ct, tag := tag, seq := some l.seq, epoch := l.epoch, resync := l.resync, d := dataLeaves t.msg, m := m, cls := s.fabric.classOf t.dst
    sealedAt := s.tick }
  let next : TxLane := { seq := (l.seq + 1) % 2 ^ 16, epoch := if l.seq + 1 = 2 ^ 16 then l.epoch + 1 else l.epoch }
  let s := (s.modTx t.id fun _ => t).modFab fun f => f.setTxLane k next
  (((s.count cTxMsg).sendLeaves t (List.range (t.d + t.m))).postTick (s.tick + s.fabric.tack) (.tackExpiry t.id)).sealNext k

/-- A second mooring with a peer waits for the messages to it that are unacknowledged (R428). -/
def State.mooringEnds (s : State) (p : Nat) : Bool := [4, 5].contains (s.sct.moorings.get {} p).phase

/-- MESSAGE_SEAL (R385, R387, R391, R427): a message to a peer no route or no mooring leads to fails at once; otherwise it
is sealed in lane order, within the lane's credits, and a response once its poison-notifies have ended; none while a second
mooring ends (log 65). -/
def execMessageSeal (id : Nat) (s : State) : Out' :=
  match s.fabric.tx.find? fun t => t.id = id && t.seq.isNone with
  | none => .refused (.notEnabled "MESSAGE_SEAL")
  | some t =>
    let first := (s.fabric.tx.find? fun x => x.lane' = t.lane' && x.seq.isNone).any (·.id = id)
    match if s.reachable t.dst then s.linkKey t.dst t.msg.world else none with
    | none => .next (((s.count cTxNoRoute).failTx t).sealNext t.lane')
    | some key =>
      if s.mooringEnds t.dst ∨ !first ∨ 64 ≤ s.fabric.openOn t.lane' ∨ !t.notes.isEmpty ∨ !t.noteIds.isEmpty then .refused (.notEnabled "MESSAGE_SEAL")
      else .next (s.sealTx key t)

/-! ## Loss at the sender (R396, R398) -/

/-- Messages of a lane from number `seq` on fail; the next one carries RESYNC. -/
def State.failLane (s : State) (k : Nat × Nat × Bool) (seq : Nat) : State :=
  let gone := s.fabric.tx.filter fun t => t.lane' = k && !t.acked && t.seq.any fun n => (n + 2 ^ 16 - seq) % 2 ^ 16 < 2 ^ 15
  if gone.isEmpty then s
  else
    let s := s.modFab fun f => f.setTxLane k { f.txLane k with resync := true }
    ((gone.foldl (fun (s : State) t => s.failTx t) s).count cTxLoss).sealNext k

/-- TACK_EXPIRY (R398): all leaves are sent again; at the third expiry the message is given up with those after it. -/
def execTackExpiry (id : Nat) (s : State) : Out' :=
  match s.fabric.tx.find? fun t => t.id = id && t.seq.isSome && !t.acked && t.sealedAt + s.fabric.tack ≤ s.tick with
  | none => .refused (.notEnabled "TACK_EXPIRY")
  | some t =>
    let s := s.count cRetxTmo
    if 2 ≤ t.expiries then
      let seq := t.seq.getD 0
      .next ((s.sendControl t.dst 3 { src := 0, lane := t.lane, seq := seq, rsp := t.rsp }).failLane t.lane' seq)
    else
      let s := s.modTx id fun t => { t with expiries := t.expiries + 1, sealedAt := s.tick }
      .next ((s.sendLeaves t (List.range (t.d + t.m))).postTick (s.tick + s.fabric.tack) (.tackExpiry id))

/-! ## Control leaves at the sender (R394 to R397) -/

/-- The message a control leaf names. -/
def State.named (s : State) (c : ControlLeaf) : Option TxMsg :=
  s.fabric.tx.find? fun t => t.lane' = (c.src, c.lane, c.rsp) && t.seq = some c.seq

/-- A control leaf a switch has marked is dropped without record (R384); one that fails its MAC, or comes from a package
without a mooring, is counted; the second copy of one acted on changes nothing more (R397). -/
def State.controlForm (s : State) (c : ControlLeaf) (f : State → Out') : Out' :=
  if c.poisoned then .next s
  else if !c.macOk ∨ !(s.sct.moorings.get {} c.src).up then .next (s.count cRxBad)
  else if s.fabric.ctlSeen.contains (c.src, c.no) then
    .next (s.modFab fun g => { g with ctlSeen := g.ctlSeen.erase (c.src, c.no) })
  else f (s.modFab fun g => { g with ctlSeen := g.ctlSeen ++ [(c.src, c.no)] })

/-- A message is acknowledged: its credit is back, and it is forgotten unless a response is still to come. -/
def State.ackTx (s : State) (t : TxMsg) (status : Nat) : State :=
  let s := s.noteEnded t.id
  let stays := (t.msg.op = .atomic || t.msg.op = .readReq) && !t.answered
  let s := if stays then s.modTx t.id fun t => { t with acked := true } else s.dropTx t.id
  let s := match t.msg.op, t.waiter with
    | .write, some w => s.answer w (if status % 256 = 0 then .ok ([], 0) else .error (status % 256))
    | _, _ => s
  s.sealNext t.lane'

/-- ACK (R394, R400). -/
def execAck (c : ControlLeaf) (s : State) : Out' :=
  s.controlForm c (fun s => match s.named c with
    | none => .next s
    | some t => if t.acked then .next s else .next (s.ackTx t c.status))

/-- RETX (R395): answered by leaves the receiver does not hold, guard leaves first. -/
def execRetx (c : ControlLeaf) (s : State) : Out' :=
  s.controlForm c (fun s => match s.named c with
    | none => .next (s.count cRetxReq)
    | some t =>
      let guards := ((List.range t.m).map (· + t.d)).filter fun i => !bitOf i c.bitmap
      let datas := (List.range t.d).filter fun i => !bitOf i c.bitmap
      .next ((s.count cRetxReq).sendLeaves t ((guards ++ datas).take c.n)))

/-- LOSS (R396): one that names a message no longer kept changes nothing (log 120). -/
def execLoss (c : ControlLeaf) (s : State) : Out' :=
  s.controlForm c fun s => .next (if (s.named c).isSome then s.failLane (c.src, c.lane, c.rsp) c.seq else s)

/-! ## The window (R392) -/

def Fabric.rxLane (f : Fabric) (k : Nat × Nat × Bool) : RxLane := ((f.rx.find? (·.1 = k)).map (·.2)).getD {}
def Fabric.setRxLane (f : Fabric) (k : Nat × Nat × Bool) (l : RxLane) : Fabric :=
  { f with rx := f.rx.filter (fun e => e.1 ≠ k) ++ [(k, l)] }
def State.modRx (s : State) (k : Nat × Nat × Bool) (g : RxLane → RxLane) : State :=
  s.modFab fun f => f.setRxLane k (g (f.rxLane k))

/-- How far a number lies above another, modulo 2^16. -/
abbrev above (n base : Nat) : Nat := (n + 2 ^ 16 - base) % 2 ^ 16

/-- Where a number stands in the window. -/
inductive WinPlace where
  | late
  | beyond
  | held (st : WinSt)
  deriving DecidableEq, Repr

def RxLane.place (l : RxLane) (seq : Nat) : WinPlace :=
  if above seq l.base < 64 then match l.win.get .empty seq with
    | .closed _ => .late
    | .active n => .held (.active n)
    | .empty => if l.shut.any fun n => above seq n < 2 ^ 15 then .late else .held .empty
  else if above seq l.base < 2 ^ 15 then .beyond
  else .late

/-- BASE moves past closed numbers that have been delivered or abandoned; the outcomes of the last 64 stay. -/
def RxLane.slide : Nat → RxLane → RxLane
  | 0, l => l
  | fuel + 1, l => match l.win.get .empty l.base with
    | .closed ab =>
      if ab || l.base ≠ l.del then
        RxLane.slide fuel { l with
          base := (l.base + 1) % 2 ^ 16
          del := if l.base = l.del then (l.del + 1) % 2 ^ 16 else l.del
          win := l.win.set .empty l.base .empty
          outcomes := (l.outcomes ++ [(l.base, ab)]).drop (l.outcomes.length - 63) }
      else l
    | _ => l

def State.slideRx (s : State) (k : Nat × Nat × Bool) : State := s.modRx k (RxLane.slide 128)

/-- Repeat the ACK of a delivered number (R398). -/
def State.repeatAck (s : State) (k : Nat × Nat × Bool) (seq : Nat) : State :=
  match (s.fabric.rxLane k).acks.find? seq with
  | some st => s.sendControl k.1 0 { src := 0, lane := k.2.1, seq := seq, rsp := k.2.2, status := st }
  | none => s

/-- Repeat the ACK or the LOSS of a number, at most once in T_frag. -/
def State.repeatOutcome (s : State) (k : Nat × Nat × Bool) (seq : Nat) : State :=
  let l := s.fabric.rxLane k
  let lost := match l.win.get .empty seq with
    | .closed ab => some ab
    | _ => if l.shut.any fun n => above seq n < 2 ^ 15 then some true else (l.outcomes.find? (·.1 = seq)).map (·.2)
  let soon : Bool := (l.repeated.find? seq).any fun t => s.tick < t + s.fabric.tfrag
  if soon then s
  else
    let note (s : State) : State := s.modRx k fun l => { l with repeated := l.repeated.insert seq s.tick }
    match lost with
    | some true => (note s).sendControl k.1 2 { src := 0, lane := k.2.1, seq := seq, rsp := k.2.2 }
    | some false => (note s).repeatAck k seq
    | none => s

/-! ## Sewing frames (R393 to R396) -/

def Frame.lane' (f : Frame) : Nat × Nat × Bool := (f.src, f.lane, f.rsp)
def State.frame? (s : State) (n : Nat) : Option Frame := s.fabric.frames.get none n
def State.setFrame (s : State) (n : Nat) (f : Option Frame) : State := s.modFab fun g => { g with frames := g.frames.set none n f }

/-- A free frame of the engine a number belongs to: D12 even, D15 odd. -/
def Fabric.freeFrame (f : Fabric) (seq : Nat) : Option Nat :=
  ((List.range 2048).map (· + seq % 2 * 2048)).find? fun n => (f.frames.get none n).isNone

/-- A frame is free: its number is closed. -/
def State.closeFrame (s : State) (n : Nat) (f : Frame) (abandoned : Bool) : State :=
  ((s.setFrame n none).modRx f.lane' fun l => { l with win := l.win.set .empty f.seq (.closed abandoned) }).slideRx f.lane'

/-- The requests whose responses are still to be delivered, each with its response's number: responses come in the order the
requests were delivered in, and numbers lost have had theirs (R391, log 123). -/
def State.awaited (s : State) (k : Nat × Nat × Bool) : List (TxMsg × Nat) :=
  let l := s.fabric.rxLane k
  let nums := ((List.range 256).map fun i => (l.del + i) % 2 ^ 16).filter fun n => l.win.get .empty n ≠ .closed true
  (s.fabric.tx.filter fun t => t.lane' = (k.1, k.2.1, false) && t.seq.isSome && !t.answered &&
    (t.msg.op = .readReq || t.msg.op = .atomic)).zip nums

/-- The requests that fail with the responses `p` selects by their numbers (R396). -/
def State.lostRequests (s : State) (k : Nat × Nat × Bool) (p : Nat → Bool) : List TxMsg :=
  if k.2.2 then ((s.awaited k).filter fun e => p e.2).map Prod.fst else []

/-- Loss of a number (R396): it and every later number of the lane not yet delivered are abandoned, those still to come too,
until a RESYNC. -/
def State.loseAt (s : State) (k : Nat × Nat × Bool) (seq : Nat) (tell : Bool) : State :=
  let l := s.fabric.rxLane k
  let hit (n : Nat) : Bool := above n seq < 64
  let gone := (s.fabric.frames.filter fun e => match e.2 with
    | some f => f.lane' = k && hit f.seq
    | none => false).map Prod.fst
  let nums := seq :: ((l.win.filter fun e => hit e.1 && match e.2 with
    | .active _ => true
    | _ => false).map Prod.fst ++ (l.ready.map (·.1)).filter hit)
  let last := (nums.map fun n => above n seq).foldl max 0
  let reqs := s.lostRequests k fun n => above n seq ≤ last
  let s := gone.foldl (fun (s : State) n => s.setFrame n none) s
  let s := s.modRx k fun l => { l with
    ready := l.ready.filter fun r => !hit r.1
    win := nums.foldl (fun m n => m.set .empty n (.closed true)) l.win
    shut := some seq }
  let s := (s.slideRx k).count cRxLoss
  let s := if tell then s.sendControl k.1 2 { src := 0, lane := k.2.1, seq := seq, rsp := k.2.2 } else s
  (reqs.foldl (fun (s : State) t => s.failTx t) s).sealNext (k.1, k.2.1, false)

/-- Ask for `n` leaves (R395), and wait T_frag again. -/
def State.askRetx (s : State) (n : Nat) (f : Frame) (k : Nat) : State :=
  let f := { f with r := f.r + 1, timer := s.tick + s.fabric.tfrag }
  let map := f.good.foldl (fun m g => m ||| 2 ^ g.1) 0
  ((s.setFrame n (some f)).sendControl f.src 1
    { src := 0, lane := f.lane, seq := f.seq, rsp := f.rsp, bitmap := map, n := k }).postTick f.timer (.tfragExpiry n)

/-! ### Opening (R388, R394) -/

def opOf : Nat → Option MsgOp
  | 1 => some .write
  | 2 => some .readReq
  | 3 => some .readRsp
  | 4 => some .atomic
  | 5 => some .atomRsp
  | 6 => some .poisonNote
  | _ => none

/-- Bytes a message of a descriptor carries (R389, R390). -/
def carriesOf (m : Message) : Nat :=
  let w := if bitOf 4 m.fn then 8 else 4
  match m.op with
  | .write | .readRsp => m.len
  | .atomic => if m.fn % 16 = 9 then 2 * w else w
  | .atomRsp => m.len
  | .readReq | .poisonNote => 0

/-- A descriptor read (R390). -/
def descOf (b : List Byte) : Option Message :=
  (opOf (field b 0 1)).map fun op =>
    { op := op, fn := field b 1 1, keyId := field b 2 1, world := field b 3 1, len := field b 4 4, pa := field b 8 8
      status := field b 16 8, origin := field b 24 8 }

/-- The data leaves of a frame together: as they came, or rebuilt from as many good leaves as there are data leaves (R389). -/
def Frame.rebuilt (f : Frame) : List Byte :=
  let held := (f.good.map fun g => (g.1, g.2.data)).take f.d
  (List.range f.d).flatMap fun i => ((held.find? (·.1 = i)).map (·.2)).getD (codeLeaf held i)

/-- Open a frame's message under the link key of world `w`. -/
def State.openAs (s : State) (f : Frame) (e : Sealed) (w : Nat) : Option Message :=
  match s.linkKey f.src w with
  | none => none
  | some key =>
    let iv := sealIv f.epoch f.seq f.lane f.src s.fabric.mypkg f.rsp
    match descOf (xorBytes e.desc (ctrStream (aesKeys (hashBytes key)) iv 2 32)) with
    | none => none
    | some m =>
      if m.world ≠ w then none
      else (gcmOpen (hashBytes key) iv [] (e.desc ++ f.rebuilt.take (carriesOf m)) e.tag).map fun p => { m with data := p.drop 32 }

/-- The message the leaves of a frame hold: none when the tag fails under every link key held with the peer, the header of the
lowest leaf carrying descriptor and tag (log 121). -/
def State.open_ (s : State) (f : Frame) : Option Message :=
  match (List.range (f.d + f.m)).findSome? fun i => (f.good.find? (·.1 = i)).map (·.2) with
  | none => none
  | some e => (0 :: s.sct.worlds.map Prod.fst).findSome? (s.openAs f e)

/-- Ticks from the decode of a request to its performing at the home (R379). -/
abbrev deliverTicks : Nat := 20

/-- Decode a frame that holds `d` good leaves (R394). -/
def State.decode (s : State) (n : Nat) (f : Frame) : State :=
  let f := { f with decodeAt := none }
  let guard := f.good.any fun g => f.d ≤ g.1
  let s := if guard then s.count cRxRecon else s
  match s.open_ f with
  | none =>
    let s := s.count cRxAuth
    if 3 ≤ f.r then s.loseAt f.lane' f.seq true
    else s.askRetx n { f with good := [] } f.d
  | some m =>
    let at_ := s.tick + if f.rsp then 0 else deliverTicks
    let s := (s.modRx f.lane' fun l => { l with ready := l.ready ++ [(f.seq, at_, m)] }).postTick at_ (.messageDeliver f.src f.lane f.rsp)
    if f.seen.length = f.d + f.m then s.closeFrame n f false
    else
      let f := { f with gather := false, timer := s.tick + s.fabric.tdrain }
      (s.setFrame n (some f)).postTick f.timer (.tdrainExpiry n)

/-- A leaf comes to its frame (R393). -/
def State.takeLeaf (s : State) (n : Nat) (f : Frame) (l : Leaf) : State :=
  let fresh := !f.seen.contains l.idx
  let f := { f with seen := if fresh then f.seen ++ [l.idx] else f.seen }
  let s := s.count (if l.poisoned then cRxPois else cRxLeaf)
  if f.gather then
    if l.poisoned ∨ f.good.any (·.1 = l.idx) ∨ f.decodeAt.isSome then s.setFrame n (some f)
    else
      let f := { f with good := f.good ++ [(l.idx, l.body)] }
      if f.good.length < f.d then s.setFrame n (some f)
      else if f.good.any fun g => f.d ≤ g.1 then
        (s.setFrame n (some { f with decodeAt := some (s.tick + 1) })).postTick (s.tick + 1) (.guardDecode n)
      else s.decode n f
  else if f.seen.length = f.d + f.m then s.closeFrame n f false
  else s.setFrame n (some f)

/-- A leaf with RESYNC moves BASE to its number and closes everything below (R392); of the 64 numbers below, those delivered
keep that outcome. Responses below it that were not delivered are lost (R396). -/
def State.resyncRx (s : State) (k : Nat × Nat × Bool) (seq : Nat) : State :=
  let reqs := s.lostRequests k fun n => 2 ^ 15 ≤ above n seq
  let l := s.fabric.rxLane k
  let gone := (s.fabric.frames.filter fun e => match e.2 with
    | some f => f.lane' = k && f.seq ≠ seq && 2 ^ 15 ≤ above f.seq seq
    | none => false).map Prod.fst
  let s := gone.foldl (fun (s : State) n => s.setFrame n none) s
  let s := s.modRx k fun _ => { l with
    base := seq, del := if 2 ^ 15 ≤ above l.del seq then seq else l.del
    win := l.win.filter fun e => above e.1 seq < 64
    ready := l.ready.filter fun r => above r.1 seq < 64
    shut := none
    outcomes := ((List.range 64).filterMap fun i =>
      let n := (seq + 2 ^ 16 - 1 - i) % 2 ^ 16
      match l.outcomes.find? (·.1 = n), l.win.get .empty n with
      | some o, _ => some o
      | none, .closed ab => some (n, ab)
      | none, _ => if above n l.base < 2 ^ 15 then some (n, decide (above n l.del < 2 ^ 15)) else none).reverse }
  (reqs.foldl (fun (s : State) t => s.failTx t) s).sealNext (k.1, k.2.1, false)

/-- LEAF_ARRIVAL (R384, R390, R392, R393). -/
def execLeafArrival (port : Nat) (l : Leaf) (s : State) : Out' :=
  if 16 ≤ port then .fault (.noSuchUnit "LEAF_ARRIVAL" port)
  else if !bitOf port s.fabric.ports then .refused (.notEnabled "LEAF_ARRIVAL")
  else if !l.zeros ∨ l.src ≠ l.from_ ∨ 1024 ≤ l.src ∨ l.d = 0 ∨ 16 < l.d ∨ l.m = 0 ∨ 4 < l.m ∨ l.d + l.m ≤ l.idx ∨ 2 ^ 16 ≤ l.seq ∨
      16 ≤ l.lane then .next (s.count cRxBad)
  else
    let k := (l.src, l.lane, l.rsp)
    let s := if l.resync && above l.seq (s.fabric.rxLane k).base < 2 ^ 15 then (s.resyncRx k l.seq).slideRx k else s
    match (s.fabric.rxLane k).place l.seq with
    | .late => .next ((s.count cRxLate).repeatOutcome k l.seq)
    | .beyond => .next (s.count cRxBad)
    | .held (.active n) => match s.frame? n with
      | some f => .next (s.takeLeaf n f l)
      | none => .next s
    | .held _ => match s.fabric.freeFrame l.seq with
      | none => .next (s.count cRxNoFr)
      | some n =>
        let f : Frame :=
          { src := l.src, lane := l.lane, rsp := l.rsp, seq := l.seq, d := l.d, m := l.m, timer := s.tick + s.fabric.tfrag
            epoch := l.epoch }
        let s := (s.modRx k fun r => { r with win := r.win.set .empty l.seq (.active n) }).postTick f.timer (.tfragExpiry n)
        .next (s.takeLeaf n f l)

/-- GUARD_DECODE (R394): the decode of a frame that needs a guard leaf, one tick after its last leaf. -/
def execGuardDecode (n : Nat) (s : State) : Out' :=
  match s.frame? n with
  | none => .refused (.notEnabled "GUARD_DECODE")
  | some f => if f.decodeAt.any (· ≤ s.tick) then .next (s.decode n f) else .refused (.notEnabled "GUARD_DECODE")

/-- TFRAG_EXPIRY (R393, R396). -/
def execTfragExpiry (n : Nat) (s : State) : Out' :=
  match s.frame? n with
  | none => .refused (.notEnabled "TFRAG_EXPIRY")
  | some f =>
    if !f.gather ∨ s.tick < f.timer ∨ f.decodeAt.isSome then .refused (.notEnabled "TFRAG_EXPIRY")
    else
      let s := s.count cRxTmo
      if f.r < 3 then .next (s.askRetx n f (f.d - f.good.length)) else .next (s.loseAt f.lane' f.seq true)

/-- TDRAIN_EXPIRY (R393). -/
def execTdrainExpiry (n : Nat) (s : State) : Out' :=
  match s.frame? n with
  | none => .refused (.notEnabled "TDRAIN_EXPIRY")
  | some f => if !f.gather && f.timer ≤ s.tick then .next (s.closeFrame n f false) else .refused (.notEnabled "TDRAIN_EXPIRY")

/-- ABANDON (R398): an undelivered number is a loss that is not told; a delivered one repeats its ACK. -/
def execAbandon (c : ControlLeaf) (s : State) : Out' :=
  s.controlForm c fun s =>
    let k := (c.src, c.lane, c.rsp)
    let l := s.fabric.rxLane k
    if above c.seq l.del < 2 ^ 15 then .next (s.loseAt k c.seq false) else .next (s.repeatAck k c.seq)

/-! ## Accesses of peers (R400, R401) -/

/-- An entry of the table of lent frames. -/
structure Lent where
  pa : Nat
  frames : Nat
  world : Nat
  holders : Nat
  deriving DecidableEq, Repr

/-- Entry `i` of the table; none where it never matches. -/
def State.lentEntry (s : State) (i : Nat) : State × Option Lent :=
  match s.paRead 0 (s.fabric.xtbase + 32 * i) 32 with
  | (s, .error _) => (s, none)
  | (s, .ok b) =>
    let w0 := field b 0 8
    let w1 := field b 8 8
    if w0 % 2 ^ 16 = 0 ∧ w0 < 2 ^ 62 ∧ w1 < 2 ^ 40 ∧ field b 24 8 = 0 then
      (s, some { pa := w0, frames := w1 % 2 ^ 32, world := w1 / 2 ^ 32, holders := field b 16 8 })
    else (s, none)

/-- The entry that covers a PA. -/
def State.lent (s : State) (pa : Nat) : State × Option Lent :=
  (List.range s.fabric.xtcount).foldl (fun (r : State × Option Lent) i =>
    match r with
    | (s, none) => match s.lentEntry i with
      | (s, some e) => (s, if e.pa ≤ pa ∧ pa < e.pa + e.frames * 2 ^ 16 then some e else none)
      | (s, none) => (s, none)
    | r => r) (s, none)

/-- The packages an entry names as holders. -/
def State.holders (s : State) (e : Lent) : State × List Nat :=
  match s.paRead 0 e.holders 128 with
  | (s, .ok b) => (s, (List.range 1024).filter fun p => bitOf (p % 8) (b.getD (p / 8) 0#8).toNat)
  | (s, .error _) => (s, [])

/-- The checks on a peer's access before its home: the table of lent frames, then the key (R347, R400). -/
def State.peerMay (s : State) (src : Nat) (m : Message) : State × Bool :=
  match s.lent m.pa with
  | (s, none) => (s, false)
  | (s, some e) =>
    let (s, hs) := s.holders e
    (s, e.world = m.world && hs.contains src && s.keyOk true m.world m.keyId)

/-- Perform a peer's write, line by line: the code of the first fault, else 0. -/
def State.peerWrite (s : State) (m : Message) : State × Nat :=
  (runParts m.pa m.data.length).foldl (fun (r : State × Nat) p =>
    let bad := bitOf (8 + (p.addr / 64 - m.pa / 64)) m.status
    let bs := (m.data.drop (p.addr - m.pa)).take p.len
    match r.1.homeWriteNow false bad false p.addr m.keyId bs with
    | (s, .ok ()) => (s.notifyWrite p.addr bs, r.2)
    | (s, .fault c) => (s, if r.2 = 0 then c else r.2)
    | (s, .held _) => (s, if r.2 = 0 then notPresent else r.2)) (s, 0)

/-- Perform a peer's read: the bytes, the poisoned lines, and the code of the first fault. -/
def State.peerRead (s : State) (m : Message) : State × List Byte × Nat × Nat :=
  (runParts m.pa m.len).foldl (fun (r : State × List Byte × Nat × Nat) p =>
    match r.1.homeRead false p.addr p.len m.keyId with
    | (s, .ok (bs, bad)) => (s, r.2.1 ++ bs, if bad then r.2.2.1 ||| 2 ^ (p.addr / 64 - m.pa / 64) else r.2.2.1, r.2.2.2)
    | (s, .fault c) =>
      let map := if s.linePoisoned p.addr then r.2.2.1 ||| 2 ^ (p.addr / 64 - m.pa / 64) else r.2.2.1
      (s, r.2.1 ++ bytesOf p.len 0, map, if r.2.2.2 = 0 then c else r.2.2.2)
    | (s, .held _) => (s, r.2.1 ++ bytesOf p.len 0, r.2.2.1, r.2.2.2)) (s, [], 0, 0)

/-- Perform a peer's atomic: its old value, or a fault. -/
def State.peerAtomic (s : State) (m : Message) : State × Except Nat Nat :=
  let w := if bitOf 4 m.fn then 8 else 4
  let o : AtomOp := if m.fn % 16 = 9 then .cas (natOf (m.data.take w)) else .fn (m.fn % 16)
  let v := if m.fn % 16 = 9 then natOf (m.data.drop w) else natOf m.data
  if m.pa % w ≠ 0 ∨ 9 < m.fn % 16 then (s, .error atomicType)
  else match s.homeAtomicNow false (bitOf 5 m.fn) m.pa w m.keyId o v with
    | (s, .ok old) => (s, .ok old)
    | (s, .fault c) => (s, .error c)
    | (s, .held _) => (s, .error notPresent)

/-- Send a response on the lane of its request, in a sequence space of its own (R391), once the notifies for `notes` have
ended (R377). -/
def State.respond (s : State) (src lane : Nat) (m : Message) (notes : List Nat) : State :=
  let id := s.fabric.nextMsg
  let t : TxMsg := { id := id, dst := src, lane := lane, rsp := true, msg := m, notes := notes, waiter := none }
  let s : State := s.modFab fun f => { f with nextMsg := id + 1, tx := f.tx ++ [t] }
  if notes.isEmpty then s.postIn 0 (.messageSeal id) else notes.foldl (fun (s : State) pa => s.postIn 0 (.poisonNotifySend pa)) s

/-- Acknowledge a delivered number (R394). -/
def State.sendAck (s : State) (k : Nat × Nat × Bool) (seq status : Nat) : State :=
  (s.modRx k fun l => { l with acks := NMap.insert (l.acks.filter fun e => above l.base e.1 ≤ 64 || above e.1 l.base < 64) seq status }).sendControl
    k.1 0 { src := 0, lane := k.2.1, seq := seq, rsp := k.2.2, status := status }

/-- The poisoned lines of a read, as PAs. -/
def poisonedLines (pa map : Nat) : List Nat := ((List.range 64).filter fun i => bitOf i map).map fun i => (pa / 64 + i) * 64

/-- Perform a request of package `src` (R400) and answer it. -/
def State.performRequest (s : State) (src lane seq : Nat) (m : Message) : State :=
  let k := (src, lane, false)
  match m.op with
  | .poisonNote => (s.postIn 0 (.poisonnoteReceive src m.pa)).sendAck k seq 0
  | .readRsp | .atomRsp => s.sendAck k seq 0
  | .write =>
    match s.peerMay src m with
    | (s, false) => s.sendAck k seq perm
    | (s, true) => let (s, c) := s.peerWrite m; s.sendAck k seq c
  | .readReq =>
    let base : Message := { op := .readRsp, world := m.world, keyId := m.keyId, pa := m.pa, origin := m.origin }
    match s.peerMay src m with
    | (s, false) => s.respond src lane { base with status := perm } []
    | (s, true) =>
      let (s, bs, map, c) := s.peerRead m
      let notes := match (s.lent m.pa).2 with
        | some _ => poisonedLines m.pa map
        | none => []
      s.respond src lane { base with len := bs.length, data := bs, status := c + 256 * map } notes
  | .atomic =>
    let base : Message := { op := .atomRsp, world := m.world, keyId := m.keyId, pa := m.pa, origin := m.origin }
    match s.peerMay src m with
    | (s, false) => (s.sendAck k seq perm).respond src lane { base with status := perm } []
    | (s, true) => match s.peerAtomic m with
      | (s, .error c) => (s.sendAck k seq c).respond src lane { base with status := c } []
      | (s, .ok old) =>
        let w := if bitOf 4 m.fn then 8 else 4
        (s.sendAck k seq 0).respond src lane { base with len := w, data := bytesOf w old } []

/-- A response of package `src`: its request's issuer takes the value or the fault (R400). -/
def State.takeResponse (s : State) (src lane seq : Nat) (m : Message) : State :=
  let s := s.sendAck (src, lane, true) seq 0
  match s.fabric.tx.find? fun t => t.id = m.origin / 2 ^ 16 && t.dst = src && !t.rsp && !t.answered with
  | none => s
  | some t =>
    let done := t.acked || t.msg.op = .readReq
    let s := (if done then s.dropTx t.id else s.modTx t.id fun t => { t with answered := true }).sealNext t.lane'
    match t.waiter with
    | some w => s.answer w (if m.status % 256 = 0 then .ok (m.data, m.status / 256) else .error (m.status % 256))
    | none => s

/-- MESSAGE_DELIVER (R392, R394): the lowest number of a lane not yet delivered, once it is decoded and its time has
come. -/
def execMessageDeliver (src lane : Nat) (rsp : Bool) (s : State) : Out' :=
  let k := (src, lane, rsp)
  let l := s.fabric.rxLane k
  match l.ready.find? fun r => r.1 = l.del && r.2.1 ≤ s.tick with
  | none => .refused (.notEnabled "MESSAGE_DELIVER")
  | some (seq, _, m) =>
    let s := s.modRx k fun l => { l with ready := l.ready.filter fun r => r.1 ≠ seq, del := (l.del + 1) % 2 ^ 16 }
    let s := (s.count cRxMsg).slideRx k
    let s := if rsp then s.takeResponse src lane seq m else s.performRequest src lane seq m
    let next := (s.fabric.rxLane k).del
    .next (if (s.fabric.rxLane k).ready.any fun r => r.1 = next && r.2.1 ≤ s.tick then s.postIn 0 (.messageDeliver src lane rsp) else s)

/-! ## Poison and peers (R377) -/

/-- POISON_NOTIFY_SEND: a notify to every package that holds a mapping of the line's frame; the response that waits for
it is released when all have ended. -/
def execPoisonNotifySend (pa : Nat) (s : State) : Out' :=
  match s.fabric.tx.find? fun t => t.notes.contains pa with
  | none => .refused (.notEnabled "POISON_NOTIFY_SEND")
  | some t =>
    let (s, e) := s.lent pa
    let (s, hs) := match e with
      | some e => s.holders e
      | none => (s, [])
    let lane := ((homeOf pa).map fun h => (1152 + 2 * h.die) % 16).getD 0
    let (s, ids) := hs.foldl (fun (r : State × List Nat) p =>
      let s := match homeOf pa with
        | some h => { r.1 with errc := { r.1.errc with pnote := bump r.1.errc.pnote h.index } }
        | none => r.1
      (s.submit p lane { op := .poisonNote, world := t.msg.world, pa := pa } none, r.2 ++ [s.fabric.nextMsg])) (s, [])
    .next ((s.modTx t.id fun t => { t with notes := t.notes.erase pa, noteIds := t.noteIds ++ ids }).postIn 1 (.messageSeal t.id))

/-- Event kind 9 (R377). -/
abbrev evPoisonNote : Nat := 9

/-- POISONNOTE_RECEIVE: posted to the physical function. -/
def execPoisonnoteReceive (src pa : Nat) (s : State) : Out' := .next (s.postEvent .pf evPoisonNote poisonF 0 noTeam pa (src % 1024))

end Sys2Proof.Machine
end

