-- ==== Sys2Proof/Machine/Ckpt.lean ====
section
/-! DEFINITION. Checkpoints (R404 to R408, R429): the descriptor, the stripes and their parity, sealing and restoring. What
a peer holds or answers is its own: its bytes, and whether a line of its area is there and good, are free (log 62). -/
namespace Sys2Proof.Machine
open Sys2Proof

/-! ## The descriptor (R404) -/

/-- A group descriptor with its region list. -/
structure CkptDesc where
  op : Nat
  n : Nat
  k : Nat
  pos : Nat
  area : Nat                   -- tier L byte offset
  rsize : Nat
  job : Nat
  serial : Nat
  pkgs : List Nat
  regs : List (Nat × Nat) := []
  deriving DecidableEq, Repr

/-- The 128 bytes of a descriptor for a packet; none where they break a limit. -/
def ckptDesc (mypkg : Nat) (x : Pkt) (b : List Byte) : Option (CkptDesc × Nat) :=
  let w0 := field b 0 8
  let w2 := field b 0x10 8
  let k := x.word 4 % 256
  let n := bitsOf 15 8 w0
  let pos := bitsOf 23 16 w0
  let pkgs := (pieces_ 2 32 (b.drop 0x40)).map natOf
  let nreg := bitsOf 47 32 w2
  if w0 % 256 ≤ 1 ∧ bitsOf 63 24 w0 = 0 ∧ n = k + 2 ∧ pos < n ∧ field b 8 8 < 2 ^ 44 ∧ field b 8 8 % 4096 = 0 ∧
      w2 % 2 ^ 32 % 256 = 0 ∧ bitsOf 63 48 w2 = 0 ∧ 1 ≤ nreg ∧ nreg ≤ 64 ∧ allZero (slice b 0x28 24) ∧
      (pkgs.take n).all (· < 1024) ∧ (pkgs.drop n).all (· = 0) ∧ pkgs.getD pos 1024 = mypkg ∧ x.word 2 % 128 = 0 then
    some ({ op := w0 % 256, n := n, k := k, pos := pos, area := field b 8 8, rsize := w2 % 2 ^ 32, job := field b 0x18 8
            serial := x.word 3, pkgs := pkgs.take n }, nreg)
  else none

/-- The region list; none where it breaks a limit. -/
def ckptRegs (rsize : Nat) (ps : List (List Byte)) : Option (List (Nat × Nat)) :=
  let regs := ps.map fun p => (field p 0 8, field p 8 8)
  if regs.all (fun r => r.1 % 256 = 0 && r.2 % 256 = 0) && (regs.map Prod.snd).sum = rsize then some regs else none

/-- Read the descriptor of a packet with its regions: the reason of a failure, or the descriptor. -/
def State.readCkpt (s : State) (v : Vd) (x : Pkt) : State × Except Nat CkptDesc :=
  match s.vdRead v (x.word 2) 128 with
  | (s, .error c) => (s, .error c)
  | (s, .ok b) =>
    match ckptDesc s.fabric.mypkg x b with
    | none => (s, .error illegalEnc)
    | some (d, nreg) =>
      match s.vdRead v (x.word 5) (16 * nreg) with
      | (s, .error c) => (s, .error c)
      | (s, .ok r) => match ckptRegs d.rsize (pieces_ 16 nreg r) with
        | none => (s, .error illegalEnc)
        | some regs => (s, .ok { d with regs := regs })

/-! ## Stripes and parity (R405) -/

/-- Stripes of a group. -/
def CkptDesc.stripes (d : CkptDesc) : Nat := (d.n * d.rsize + 256 * d.k - 1) / (256 * d.k)
/-- The position that holds member `j` of stripe `st`. -/
def CkptDesc.holder (d : CkptDesc) (st j : Nat) : Nat := (st + j) % d.n
/-- The member of stripe `st` a position holds. -/
def CkptDesc.member (d : CkptDesc) (st pos : Nat) : Nat := (pos + d.n - st % d.n) % d.n
/-- The position whose state unit `u` is; none beyond the state. -/
def CkptDesc.owner (d : CkptDesc) (u : Nat) : Option Nat := if 256 * u < d.n * d.rsize then some (256 * u / d.rsize) else none

/-- The DVA of byte `o` of this position's regions. -/
def regionAt : List (Nat × Nat) → Nat → Nat
  | [], _ => 0
  | (a, n) :: t, o => if o < n then a + o else regionAt t (o - n)

/-- Multiplication by 2 in GF(2^8) with the polynomial 0x11D. -/
def gfDouble (b : Byte) : Byte := (b <<< 1) ^^^ (if b.getLsbD 7 then 0x1D#8 else 0#8)

/-- Multiplication in that field, over the low `n` bits of the first factor. -/
def gfMulBits : Nat → Nat → Byte → Byte
  | 0, _, _ => 0#8
  | n + 1, a, b => (if a % 2 = 1 then b else 0#8) ^^^ gfMulBits n (a / 2) (gfDouble b)
def gfMul (a b : Byte) : Byte := gfMulBits 8 a.toNat b
/-- 2^j in the field. -/
def gfPow2 : Nat → Byte
  | 0 => 1#8
  | j + 1 => gfDouble (gfPow2 j)
/-- b^n in the field. -/
def gfPow (b : Byte) : Nat → Byte
  | 0 => 1#8
  | n + 1 => gfMul b (gfPow b n)
/-- The inverse: b^254. -/
def gfInv (b : Byte) : Byte := gfPow b 254

/-- Two rows of bytes added. -/
def gfAdd (a b : List Byte) : List Byte := List.zipWith (· ^^^ ·) a b
def gfScale (c : Byte) (a : List Byte) : List Byte := a.map (gfMul c)
/-- The sum of rows, `n` bytes each. -/
def gfSum (n : Nat) (l : List (List Byte)) : List Byte := l.foldl gfAdd (List.replicate n 0#8)

/-- P of the data members, and Q: the sum of 2^j × D_j. -/
def parityP (n : Nat) (ds : List (List Byte)) : List Byte := gfSum n ds
def parityQ (n : Nat) (ds : List (List Byte)) : List Byte := gfSum n (ds.zipIdx.map fun (x, j) => gfScale (gfPow2 j) x)

/-! ## Sealing a line (R429) -/

/-- The IV of a member line. -/
def ckptIv (st j l : Nat) : List Byte := bigBytes 4 st ++ bigBytes 1 j ++ bigBytes 1 l ++ List.replicate 6 0#8

/-- The sealing keys of a world for a job and serial (R412). -/
def CkptDesc.sealKey (d : CkptDesc) (wk : BitVec 256) (label : String) : BitVec 256 := kdf wk label (bigBytes 8 d.job ++ bigBytes 8 d.serial)

/-- The ciphertext of a line, or its plaintext again. -/
def CkptDesc.cipher (d : CkptDesc) (wk : BitVec 256) (st j l : Nat) (bs : List Byte) : List Byte :=
  xorBytes bs (ctrStream (aesKeys (hashBytes (d.sealKey wk "SEALE"))) (ckptIv st j l) 2 64)
/-- The 56-bit tag of a ciphertext. -/
def CkptDesc.tagOf (d : CkptDesc) (wk : BitVec 256) (st j l : Nat) (ct : List Byte) : Nat :=
  bigNat ((gmac (hashBytes (d.sealKey wk "SEALI")) (ckptIv st j l) ct).take 7)

/-- PAs of the area: a member line, and its tag. -/
def CkptDesc.lineAt (d : CkptDesc) (st l : Nat) : Nat := 2 ^ 58 + d.area + 4096 + 256 * st + 64 * l
def CkptDesc.tagAt (d : CkptDesc) (st l : Nat) : Nat := 2 ^ 58 + d.area + 4096 + 256 * d.stripes + 8 * (4 * st + l)

/-- The area header (R406). -/
def CkptDesc.header (d : CkptDesc) (st : Nat) : List Byte :=
  bytesOf 4 0x4B484749 ++ bytesOf 2 1 ++ bytesOf 2 st ++ bytesOf 8 d.serial ++ bytesOf 8 d.job ++ bytesOf 1 d.k ++ bytesOf 1 d.n ++
  bytesOf 1 d.pos ++ bytesOf 1 0 ++ bytesOf 4 d.stripes ++ List.replicate 32 0#8

/-- A keeper's access of the area for a VD passes the partition matrix where a quire of the VD is granted its port (R418). -/
def State.areaOk (s : State) (v : Vd) (pa : Nat) : Bool := s.pcmOk (quiresOf v.quires) pa

/-- Write bytes of the area under key ID 0; PERM where its port is not granted, or the fault of a home that does not take
them. -/
def State.areaWrite (s : State) (v : Vd) (pa : Nat) (bs : List Byte) : State × Option Nat :=
  (runParts pa bs.length).foldl (fun (r : State × Option Nat) p =>
    match r with
    | (s, none) => if !s.areaOk v p.addr then (s, some perm) else match s.homeWriteNow false false false p.addr 0 ((bs.drop (p.addr - pa)).take p.len) with
      | (s, .ok ()) => (s, none)
      | (s, .fault c) => (s, some c)
      | (s, .held _) => (s, some notPresent)
    | r => r) (s, none)

/-- Read bytes of the area under key ID 0, checked in the same way. -/
def State.areaRead (s : State) (v : Vd) (pa n : Nat) : Except Nat (List Byte) :=
  if (runParts pa n).all fun p => s.areaOk v p.addr then (s.paRead 0 pa n).2 else .error perm

/-- World key of a VD. -/
def State.wkOf (s : State) (v : Vd) : BitVec 256 := match s.world? v.world with
  | some w => w.wk
  | none => 0#256

/-! ## Sealing (R407) -/

/-- The 256 bytes of a data unit: this position's own are read in the VD's context, a peer's are the peer's, which may also
answer with a fault of R400 or be lost (R396). -/
def State.readUnit (s : State) (v : Vd) (d : CkptDesc) (u : Nat) : State × Except Nat (List Byte) :=
  match d.owner u with
  | none => (s, .ok (List.replicate 256 0#8))
  | some p =>
    if p = d.pos then s.vdRead v (regionAt d.regs (256 * u % d.rsize)) 256
    else if !s.reachable (d.pkgs.getD p 0) then (s, .error fabricLoss)
    else match s.peerOutcome (poisonF :: peerFaults) with
      | (s, some c) => (s, .error c)
      | (s, none) => let (s, bs) := s.peerBytes 256; (s, .ok bs)

/-- The data members of a stripe. -/
def State.readStripe (s : State) (v : Vd) (d : CkptDesc) (st : Nat) : State × Except Nat (List (List Byte)) :=
  (List.range d.k).foldl (fun (r : State × Except Nat (List (List Byte))) j =>
    match r with
    | (s, .ok acc) => match s.readUnit v d (d.k * st + j) with
      | (s, .ok bs) => (s, .ok (acc ++ [bs]))
      | (s, .error c) => (s, .error c)
    | r => r) (s, .ok [])

/-- The member of a stripe this position holds, in plain. -/
def State.formMember (s : State) (v : Vd) (d : CkptDesc) (st : Nat) : State × Except Nat (List Byte) :=
  let j := d.member st d.pos
  if j < d.k then s.readUnit v d (d.k * st + j)
  else match s.readStripe v d st with
    | (s, .ok ds) => (s, .ok (if j = d.k then parityP 256 ds else parityQ 256 ds))
    | (s, .error c) => (s, .error c)

/-- Seal one stripe's member into the area: the fault of a region or of the area. -/
def State.sealStripe (s : State) (v : Vd) (d : CkptDesc) (st : Nat) : State × Option Nat :=
  match s.formMember v d st with
  | (s, .error c) => (s, some c)
  | (s, .ok bs) =>
    let j := d.member st d.pos
    let wk := s.wkOf v
    (List.range 4).foldl (fun (r : State × Option Nat) l =>
      match r with
      | (s, none) =>
        let ct := d.cipher wk st j l (slice bs (64 * l) 64)
        match s.areaWrite v (d.lineAt st l) ct with
        | (s, none) => s.areaWrite v (d.tagAt st l) (bytesOf 8 (d.tagOf wk st j l ct))
        | r => r
      | r => r) (s, none)

/-! ## Restoring (R408) -/

/-- What a restore finds of a member line. -/
inductive CkptLine where
  | good (bs : List Byte)
  | absent
  | macFail
  deriving DecidableEq, Repr

/-- A line of this position's own area. -/
def State.ownLine (s : State) (v : Vd) (d : CkptDesc) (st j l : Nat) : CkptLine :=
  match s.areaRead v (2 ^ 58 + d.area) 64 with
  | .error _ => .absent
  | .ok h =>
    if field h 0 4 ≠ 0x4B484749 ∨ field h 8 8 ≠ d.serial ∨ field h 16 8 ≠ d.job ∨ field h 6 2 ≠ 1 then .absent
    else match s.areaRead v (d.lineAt st l) 64, s.areaRead v (d.tagAt st l) 8 with
      | .ok ct, .ok t =>
        let wk := s.wkOf v
        if natOf t % 2 ^ 56 = d.tagOf wk st j l ct then .good (d.cipher wk st j l ct) else .macFail
      | _, _ => .macFail

/-- Free values a restore takes from `fresh` on: whether each peer's header holds, then 65 a line. -/
def CkptDesc.lineDraw (d : CkptDesc) (base st j l : Nat) : Nat := base + d.n + 65 * (4 * (d.n * st + j) + l)
/-- How many they are. -/
def CkptDesc.draws (d : CkptDesc) : Nat := d.n + 65 * 4 * d.n * d.stripes

/-- Line `l` of member `j` of a stripe, as a restore finds it: a peer's is what the peer holds. -/
def State.memberLine (s : State) (v : Vd) (d : CkptDesc) (base st j l : Nat) : CkptLine :=
  let h := d.holder st j
  let at_ := d.lineDraw base st j l
  if h = d.pos then s.ownLine v d st j l
  else if !s.reachable (d.pkgs.getD h 0) ∨ Config.freeHostByte (base + h) = 0#8 then .absent
  else if Config.freeHostByte at_ = 0#8 then .macFail
  else .good ((List.range 64).map fun i => Config.freeHostByte (at_ + 1 + i))

def CkptLine.bytes? : CkptLine → Option (List Byte)
  | .good bs => some bs
  | _ => none

/-- Data line `j` of a stripe rebuilt from the members that are good: those of `ls`, in member order. -/
def CkptDesc.rebuild (d : CkptDesc) (j : Nat) (ls : List CkptLine) : Option (List Byte) :=
  let row (i : Nat) : Option (List Byte) := (ls.getD i .absent).bytes?
  let others := (List.range d.k).filter (· ≠ j)
  let known := others.filterMap fun i => (row i).map fun x => (i, x)
  let sumP := gfSum 64 (known.map Prod.snd)
  let sumQ := gfSum 64 (known.map fun (i, x) => gfScale (gfPow2 i) x)
  match others.filter (fun i => (row i).isNone), row d.k, row (d.k + 1) with
  | [], some p, _ => some (gfAdd p sumP)
  | [], none, some q => some (gfScale (gfInv (gfPow2 j)) (gfAdd q sumQ))
  | [i], some p, some q =>
    let a := gfAdd p sumP
    let b := gfAdd q sumQ
    some (gfScale (gfInv (gfPow2 i ^^^ gfPow2 j)) (gfAdd b (gfScale (gfPow2 i) a)))
  | _, _, _ => none

/-- What a restore has formed so far, and the lines it has met and rebuilt. -/
structure Restored where
  bytes : List Byte := []
  absent : List (Nat × Nat × Nat) := []
  failed : List (Nat × Nat × Nat) := []
  rebuilt : Nat := 0
  lost : Option Nat := none    -- the stripe with too many erasures
  deriving DecidableEq, Repr

/-- A line is met: an erased one is counted once. -/
def Restored.meet (r : Restored) (key : Nat × Nat × Nat) : CkptLine → Restored
  | .good _ => r
  | .absent => { r with absent := if r.absent.contains key then r.absent else key :: r.absent }
  | .macFail => { r with failed := if r.failed.contains key then r.failed else key :: r.failed }

/-- Form line `l` of a unit. -/
def State.restoreLine (s : State) (v : Vd) (d : CkptDesc) (base u : Nat) (r : Restored) (l : Nat) : Restored :=
  if r.lost.isSome then r
  else
    let st := u / d.k
    let j := u % d.k
    let x := s.memberLine v d base st j l
    let r := r.meet (st, j, l) x
    match x with
    | .good bs => { r with bytes := r.bytes ++ bs }
    | _ =>
      let ls := (List.range d.n).map fun i => s.memberLine v d base st i l
      let r := ls.zipIdx.foldl (fun (r : Restored) (y, i) => if i = j then r else r.meet (st, i, l) y) r
      match d.rebuild j ls with
      | some bs => { r with bytes := r.bytes ++ bs, rebuilt := r.rebuilt + 1 }
      | none => { r with lost := some st }

/-- Form every line of this position's regions. -/
def State.restoreAll (s : State) (v : Vd) (d : CkptDesc) (base : Nat) : Restored :=
  (List.range (d.rsize / 256)).foldl (fun (r : Restored) i =>
    (List.range 4).foldl (fun (r : Restored) l => s.restoreLine v d base (d.pos * d.rsize / 256 + i) r l) r) {}

/-- Write the regions: the fault of one that does not take its bytes. -/
def State.writeRegions (s : State) (v : Vd) (bs : List Byte) : List (Nat × Nat) → State × Option Nat
  | [] => (s, none)
  | (a, n) :: t => match s.vdWrite v a (bs.take n) with
    | (s, .ok ()) => s.writeRegions v (bs.drop n) t
    | (s, .error c) => (s, some c)

/-- A count of RESULT: 16 bits; what a larger one reads as is free. -/
def State.resultField (s : State) (n : Nat) : State × Nat :=
  if n < 2 ^ 16 then (s, n) else ({ s with fresh := s.fresh + 1 }, (Config.freeWord s.fresh).toNat % 2 ^ 16)

/-- Write RESULT and end the packet; a fault of the write is the packet's (R283). -/
def State.endCkpt (s : State) (p : PktId) (v : Vd) (x : Pkt) (rebuilt macs absents : Nat) : State :=
  let (s, a) := s.resultField rebuilt
  let (s, b) := s.resultField macs
  let (s, c) := s.resultField absents
  match s.vdWrite v (x.word 2 + 0x20) (bytesOf 8 (a + b * 2 ^ 16 + c * 2 ^ 32)) with
  | (s, .ok ()) => s.endPkt p 0
  | (s, .error code) => s.endPkt p code

/-- A restore, its reads and its writes at one instant; an area whose port is not granted raises PERM (R418). -/
def State.restore (s : State) (p : PktId) (v : Vd) (x : Pkt) (d : CkptDesc) : State :=
  let base := s.fresh
  let s : State := { s with fresh := base + d.draws }
  let r := s.restoreAll v d base
  if !([2 ^ 58 + d.area, d.tagAt d.stripes 0].all (s.areaOk v)) then s.endPkt p perm
  else match r.lost with
  | some st => (s.modPkt p fun x => { x with dataHi := st }).endPkt p integrity
  | none => match s.writeRegions v r.bytes d.regs with
    | (s, some c) => s.endPkt p c
    | (s, none) => s.endCkpt p v x r.rebuilt r.failed.length r.absent.length

/-! ## CKPT -/

/-- The next stage of a seal, after a free time. -/
def State.ckptStage (s : State) (p : PktId) (n : Nat) : State := (s.modPkt p fun x => { x with stage := n }).postFree (.ckpt p)

/-- A position other than this one cannot be reached (R396). -/
def State.ckptCut (s : State) (d : CkptDesc) : Bool := d.pkgs.any fun g => g ≠ s.fabric.mypkg && !s.reachable g

/-- What the peers' announcements say at an instant: not all of them have come; or that is settled: one differs in a field that
is to be equal on every member (R404), one is lost (R396), or all agree. They are the peers', so it is free (log 62). -/
def State.announced (s : State) : State × Option (Option Nat) :=
  let b := (Config.freeHostByte s.fresh).toNat
  ({ s with fresh := s.fresh + 1 },
    if b = 0 then none else some (if b = 1 then some illegalEnc else if b = 2 then some fabricLoss else none))

/-- A seal goes on: stage 1 waits for the announcements and writes the header with STATE 0, stage 2 + st seals stripe st, and the
last writes STATE 1. -/
def State.sealOn (s : State) (p : PktId) (v : Vd) (x : Pkt) (d : CkptDesc) : State :=
  let head (st : Nat) : State × Option Nat := s.areaWrite v (2 ^ 58 + d.area) (d.header st)
  if x.stage = 1 then
    if s.ckptCut d then s.endPkt p fabricLoss
    else match s.announced with
      | (s, none) => s.ckptStage p 1
      | (s, some (some c)) => s.endPkt p c
      | (s, some none) => match s.areaWrite v (2 ^ 58 + d.area) (d.header 0) with
        | (s, some c) => s.endPkt p c
        | (s, none) => s.ckptStage p 2
  else if x.stage < 2 + d.stripes then match s.sealStripe v d (x.stage - 2) with
    | (s, some c) => s.endPkt p c
    | (s, none) => s.ckptStage p (x.stage + 1)
  else match head 1 with
    | (s, some c) => s.endPkt p c
    | (s, none) => s.endCkpt p v x 0 0 0

/-- A CKPT that has started goes on, its descriptor as it reads now. -/
def State.ckptOn (s : State) (p : PktId) (v : Vd) (x : Pkt) : State :=
  match s.readCkpt v x with
  | (s, .error c) => s.endPkt p c
  | (s, .ok d) => if d.op = 0 then s.sealOn p v x d else s.restore p v x d

/-- A CKPT starts (R283, R407): NO_TIER, then the descriptor, then a seal announces itself to every position. How long the
announcements take is free. -/
def State.ckptStart (s : State) (p : PktId) (v : Vd) (x : Pkt) : State :=
  let s := s.startPkt p id
  if s.fitted.tierL = 0 then s.endPkt p noTier
  else match s.readCkpt v x with
    | (s, .error c) => s.endPkt p c
    | (s, .ok d) =>
      if d.op ≠ 0 then s.ckptStage p 1
      else if s.ckptCut d then s.endPkt p fabricLoss
      else ((d.pkgs.filter (· ≠ s.fabric.mypkg)).foldl (fun (s : State) g => s.emit (.ckpt g d.serial d.job)) s).ckptStage p 1

/-- CKPT (R284, R404 to R408). -/
def execCkpt (p : PktId) (s : State) : Out' :=
  match s.pkt? p with
  | some (v, x) =>
    if x.typ = tyCkpt && x.st = .started && x.stage ≠ 0 then .next (s.ckptOn p v x)
    else s.starting "CKPT" p tyCkpt fun v x => .next (s.ckptStart p v x)
  | none => .refused (.notEnabled "CKPT")

end Sys2Proof.Machine
end

