-- ==== Sys2Proof/Machine/Freeze.lean ====
section
/-! DEFINITION. The freeze of a tile for the faults of a cycle (R233, R368), its resume (R234), the watchdog (R372) and
errors of tile storage (R375). -/
namespace Sys2Proof.Machine
open Sys2Proof

/-- The place of a fault in the order of R368; the CSQ's own are taken where they arise, and asynchronous ones come last. -/
def PendFault.rank (f : PendFault) : Nat :=
  if f.async then 6 else if f.far then 5 else if !f.cmd then 0 else f.slot

/-- The first fault of a list by rank. -/
def firstFault : List PendFault → Option PendFault
  | [] => none
  | f :: l => match firstFault l with
    | some g => if g.rank < f.rank then some g else some f
    | none => some f

/-- The CSQ of tile `t` has raised a fault in this cycle: it comes before every other one (R368). -/
def State.csqFaultNow (s : State) (t : Nat) : Bool :=
  (match (s.tile t).freeze with
    | some f => f.kind = .handler && f.since = s.now
    | none => false) || s.kfaults.any fun k => k.tile = t && k.due = s.now + keeperTakes && !k.fault.far && !k.fault.async && !k.fault.cmd

/-- The faults of a cycle stop the tile (R187, R230, R233): the first in the order of R368 is reported with EPC the next
CSQ instruction; a far SEMOVF not reported is held, and the others are raised again when they next run. -/
def execBsqFreeze (t : Nat) (s : State) : Out' :=
  if Config.tiles ≤ t then .fault (.noSuchUnit "BSQ_FREEZE" t)
  else
    let x := s.tile t
    match firstFault x.faults with
    | none => .refused (.notEnabled "BSQ_FREEZE")
    | some f =>
      if s.csqFaultNow t then .next (s.setTile t x.holdFaults) else
      let rest := (x.faults.erase f).filter (·.keeps)
      let s := s.setTile t { x with faults := [], held := x.held ++ rest }
      .next (s.takeFault t { f with epc := x.seq.pc })

/-- The tile after its freeze: the held results count on, and stopped commands run again from their progress (R234). -/
def Tile.goOn (x : Tile) (now wall : Nat) : Tile :=
  let y := x.resumeNow now wall
  let run (c : MCmd) : MCmd := if c.st = .stopped then { c with st := .running now } else c
  let runC (c : CCmd) : CCmd := if c.st = .stopped then { c with st := .running now } else c
  { y with
    drained := false
    mat := { y.mat with queue := y.mat.queue.map run }
    c0 := { y.c0 with cmds := y.c0.cmds.map runC }
    c1 := { y.c1 with cmds := y.c1.cmds.map runC } }

/-- A frozen tile resumes (R234); a held far SEMOVF is raised in this cycle, before the first issue (R368). -/
def execBsqResume (t : Nat) (s : State) : Out' :=
  if Config.tiles ≤ t then .fault (.noSuchUnit "BSQ_RESUME" t)
  else
    let x := s.tile t
    match x.freeze with
    | some { resumeAt := some r, .. } =>
      if r ≤ s.now then
        let y := x.goOn s.now s.wall
        match y.held with
        | [] => .next (s.setTile t y)
        | f :: hs => .next ((s.setTile t { y with held := hs }).takeFault t { f with epc := y.seq.pc })
      else .refused (.notEnabled "BSQ_RESUME")
    | _ => .refused (.notEnabled "BSQ_RESUME")

end Sys2Proof.Machine
end

