-- ==== Sys2Proof/Machine/Mlkem.lean ====
section
/-! DEFINITION. ML-KEM-1024 (FIPS 203; R17, R413, R427): q = 3329, k = 4, noise of 2, compression to 11 and 5 bits. A polynomial
is its 256 coefficients; its transform is the values of the 128 pairs of coefficients at the powers of the transform. -/
namespace Sys2Proof.Machine
open Sys2Proof

abbrev kemQ : Nat := 3329

/-! ## Polynomials -/

/-- A power modulo q, by the bits of the exponent from the lowest. -/
def kemPow : Nat → Nat → Nat → Nat
  | 0, _, _ => 1
  | fuel + 1, x, n => (if n % 2 = 1 then x else 1) * kemPow fuel (x * x % kemQ) (n / 2) % kemQ

/-- The seven bits of a number turned round. -/
def rev7 (i : Nat) : Nat := ((List.range 7).map fun b => i / 2 ^ b % 2 * 2 ^ (6 - b)).sum

/-- The roots: X² − γ for each pair of coefficients of a transform. -/
def kemRoots : List Nat := (List.range 128).map fun i => kemPow 8 17 (2 * rev7 i + 1)

/-- Every second coefficient from `o` on. -/
def halfOf (o : Nat) (f : List Nat) : List Nat := (List.range 128).map fun j => f.getD (2 * j + o) 0

/-- The value of a polynomial at `x`, the lowest coefficient first. -/
def kemEval (x : Nat) (f : List Nat) : Nat := f.foldr (fun c a => (c + x * a) % kemQ) 0

/-- Two halves put together again. -/
def zipHalves (a b : List Nat) : List Nat := (a.zip b).flatMap fun p => [p.1, p.2]

/-- The number-theoretic transform. -/
def ntt (f : List Nat) : List Nat :=
  zipHalves (kemRoots.map fun g => kemEval g (halfOf 0 f)) (kemRoots.map fun g => kemEval g (halfOf 1 f))

/-- Its inverse: a half's coefficient j is the sum of the values by γ^(−j), divided by 128; γ^(−1) = γ^3327. -/
def intt (f : List Nat) : List Nat :=
  let half (o : Nat) : List Nat :=
    let pts := (kemRoots.map fun g => kemPow 12 g 3327).zip (halfOf o f)
    (List.range 128).map fun j => 3303 * (pts.map fun p => p.2 * kemPow 7 p.1 j % kemQ).sum % kemQ
  zipHalves (half 0) (half 1)

def polyAdd (a b : List Nat) : List Nat := List.zipWith (fun x y => (x + y) % kemQ) a b
def polySub (a b : List Nat) : List Nat := List.zipWith (fun x y => (x + kemQ - y) % kemQ) a b

/-- The product of two transforms, pair by pair modulo X² − γ. -/
def nttMul (a b : List Nat) : List Nat :=
  (kemRoots.zip ((halfOf 0 a).zip (halfOf 1 a) |>.zip ((halfOf 0 b).zip (halfOf 1 b)))).flatMap fun (g, (a0, a1), b0, b1) =>
    [(a0 * b0 + a1 * b1 % kemQ * g) % kemQ, (a0 * b1 + a1 * b0) % kemQ]

def polyZero : List Nat := List.replicate 256 0

/-- The inner product of two rows of transforms. -/
def nttDot (a b : List (List Nat)) : List Nat := (a.zip b).foldl (fun s p => polyAdd s (nttMul p.1 p.2)) polyZero

/-! ## Codes and samples -/

/-- Values of `d` bits as bytes, the lowest bits first. -/
def kemPack (d : Nat) (f : List Nat) : List Byte := bytesOf (d * f.length / 8) (f.foldr (fun x a => x + 2 ^ d * a) 0)
/-- 256 values of `d` bits. -/
def kemUnpack (d : Nat) (b : List Byte) : List Nat := (List.range 256).map fun i => natOf b / 2 ^ (d * i) % 2 ^ d

/-- Compression to `d` bits, and back. -/
def kemShrink (d x : Nat) : Nat := (2 ^ d * x + 1664) / kemQ % 2 ^ d
def kemGrow (d x : Nat) : Nat := (kemQ * x + 2 ^ (d - 1)) / 2 ^ d

/-- A uniform transform from a seed (SampleNTT); 280 triples of bytes are enough (FIPS 203, appendix B). -/
def sampleNtt (seed : List Byte) : List Nat :=
  ((pieces_ 3 280 (shake128 seed 840)).flatMap fun b => (let n := natOf b; [n % 4096, n / 4096]).filter (· < kemQ)).take 256

/-- A polynomial of the centred binomial noise of 2. -/
def sampleCbd (seed : List Byte) (n : Nat) : List Nat :=
  (kemUnpack 4 (shake256 (seed ++ bytesOf 1 n) 128)).map fun x => (x % 2 + x / 2 % 2 + kemQ - x / 4 % 2 - x / 8 % 2) % kemQ

/-- Row `i` of the matrix, or of its transpose. -/
def kemRow (rho : List Byte) (transposed : Bool) (i : Nat) : List (List Nat) :=
  (List.range 4).map fun j => sampleNtt (rho ++ (if transposed then [BitVec.ofNat 8 i, BitVec.ofNat 8 j] else [BitVec.ofNat 8 j, BitVec.ofNat 8 i]))

/-- Four polynomials of a packed string. -/
def kemUnpackAll (d : Nat) (b : List Byte) : List (List Nat) := (pieces_ (32 * d) 4 b).map (kemUnpack d)

/-! ## The scheme -/

/-- The secret transforms and the encapsulation key of a draw `d`. -/
def kemKeys (d : List Byte) : List (List Nat) × List Byte :=
  let g := sha3_512 (d ++ [4#8])
  let rho := g.take 32
  let sec := (List.range 4).map fun i => ntt (sampleCbd (g.drop 32) i)
  let t := (List.range 4).map fun i => polyAdd (nttDot (kemRow rho false i) sec) (ntt (sampleCbd (g.drop 32) (4 + i)))
  (sec, t.flatMap (kemPack 12) ++ rho)

/-- Encryption of a message of 32 bytes under an encapsulation key, with the coins `r`. -/
def kemEncrypt (ek m r : List Byte) : List Byte :=
  let y := (List.range 4).map fun i => ntt (sampleCbd r i)
  let u := (List.range 4).map fun i => polyAdd (intt (nttDot (kemRow (ek.drop 1536) true i) y)) (sampleCbd r (4 + i))
  let v := polyAdd (polyAdd (intt (nttDot (kemUnpackAll 12 ek) y)) (sampleCbd r 8)) ((kemUnpack 1 m).map (kemGrow 1))
  u.flatMap (fun p => kemPack 11 (p.map (kemShrink 11))) ++ kemPack 5 (v.map (kemShrink 5))

/-- Encapsulation with the draw `m`: the shared secret and the ciphertext. -/
def kemEncaps (ek m : List Byte) : List Byte × List Byte :=
  let g := sha3_512 (m ++ sha3_256 ek)
  (g.take 32, kemEncrypt ek m (g.drop 32))

/-- Decapsulation under the key pair of the draws `d` and `z`: the shared secret, or the secret of a rejected ciphertext. -/
def kemDecaps (d z ct : List Byte) : List Byte :=
  let (sec, ek) := kemKeys d
  let u := (kemUnpackAll 11 ct).map fun p => ntt (p.map (kemGrow 11))
  let v := (kemUnpack 5 (ct.drop 1408)).map (kemGrow 5)
  let m := kemPack 1 ((polySub v (intt (nttDot sec u))).map (kemShrink 1))
  let g := sha3_512 (m ++ sha3_256 ek)
  if kemEncrypt ek m (g.drop 32) = ct then g.take 32 else shake256 (z ++ ct) 32

end Sys2Proof.Machine
end

