-- ==== Sys2Proof/Machine/Sct.lean ====
section
/-! DEFINITION. The security controller: the commands of its mailbox (R413 to R415, R418) and the mooring (R427, R428). -/
namespace Sys2Proof.Machine
open Sys2Proof

def State.modSct (s : State) (f : Sct → Sct) : State := { s with sct := f s.sct }

/-! ## ML-KEM key pairs (R413, R427) -/

/-- The draws d and z of an ML-KEM key pair. -/
def kemDraws (p : BitVec 512) : List Byte × List Byte := (bytesOf 32 p.toNat, bytesOf 32 (p.toNat / 2 ^ 256))
/-- Its encapsulation key, and decapsulation under it. -/
def kemPublic (p : BitVec 512) : List Byte := (kemKeys (kemDraws p).1).2
def kemSecret (p : BitVec 512) (ct : List Byte) : BitVec 256 := hashOf (kemDecaps (kemDraws p).1 (kemDraws p).2 ct)
/-- A pair drawn from the random source. -/
def drawPair (fresh : Nat) : BitVec 512 := Config.freeRandom fresh ++ Config.freeRandom (fresh + 1)

/-! ## The mailbox (R414, R438) -/

/-- The step of a request: its code, and its arguments in the order of the table, one a word (log 64). -/
def sctStep (c : SctCmd) : Instr :=
  let a (i : Nat) : Nat := c.getD i 0
  match a 0 % 256 with
  | 1 => .wcreate (a 1)
  | 2 => .wdestroy (a 1)
  | 3 => .kbind (a 1)
  | 4 => .kscrub (a 1)
  | 5 => .fgrant (a 1) (a 2) (a 3)
  | 6 => .pcmset (a 1) (a 2)
  | 7 => .moor (a 1)
  | n => .sctBadCommand n

/-- The oldest request runs. -/
def State.sctNext (s : State) : State :=
  match s.sct.queue with
  | [] => s
  | c :: rest => (s.modSct fun x => { x with queue := rest, busy := true, stage := 0 }).postIn 0 (sctStep c)

/-- A write to SUBMIT: the request runs, or waits its turn. -/
def State.sctSubmit (s : State) : State :=
  let c : SctCmd := (List.range 8).map fun i => (s.sct.mailbox.get 0#64 i).toNat
  let s := s.modSct fun x => { x with queue := x.queue ++ [c] }
  if s.sct.busy then s else s.sctNext

/-- The running command ends with a STATUS, and with it the locks it holds; vector 1 of the physical function is told, and the
next one runs. -/
def State.sctDone (s : State) (status : Nat) : State :=
  ((s.modSct fun x => { x with busy := false, status := status, stage := 0, locked := [] }).condition 0 1).sctNext

/-- A command that runs on takes the decision lock of the VDs it touches (R309, R414; log 118). -/
def State.sctLock (s : State) (touched : Vd → Bool) : State :=
  s.modSct fun x => { x with locked := ((s.vds.filterMap Prod.snd).filter touched).map (·.vd) }

/-- A command that starts: `stage` is 0. -/
def State.sctRuns (s : State) (name : String) (o : Out') : Out' :=
  if s.sct.busy && s.sct.stage = 0 then o else .refused (.notEnabled name)

/-- STATUS of a refusal (R414). -/
abbrev badArg : Nat := 0x20
abbrev wrongState : Nat := 0x21
abbrev noResource : Nat := 0x22

/-! ## Worlds (R409, R413, R414) -/

def State.setWorld (s : State) (w : Nat) (x : Option World) : State := s.modSct fun c => { c with worlds := c.worlds.set none w x }

/-- WCREATE (R413, R414): the world is PENDING, with a key pair of its own. -/
def execWcreate (w : Nat) (s : State) : Out' :=
  s.sctRuns "WCREATE" (.next (
    if w < 1 ∨ 254 < w then s.sctDone badArg
    else if (s.world? w).isSome then s.sctDone wrongState
    else
      let p := drawPair s.fresh
      let s : State := { s with fresh := s.fresh + 2 }
      (s.setWorld w (some { pair := p, ek := sha256 (kemPublic p) })).sctDone 0))

/-- A tile, a VD or a BOUND key ID of a world exists; world 0 holds every tile that no tenant does. -/
def State.worldUsed (s : State) (w : Nat) : Bool :=
  w = 0 || (s.tiles.any fun e => e.2.seq.csr.ctx.world.toNat = w) || ((s.vds.filterMap Prod.snd).any fun v => v.world = w) ||
  s.sct.keys.any fun e => match e.2 with
    | .bound x _ => x = w
    | _ => false

/-- WDESTROY (R414): the keys of the world are erased, and it is absent. -/
def execWdestroy (w : Nat) (s : State) : Out' :=
  s.sctRuns "WDESTROY" (.next (
    if s.worldUsed w then s.sctDone wrongState else (s.setWorld w none).sctDone 0))

/-! ## Key IDs (R410, R414, R415) -/

/-- KBIND (R410, R414): the lowest FREE key ID, at its next epoch; STATUS[15:8] returns it. -/
def execKbind (w : Nat) (s : State) : Out' :=
  s.sctRuns "KBIND" (.next (
    if !(s.world? w).any (·.active) then s.sctDone wrongState
    else match ((List.range 254).map (· + 1)).find? fun i => s.sct.keys.get .free i = .free with
      | none => s.sctDone noResource
      | some i =>
        let e := (s.sct.epochs.get 0 i + 1) % 256
        (s.modSct fun x => { x with keys := x.keys.set .free i (.bound w e), epochs := x.epochs.set 0 i e }).sctDone (i * 256)))

def KeySt.isBound : KeySt → Bool
  | .bound _ _ => true
  | _ => false

/-- The world a key ID is bound to; world 0 for one that is not. -/
def Sct.keyWorld (x : Sct) (i : Nat) : Nat :=
  match x.keys.get .free i with
  | .bound w _ => w
  | _ => 0

/-- KSCRUB (R140, R414, R422): the keys are destroyed at once; the command ends when the SCRUB retires, within 10 µs. -/
def execKscrub (i : Nat) (s : State) : Out' :=
  if s.sct.busy && s.sct.stage = 1 then .next (s.sctDone 0)
  else s.sctRuns "KSCRUB" (.next (
    if !(s.sct.keys.get .free i).isBound then s.sctDone wrongState
    else
      let wait := min scrubLimit (Config.freeDelay s.fresh)
      let s := State.sctLock { s with fresh := s.fresh + 1 } (·.world = s.sct.keyWorld i)
      let s := (s.scrubKey i).modSct fun x => { x with stage := 1 }
      s.postIn wait (.kscrub i)))

/-- Ticks a frame takes (R415): 8 µs. -/
abbrev grantTicks : Nat := 800

/-- The home of an address is a stack that is lost. -/
def State.stackLost (s : State) (pa : Nat) : Bool :=
  match homeOf pa with
  | some (.stack n) => s.mem.lostStacks.contains n
  | _ => false

/-- A frame regranted (R415): its tag, its lines zero with fresh counters, and nothing left of what it held. -/
def State.grantFrame (s : State) (frame i : Nat) : State :=
  let mine (pa : Nat) : Bool := frameOf pa = frame
  let s := s.setTag frame i
  let cured := if s.stackLost (frame * 2 ^ 16) then (List.range 1024).foldl (fun c l => markIn c (frame * 1024 + l)) s.mem.cured else s.mem.cured
  s.modMem fun m => { m with
    cells := m.cells.filter fun c => !mine c.1
    comb := m.comb.filter fun e => !mine e.addr
    errs := m.errs.filter fun e => !mine (e.1 * 64)
    ctrs := m.ctrs.filter fun e => !mine (e.1 * 2048)
    upper := m.upperBut mine
    poison := m.poison.filter fun l => !mine (l * 64)
    cured := cured }

/-- A frame in motion, or beyond fitted capacity. -/
def State.cannotGrant (s : State) (frame : Nat) : Bool :=
  !s.present (frame * 2 ^ 16) || s.mig.any fun m => m.moving && (frameOf m.src = frame || frameOf m.req.dest = frame)

/-- FGRANT (R414, R415): frame by frame, in increasing PA, each after 8 µs. -/
def execFgrant (pa count i : Nat) (s : State) : Out' :=
  let again (s : State) (n : Nat) : State :=
    (s.modSct fun x => { x with stage := n }).postTick (s.tick + grantTicks) (.fgrant pa count i)
  if s.sct.busy && s.sct.stage ≠ 0 then
    let n := s.sct.stage
    let s := s.grantFrame (frameOf pa + n - 1) i
    .next (if n < count then again s (n + 1) else s.sctDone 0)
  else s.sctRuns "FGRANT" (.next (
    if !(s.sct.keys.get .free i).isBound ∧ i ≠ 0 ∧ i ≠ 255 then s.sctDone wrongState
    else if pa % 2 ^ 16 ≠ 0 ∨ count < 1 ∨ 2 ^ 20 < count then s.sctDone badArg
    else if (List.range count).any fun n => s.cannotGrant (frameOf pa + n) then s.sctDone badArg
    else again (s.sctLock (·.world = s.sct.keyWorld i)) 1))

/-! ## The partition matrix (R418) -/

/-- Accesses of a quire's tiles that have been checked and have not performed. -/
def State.checkedOf (s : State) (q : Nat) : List Waiter :=
  (s.tiles.filter fun e => quireOf e.1 = q).flatMap fun (t, x) =>
    ((x.seq.accs.filter fun a => a.open_ && a.parts.any fun p => p.tgt.any Target.isMem).map fun a => Waiter.acc (.tile t) a.id 0) ++
    [(CmdUnit.c0, x.c0), (CmdUnit.c1, x.c1)].flatMap fun (u, c) =>
      (c.lines.filter fun l => l.pieces.any fun p => p.srcT.any Target.isMem || p.dstT.any Target.isMem).map fun l => Waiter.lines t u [l.id]

/-- One of them is still to perform. -/
def State.stillOpen (s : State) : Waiter → Bool
  | .acc q id _ => (s.acc? q id).any Acc.open_
  | .lines t u ids => ((match u with
      | .c1 => (s.tile t).c1
      | _ => (s.tile t).c0).lines).any fun l => ids.contains l.id
  | _ => false

/-- A combined store of a quire's tiles, checked by cycle `at_`, has not come to its flush point (R268). -/
def State.combining (s : State) (q at_ : Nat) : Bool :=
  s.tiles.any fun e => quireOf e.1 = q && e.2.wbuf.any fun l => l.src.since ≤ at_ && l.tgt.isMem

/-- PCMSET (R414, R418, R433): the bits are replaced at once; the command ends when every access checked under the old ones
has performed. -/
def execPcmset (q mask : Nat) (s : State) : Out' :=
  let wait (s : State) : State :=
    if s.sct.old.any s.stillOpen || s.combining q s.sct.oldAt then s.postIn 1 (.pcmset q mask) else (s.modSct fun x => { x with old := [] }).sctDone 0
  if s.sct.busy && s.sct.stage = 1 then .next (wait s)
  else s.sctRuns "PCMSET" (.next (
    if 63 < q then s.sctDone badArg
    else
      let old := s.checkedOf q
      let s := (s.sctLock fun v => bitOf q v.quires).modSct fun x =>
        { x with pcm := x.pcm.set 0 q (mask % 2 ^ 48), stage := 1, old := old, oldAt := s.now }
      let hit := (s.vds.filterMap Prod.snd).filter fun v => bitOf q v.quires
      wait (hit.foldl (fun (s : State) v => s.postIn 0 (.tdispErrorEvent v.vd)) s)))

/-- A request with another code (R414). -/
def execSctBadCommand (_code : Nat) (s : State) : Out' := s.sctRuns "SCT_BAD_COMMAND" (.next (s.sctDone badArg))

/-! ## The mooring (R427, R428) -/

/-- Ticks a reply may take: 10 ms. -/
abbrev moorTicks : Nat := 1000000
/-- Event kind 11. -/
abbrev evMoorFail : Nat := 11

def State.mooring (s : State) (p : Nat) : Mooring := s.sct.moorings.get {} p
def State.modMooring (s : State) (p : Nat) (f : Mooring → Mooring) : State :=
  s.modSct fun x => { x with moorings := x.moorings.set {} p (f (x.moorings.get {} p)) }

/-- The measurement blocks 1 to 4 (R426). -/
def State.measurement (s : State) (i : Nat) : BitVec 256 :=
  match i with
  | 1 => Config.romDigest
  | 2 => Config.firmwareDigest
  | 3 => s.sct.microcode
  | _ => Config.fuseDigest

/-- An SPDM signature under the alias key (R412, R425). -/
def State.sign (s : State) (bs : List Byte) : List Byte := Config.slhSign s.aliasKey bs

/-- The bytes of a message of the mooring: the package, the nonce, what it carries of the key exchange, and the rest
(log 65). -/
def moorBytes (m : MoorMsg) : List Byte := bytesOf 2 m.peer ++ bytesOf 32 m.nonce ++ bytesOf 1568 m.keyBytes ++ m.rest

/-- Blocks 1 to 4, as a message holds them. -/
def State.moorBlocks (s : State) : List Byte := [1, 2, 3, 4].flatMap fun i => hashBytes (s.measurement i)

/-- Bytes of a signature. -/
abbrev moorSigLen : Nat := 17088

/-- The blocks of a message, before its signature. -/
def moorBlocksOf (m : MoorMsg) : List Byte := (m.rest.drop (m.rest.length - moorSigLen - 128)).take 128

/-- MOOR1 or MOOR2 is accepted: a chain to the Solfeco root and a good signature, which the message says as the chain's form is
not the manual's (log 65), and blocks 1 to 4 equal to this package's (R427). -/
def State.moorAccepts (s : State) (m : MoorMsg) : Bool := m.checksPass && moorBlocksOf m = s.moorBlocks

/-- A message of this package: its chain and blocks 1 to 4, signed with what came before. -/
def State.moorMsg (s : State) (before : List Byte) (nonce : BitVec 256) (key : List Byte) : MoorMsg :=
  let m : MoorMsg :=
    { peer := s.fabric.mypkg, nonce := nonce.toNat, keyBytes := natOf key, rest := Config.certChain ++ s.moorBlocks }
  { m with rest := m.rest ++ s.sign (before ++ moorBytes m) }

/-- A message to a peer has not been acknowledged. -/
def State.unacked (s : State) (p : Nat) : Bool := s.fabric.tx.any fun t => t.dst = p && t.seq.isSome && !t.acked

/-- The mooring ends without success: MOORFAIL; a command that waits for it ends. -/
def State.failMooring (s : State) (p : Nat) : State :=
  let mine := (s.mooring p).initiator && (s.mooring p).phase = 1
  let s := s.modMooring p fun m => { m with phase := if m.up then 3 else 0, initiator := false }
  let s := s.postEvent .pf evMoorFail 0 0 noTeam p 0
  if mine then s.sctDone 0 else s

/-- Success (R428): every link key to the peer is replaced at once, and SEQ and EPOCH of every lane restart at 0. -/
def State.moored (s : State) (p : Nat) : State :=
  let s := s.modMooring p fun m => { m with up := true, phase := 3, initiator := false, linkMs := m.ms, linkT := m.transcript }
  let s := s.modFab fun f => { f with
    txLanes := f.txLanes.filter fun e => e.1.1 ≠ p
    rx := f.rx.filter fun e => e.1.1 ≠ p
    frames := f.frames.filter fun e => e.2.all fun x => x.src ≠ p }
  -- what was kept back while the mooring waited is sealed now
  (s.fabric.tx.filter fun (t : TxMsg) => t.dst = p && t.seq.isNone).foldl (fun (s : State) t => s.postIn 0 (.messageSeal t.id)) s

/-- The value MOOR3 carries (R427): HMAC of T under KDF(MS, "CONF", empty). -/
def Mooring.confirm (x : Mooring) : BitVec 256 := hmacSha256 (kdf x.ms "CONF" []) (hashBytes x.transcript)

/-- The master secret MS (R427). -/
def moorSecret (ss : BitVec 256) (na nb a b : Nat) : BitVec 256 :=
  kdf ss "MOOR" (bytesOf 32 na ++ bytesOf 32 nb ++ bigBytes 2 a ++ bigBytes 2 b)

/-- MOOR (R414, R427): sends MOOR1, a second mooring once no message to the peer is unacknowledged (R428). -/
def execMoor (peer : Nat) (s : State) : Out' :=
  s.sctRuns "MOOR" (.next (
    if peer = s.fabric.mypkg ∨ 1024 ≤ peer then s.sctDone badArg
    else if (s.mooring peer).up && s.unacked peer then s.postIn 1 (.moor peer)
    else
      let na := Config.freeRandom s.fresh
      let p := drawPair (s.fresh + 1)
      let due := s.tick + moorTicks
      let one := s.moorMsg [] na (kemPublic p)
      let s : State := { s with fresh := s.fresh + 3 }
      let s := s.modSct fun x => { x with stage := 1 }
      let s := s.modMooring peer fun m => { m with
        initiator := true, phase := 1, nonce := na, pair := p, deadline := due, one := moorBytes one }
      (s.emit (.moor peer 1 one)).postTick due (.moorTimeout peer)))

/-- MOOR1 arrives (R427): the peer's chain and blocks are checked, and MOOR2 answers it. One that crosses a mooring of our
own to the same peer, or one that is just ending, is dropped. -/
def execMoor1 (m : MoorMsg) (s : State) : Out' :=
  if 1024 ≤ m.peer then .fault (.noSuchUnit "MOOR1" m.peer)
  else if [1, 4, 5].contains (s.mooring m.peer).phase then .next s
  else if !s.moorAccepts m then .next (s.failMooring m.peer)
  else
    let nb := Config.freeRandom s.fresh
    let (ss, ct) := kemEncaps (bytesOf 1568 m.keyBytes) (hashBytes (Config.freeRandom (s.fresh + 1)))
    let due := s.tick + moorTicks
    let two := s.moorMsg (moorBytes m) nb ct
    let s : State := { s with fresh := s.fresh + 2 }
    let s := s.modMooring m.peer fun x => { x with
      initiator := false, phase := 2, nonce := nb, deadline := due, transcript := sha256 (moorBytes m ++ moorBytes two)
      ms := moorSecret (hashOf ss) m.nonce nb.toNat m.peer s.fabric.mypkg }
    .next ((s.emit (.moor m.peer 2 two)).postTick due (.moorTimeout m.peer))

/-- The initiator's end: MOOR3 goes out and the mooring succeeds, a second one once no message to the peer is unacknowledged
(R428); meanwhile none is sealed (log 65). -/
def State.confirmMoor (s : State) (m : MoorMsg) : State :=
  if (s.mooring m.peer).up && s.unacked m.peer then (s.modMooring m.peer fun y => { y with phase := 4 }).postIn 1 (.moor2 m)
  else
    let three : MoorMsg := { peer := s.fabric.mypkg, keyBytes := (s.mooring m.peer).confirm.toNat }
    ((s.emit (.moor m.peer 3 three)).moored m.peer).sctDone 0

/-- MOOR2 arrives (R427): the initiator checks it, derives MS, confirms it by MOOR3, and the mooring succeeds. -/
def execMoor2 (m : MoorMsg) (s : State) : Out' :=
  let x := s.mooring m.peer
  if x.phase = 4 then .next (s.confirmMoor m)
  else if x.phase ≠ 1 then .refused (.notEnabled "MOOR2")
  else if !s.moorAccepts m then .next (s.failMooring m.peer)
  else
    let ms := moorSecret (kemSecret x.pair (bytesOf 1568 m.keyBytes)) x.nonce.toNat m.nonce s.fabric.mypkg m.peer
    .next ((s.modMooring m.peer fun y => { y with ms := ms, transcript := sha256 (x.one ++ moorBytes m) }).confirmMoor m)

/-- The peer's end: the mooring succeeds, a second one once no message to the initiator is unacknowledged (R428). -/
def State.endMoor (s : State) (m : MoorMsg) : State :=
  if (s.mooring m.peer).up && s.unacked m.peer then (s.modMooring m.peer fun y => { y with phase := 5 }).postIn 1 (.moor3 m)
  else s.moored m.peer

/-- MOOR3 arrives (R427, R428): its HMAC must be that of T under this side's MS, and the mooring succeeds. -/
def execMoor3 (m : MoorMsg) (s : State) : Out' :=
  let x := s.mooring m.peer
  if x.phase = 5 then .next (s.endMoor m)
  else if x.phase ≠ 2 then .refused (.notEnabled "MOOR3")
  else if m.keyBytes ≠ x.confirm.toNat then .next (s.failMooring m.peer)
  else .next (s.endMoor m)

/-- MOOR_TIMEOUT (R427): no reply has come within 10 ms. -/
def execMoorTimeout (peer : Nat) (s : State) : Out' :=
  let x := s.mooring peer
  if (x.phase = 1 ∨ x.phase = 2) ∧ x.deadline ≤ s.tick then .next (s.failMooring peer) else .refused (.notEnabled "MOOR_TIMEOUT")

end Sys2Proof.Machine
end

