-- ==== Sys2Proof/Machine/Spdm.lean ====
section
/-! DEFINITION. SPDM 1.3 over DOE (R413, R425, R426): whole messages, and the transcripts that signatures cover. The layouts are
those of the standard (log 66). -/
namespace Sys2Proof.Machine
open Sys2Proof

/-- The part has halted in a bring-up stage (R438). -/
def State.halted (s : State) : Bool := s.power.bootReason = 1 || s.power.bootReason = 2 || s.power.bootReason = 4

/-! ## Messages -/

/-- A message of SPDM 1.3: version, code, two parameters, and the rest. -/
def spdmMsg (code p1 p2 : Nat) (rest : List Byte) : List Byte := [0x13, code, p1, p2].map (BitVec.ofNat 8) ++ rest

def State.spdmLog (s : State) (fn : Nat) : SpdmLog := s.sct.spdm.get {} fn
def State.modSpdm (s : State) (fn : Nat) (f : SpdmLog → SpdmLog) : State :=
  s.modSct fun x => { x with spdm := x.spdm.set {} fn (f (x.spdm.get {} fn)) }

/-- A response leaves on a function. -/
def State.spdmSend (s : State) (fn : Nat) (m : List Byte) : State := s.emit (.spdm fn (field m 1 1) m)

/-- ERROR, with its codes InvalidRequest and UnsupportedRequest. -/
abbrev spdmInvalid : Nat := 0x01
abbrev spdmUnknown : Nat := 0x07
def State.spdmFail (s : State) (fn err data : Nat) : State := s.spdmSend fn (spdmMsg 0x7F err data [])

/-- A request over DOE: a halted part answers none but GET_MEASUREMENTS, and virtual functions are there from stage 5 (R438). A
request of another kind ends a run of measurements. -/
def State.spdm (s : State) (name : String) (fn : Nat) (answer : State → State) : Out' :=
  if 64 ≤ fn then .fault (.noSuchUnit name fn)
  else if s.halted || (fn ≠ 0 && s.power.stage < 5) then .next s
  else .next (answer (s.modSpdm fn fun l => { l with meas := [] }))

/-- A draw of the random source. -/
def State.draw (s : State) : State × BitVec 256 := ({ s with fresh := s.fresh + 1 }, Config.freeRandom s.fresh)

/-- What a signature covers: the name of the protocol four times, zeros, what is signed, and the hash of the messages. -/
def spdmSigned (what : String) (messages : List Byte) : List Byte :=
  let text (x : String) : List Byte := x.toList.map fun c => BitVec.ofNat 8 c.toNat
  let name := text "dmtf-spdm-v1.3.*"
  name ++ name ++ name ++ name ++ List.replicate (36 - what.length) 0#8 ++ text what ++ hashBytes (sha256 messages)

/-! ## SETWK (R413) -/

/-- A SETWK body in its form: the world it names with its new keys, or none. -/
def State.setwkWorld (s : State) (b : List Byte) : Option (Nat × World) :=
  let w := field b 0 1
  let n := field b 2 1
  if field b 1 1 < 2 ∧ 1 ≤ n ∧ n ≤ 8 ∧ field b 3 1 = 0 ∧ b.length = 1612 + 32 * n then
    match s.world? w with
    | none => none
    | some x =>
      if x.active then none
      else
        let ss := kemSecret x.pair (slice b 4 1568)
        match (aesUnwrap (hashBytes (kdf ss "WRAP" (bytesOf 1 w))) (slice b 1572 40)).map hashOf with
        | none => none
        | some wk => some (w,
          { active := true, ek := x.ek, plain := field b 1 1 = 1, signers := (pieces_ 32 n (b.drop 1612)).map hashOf, wk := wk
            cv := BitVec.ofNat 128 (kdf wk "CHECK" (bytesOf 1 w)).toNat })
  else none

/-- SETWK (R413): a PENDING world becomes ACTIVE; any other body is answered with an error and changes nothing. -/
def execSetwk (fn : Nat) (body : List Byte) (s : State) : Out' :=
  s.spdm "SETWK" fn fun s => match s.setwkWorld body with
    | some (w, x) => (s.setWorld w (some x)).spdmSend fn (spdmMsg 0x7E 0 0 (Config.spdmVendor ++ bytesOf 2 0))
    | none => s.spdmFail fn spdmInvalid 0

/-! ## Version, capabilities and algorithms (R425) -/

/-- GET_VERSION: version 1.3; the transcripts begin anew. -/
def execGetVersion (fn : Nat) (s : State) : Out' :=
  s.spdm "GET_VERSION" fn fun s =>
    let ask : List Byte := [0x10#8, 0x84#8, 0#8, 0#8]
    let rsp : List Byte := [0x10#8, 0x04#8, 0#8, 0#8, 0#8, 1#8, 0x00#8, 0x13#8]
    (s.modSpdm fn fun _ => { vca := ask ++ rsp }).spdmSend fn rsp

/-- An answer that joins the first transcript. -/
def State.spdmJoin (s : State) (r : SpdmReq) (rsp : List Byte) : State :=
  (s.modSpdm r.fn fun l => { l with vca := l.vca ++ r.bytes ++ rsp }).spdmSend r.fn rsp

/-- GET_CAPABILITIES: certificates, challenges, signed measurements, and no sessions. -/
def execGetCapabilities (r : SpdmReq) (s : State) : Out' :=
  s.spdm "GET_CAPABILITIES" r.fn fun s => s.spdmJoin r (spdmMsg 0x61 0 0
    (bytesOf 1 0 ++ bytesOf 1 Config.spdmTimeout ++ bytesOf 2 0 ++ bytesOf 4 0x16 ++ bytesOf 4 Config.spdmSize ++ bytesOf 4 Config.spdmSize))

/-- The extended asymmetric algorithms a NEGOTIATE_ALGORITHMS offers. -/
def offeredAlgs (req : List Byte) : List Nat := (pieces_ 4 (field req 28 1) (req.drop 32)).map natOf

/-- ALGORITHMS: of what a request offers, DMTF measurements, SHA-256, and SLH-DSA-SHA2-128f as the extended asymmetric
algorithm. -/
def algorithms (req : List Byte) : List Byte :=
  let alg := Config.spdmAlgorithm % 2 ^ 32
  let ext : List Byte := if (offeredAlgs req).contains alg then bytesOf 4 alg else []
  spdmMsg 0x63 0 0 (bytesOf 2 (36 + ext.length) ++ bytesOf 1 (field req 6 1 % 2) ++ bytesOf 1 0 ++ bytesOf 4 2 ++ bytesOf 4 0 ++
    bytesOf 4 (field req 12 4 % 2) ++ bytesOf 12 0 ++ bytesOf 1 (ext.length / 4) ++ bytesOf 1 0 ++ bytesOf 2 0 ++ ext)

/-- NEGOTIATE_ALGORITHMS. -/
def execNegotiateAlgorithms (r : SpdmReq) (s : State) : Out' :=
  s.spdm "NEGOTIATE_ALGORITHMS" r.fn fun s => s.spdmJoin r (algorithms r.bytes)

/-! ## The chain of slot 0 (R425) -/

/-- An answer that joins the transcript of the certificates. -/
def State.spdmCert (s : State) (fn : Nat) (req rsp : List Byte) : State :=
  (s.modSpdm fn fun l => { l with certs := l.certs ++ req ++ rsp }).spdmSend fn rsp

/-- The digest of the chain. -/
def chainHash : List Byte := hashBytes (sha256 Config.certChain)

/-- GET_DIGESTS: slot 0 alone is supported and filled. -/
def execGetDigests (fn : Nat) (s : State) : Out' :=
  s.spdm "GET_DIGESTS" fn fun s => s.spdmCert fn (spdmMsg 0x81 0 0 []) (spdmMsg 0x01 1 1 chainHash)

/-- GET_CERTIFICATE: a portion of the chain, and how much remains behind it. -/
def execGetCertificate (fn slot off len : Nat) (s : State) : Out' :=
  s.spdm "GET_CERTIFICATE" fn fun s =>
    if slot ≠ 0 ∨ Config.certChain.length ≤ off then s.spdmFail fn spdmInvalid 0
    else
      let portion := slice Config.certChain off (min len (Config.certChain.length - off))
      s.spdmCert fn (spdmMsg 0x82 0 0 (bytesOf 2 off ++ bytesOf 2 len))
        (spdmMsg 0x02 0 0 (bytesOf 2 portion.length ++ bytesOf 2 (Config.certChain.length - off - portion.length) ++ portion))

/-! ## Measurements (R426) -/

/-- Block 5: of the world of the function's VD. -/
def State.block5 (s : State) (fn : Nat) : List Byte :=
  let none_ : List Byte := List.replicate 115 0#8
  match s.vd? fn with
  | none => none_
  | some v => match s.world? v.world with
    | none => none_
    | some x =>
      bytesOf 1 v.world ++ bytesOf 1 (if x.active then 2 else 1) ++ bytesOf 1 (if x.plain then 1 else 0) ++ bytesOf 32 x.ek.toNat ++
      bytesOf 16 x.cv.toNat ++ bytesOf 32 (sha256 (x.signers.flatMap fun h => bytesOf 32 h.toNat)).toNat ++ bytesOf 32 x.mchain.toNat

/-- The blocks that have been measured (R438). -/
def State.measured (s : State) : List Nat :=
  match s.power.stage with
  | 1 => [1]
  | 2 => [1, 2]
  | 3 | 4 => [1, 2, 4]
  | _ => [1, 2, 3, 4, 5]

def State.block (s : State) (fn i : Nat) : List Byte := if i = 5 then s.block5 fn else hashBytes (s.measurement i)

/-- A measurement block as a response holds it: index, DMTF's specification, and the kind, size and bytes of the value. Blocks 1
to 4 are digests: of ROM, of firmware twice, and of a hardware configuration; block 5 is raw. -/
def State.spdmBlock (s : State) (fn i : Nat) : List Byte :=
  let kind := match i with
    | 1 => 0
    | 2 | 3 => 1
    | 4 => 2
    | _ => 0x83
  let b := s.block fn i
  bytesOf 1 i ++ bytesOf 1 1 ++ bytesOf 2 (3 + b.length) ++ bytesOf 1 kind ++ bytesOf 2 b.length ++ b

def State.spdmBlocks (s : State) (fn : Nat) (l : List Nat) : List Byte := l.flatMap (s.spdmBlock fn)

/-- MEASUREMENTS without its signature: index 0 asks how many blocks there are, 0xFF for all, else for one; none where the part
has none of that index. -/
def State.measurements (s : State) (fn index nonce context : Nat) : Option (List Byte) :=
  let l := if index = 0 then [] else if index = 0xFF then s.measured else s.measured.filter (· = index)
  if l.isEmpty ∧ index ≠ 0 then none
  else
    let record := s.spdmBlocks fn l
    some (spdmMsg 0x60 (if index = 0 then s.measured.length else 0) 0
      (bytesOf 1 l.length ++ bytesOf 3 record.length ++ record ++ bytesOf 32 nonce ++ bytesOf 2 0 ++ bytesOf 8 context))

/-- The request as it stands in the transcript; a nonce and a slot are there where a signature is asked for. -/
def measurementsAsked (index : Nat) (a : SpdmAsk) : List Byte :=
  spdmMsg 0xE0 a.kind index ((if a.kind % 2 = 1 then bytesOf 32 a.nonce ++ bytesOf 1 a.slot else []) ++ bytesOf 8 a.context)

/-- GET_MEASUREMENTS (R425, R426, R438): bit 0 of the attributes asks for a signature, over the measurements asked for since the last
one. -/
def execGetMeasurements (fn index : Nat) (ask : SpdmAsk) (s : State) : Out' :=
  if 64 ≤ fn then .fault (.noSuchUnit "GET_MEASUREMENTS" fn)
  else if fn ≠ 0 && s.power.stage < 5 then .next s
  else
    let (s, mine) := s.draw
    match s.measurements fn index mine.toNat ask.context with
    | none => .next (s.spdmFail fn spdmInvalid 0)
    | some m =>
      let l := s.spdmLog fn
      let all := l.meas ++ measurementsAsked index ask ++ m
      .next (
        if ask.kind % 2 = 0 then (s.modSpdm fn fun l => { l with meas := all }).spdmSend fn m
        else if ask.slot ≠ 0 then s.spdmFail fn spdmInvalid 0
        else
          let sig := s.sign (spdmSigned "responder-measurements signing" (l.vca ++ all))
          (s.modSpdm fn fun l => { l with meas := [] }).spdmSend fn (m ++ sig))

/-! ## CHALLENGE (R425) -/

/-- The summary a challenge asks for: none, or the hash of the blocks (`kind` 1 or 0xFF; log 66). -/
def State.summary (s : State) (fn kind : Nat) : List Byte :=
  if kind = 0 then [] else hashBytes (sha256 (s.spdmBlocks fn s.measured))

/-- CHALLENGE_AUTH without its signature. -/
def State.challengeAuth (s : State) (fn kind nonce context : Nat) : List Byte :=
  spdmMsg 0x03 0 1 (chainHash ++ bytesOf 32 nonce ++ s.summary fn kind ++ bytesOf 2 0 ++ bytesOf 8 context)

/-- CHALLENGE: CHALLENGE_AUTH, signed under the alias key with all that came before. -/
def execChallenge (fn slot : Nat) (ask : SpdmAsk) (s : State) : Out' :=
  s.spdm "CHALLENGE" fn fun s =>
    if slot ≠ 0 ∨ ask.kind ∉ [0, 1, 0xFF] then s.spdmFail fn spdmInvalid 0
    else
      let (s, mine) := s.draw
      let l := s.spdmLog fn
      let req := spdmMsg 0x83 slot ask.kind (bytesOf 32 ask.nonce ++ bytesOf 8 ask.context)
      let m := s.challengeAuth fn ask.kind mine.toNat ask.context
      let sig := s.sign (spdmSigned "responder-challenge_auth signing" (l.vca ++ l.certs ++ req ++ m))
      (s.modSpdm fn fun l => { l with certs := [] }).spdmSend fn (m ++ sig)

/-- Every other request (R425): ERROR UnsupportedRequest. -/
def execSpdmUnsupported (fn code : Nat) (s : State) : Out' :=
  s.spdm "SPDM_UNSUPPORTED" fn fun s => s.spdmFail fn spdmUnknown code

end Sys2Proof.Machine
end

