-- ==== Sys2Proof/Machine/HostFn.lean ====
section
/-! DEFINITION. What the host does to the part (R430 to R434, R438 to R440, R444, R11): TDISP, apertures, interrupts,
registers, resets, bring-up and power. -/
namespace Sys2Proof.Machine
open Sys2Proof

/-! ## TDISP (R433) -/

/-- Response codes of TDISP (log 66). -/
abbrev tdispError : Nat := 0x7F

/-- A virtual function's step: functions are 1 to 63, and there from stage 5 of bring-up (R431, R438). -/
def State.vfStep (s : State) (name : String) (n : Nat) (o : Out') : Out' :=
  if n = 0 ∨ 64 ≤ n then .fault (.noSuchUnit name n) else if s.power.stage < 5 then .next s else o

/-- LOCK_INTERFACE_REQUEST. -/
def execLockInterfaceRequest (vf : Nat) (s : State) : Out' :=
  s.vfStep "LOCK_INTERFACE_REQUEST" vf (.next (
    if (s.vf vf).tdisp = .unlocked ∧ !(s.vf vf).stopping then
      (s.modVf vf fun f => { f with tdisp := .locked }).emit (.tdisp vf 0x03 [])
    else s.emit (.tdisp vf tdispError [])))

/-- START_INTERFACE_REQUEST: whether the IDE stream keys are set is the host's and is free. -/
def execStartInterfaceRequest (vf : Nat) (s : State) : Out' :=
  s.vfStep "START_INTERFACE_REQUEST" vf (.next (
    let keys := (Config.freeWord s.fresh).getLsbD 0
    if (s.vf vf).tdisp = .locked ∧ !(s.vf vf).stopping then
      let s : State := { s with fresh := s.fresh + 1 }
      if keys then (s.modVf vf fun f => { f with tdisp := .run }).emit (.tdisp vf 0x06 [])
      else s.emit (.tdisp vf tdispError [])
    else s.emit (.tdisp vf tdispError [])))

/-- GET_DEVICE_INTERFACE_REPORT: the BAR ranges and block 5. -/
def execGetDeviceInterfaceReport (vf : Nat) (s : State) : Out' :=
  s.vfStep "GET_DEVICE_INTERFACE_REPORT" vf
    (.next (s.emit (.tdisp vf 0x04 (bytesOf 8 (2 ^ 16) ++ bytesOf 8 (2 ^ 40) ++ s.block5 vf))))

/-- A reconfiguration, a PCMSET or an IDE failure: ERROR, and channels that are served abort (R433, R437). -/
def execTdispErrorEvent (vf : Nat) (s : State) : Out' :=
  if vf = 0 ∨ 64 ≤ vf then .fault (.noSuchUnit "TDISP_ERROR_EVENT" vf)
  else if (s.vf vf).tdisp = .locked ∨ (s.vf vf).tdisp = .run then
    let s := s.modVf vf fun f => { f with tdisp := .error }
    .next (match s.vd? vf with
      | some v => s.abortChans v
      | none => s)
  else .refused (.notEnabled "TDISP_ERROR_EVENT")

/-- Packets not yet started are reported with CANCELLED; one whose launch waits ends with it. -/
def State.stopPackets (s : State) (v : Vd) : State :=
  (v.jrnl.filter fun x => x.st = PktSt.accepted).foldl (fun (s : State) x =>
    match s.builtBy v.vd x with
    | some l => if l.st = .waiting then s.completeLaunch l cancelled (s.tick + 1) else s
    | none => s.endPkt (x.id v.vd) cancelled) s

/-- Running teams are halted and discarded without relaunch. -/
def State.stopTeams (s : State) (v : Vd) : State :=
  (s.launches.filter fun l => l.vd = v.vd && l.st != LaunchSt.done && l.st != LaunchSt.waiting).foldl (fun (s : State) l =>
    match s.launch? l.id with
    | some l => (s.cancelLaunch v l).1
    | none => s) s

/-- The effects of a STOP, once. -/
def State.beginStop (s : State) (n : Nat) : State :=
  let clear (s : State) : State := s.modVf n fun f => { f with
    stopping := true, vectors := f.vectors.filterMap fun e =>
      let v : Vector_ := { e.2 with pending := false }
      if v = {} then none else some (e.1, v) }
  match s.vd? n with
  | none => clear s
  | some v =>
    let s := s.modVd n fun v => { v with st := 3 }
    let s := (((s.stopPackets v).stopTeams v).writeBackAll fun _ => true).putStatus n
    (clear s).abortChans v

/-- A STOP ends once the VD's tiles have drained: CONFIG_UNLOCKED, and its answer. Until then it is looked at every tick. -/
def State.stopOn (s : State) (n : Nat) : State :=
  if s.tilesHeld n = 0 then
    let answer := (s.vf n).stopAsked
    let s := s.modVf n fun f => { f with stopping := false, stopAsked := false, tdisp := .unlocked }
    let s := (s.modVd n fun v => { v with st := 1 }).putStatus n
    (if answer then s.emit (.tdisp n 0x07 []) else s).retryAll
  else (s.modVf n fun f => { f with stopAt := s.tick + 1 }).postTick (s.tick + 1) (.stopInterfaceRequest n)

/-- A STOP of this function is under way and not to be looked at yet. -/
def State.stopWaits (s : State) (n : Nat) : Bool := (s.vf n).stopping && s.tick < (s.vf n).stopAt

/-- STOP_INTERFACE_REQUEST; one that comes while a STOP is under way is answered with it. -/
def execStopInterfaceRequest (vf : Nat) (s : State) : Out' :=
  s.vfStep "STOP_INTERFACE_REQUEST" vf (.next (
    let asked (s : State) : State := s.modVf vf fun f => { f with stopAsked := true }
    if s.stopWaits vf then asked s
    else (if (s.vf vf).stopping then s else asked (s.beginStop vf)).stopOn vf))

/-- VF_FLR (R439): as STOP, which no message has asked for and none answers; a dump in progress is abandoned. -/
def execVfFlr (vf : Nat) (s : State) : Out' :=
  s.vfStep "VF_FLR" vf (.next (
    let s := match s.vd? vf with
      | some v => (s.launches.filter fun (l : Launch) => l.vd = vf && l.st = LaunchSt.dumping && l.dumpStep ≠ 9).foldl
          (fun (s : State) l => s.failDump v l cancelled) s
      | none => s
    if (s.vf vf).stopping then s else (s.beginStop vf).stopOn vf))

/-! ## Apertures (R432, R444) -/

/-- The key IDs a TDISP state admits. -/
def State.apertureKey (s : State) (r : ApReq) (v : Vd) (key : Nat) : Bool :=
  match (s.vf r.vf).tdisp with
  | .unlocked | .locked => key = 255
  | .run => key = 255 || (r.ide && match s.sct.keys.get .free key with
      | .bound w _ => w = v.world
      | _ => false)
  | .error => false

/-- A part of a request as D0 translates it: its place, its attributes and the cycles translation adds; none where R346 or
the key ID refuses it. -/
def State.aperturePart (s : State) (r : ApReq) (v : Vd) (atom write : Bool) (a : Nat) : State × Option (Target × PageAttr × Nat) :=
  if a / 2 ^ 56 ≠ 0 then (s, none)
  else
    let passes (t : Target) (at_ : PageAttr) : Bool :=
      let rights := if atom then at_.r && at_.w && at_.typ ≠ 1 else if write then at_.w else at_.r
      rights && s.apertureKey r v at_.keyId &&
        (s.pageCheck v.agent v.world t { at_ with r := true, w := true } (if write then .write else .read)).isNone
    let (s, x) : State × Xlat := match s.lookup false { die := 0 } v.ctx a passes with
      | (s, .miss) =>
        let add := s.walkTime 0 v.ctx a
        let (s, o) := s.walk 0 v.ctx a
        match o.fin with
        | .leaf bits tgt attr =>
          let t := tgt.plus (a % 2 ^ bits)
          (s.startWalk 0 v.ctx a (.aperture (passes t attr)), .ok t attr add)
        | .delegated attr => match s.hostNow r.vf v.ctx a attr passes with
          | (s, .ok e) =>
            let s := if passes e.tgt e.attr then s.modDie 0 fun d => { d with tlb := addTlb 4096 d.tlb e } else s
            (s, .ok (e.tgt.plus (a % 2 ^ e.bits)) e.attr add)
          | (s, .error c) => (s, .fault c add)
        | .fault c => (s.startWalk 0 v.ctx a (.aperture false), .fault c add)
      | r => r
    match x with
    | .ok t at_ add => (s, if passes t at_ then some (t, at_, add) else none)
    | _ => (s, none)

/-- Every part of a request, with the longest time translation adds. -/
def State.apertureParts (s : State) (r : ApReq) (v : Vd) (atom write : Bool) :
    State × Option (List (AccPart × Target × PageAttr) × Nat) :=
  (runParts r.off r.len).foldl (fun (x : State × Option (List (AccPart × Target × PageAttr) × Nat)) p =>
    match x with
    | (s, some (l, n)) => match s.aperturePart r v atom write p.addr with
      | (s, some (t, a, add)) => (s, some (l ++ [(p, t, a)], max n add))
      | (s, none) => (s, none)
    | x => x) (s, some ([], 0))

/-- The cycle in which a request that arrives now performs: after its translation and the way to its home, and after the
earlier posted writes of its function. -/
def State.apertureDue (s : State) (r : ApReq) (k : LatKind) (add : Nat) (ps : List (AccPart × Target × PageAttr)) : State × Nat :=
  ps.foldl (fun (x : State × Nat) p =>
    let (s, n) := x.1.performLat 0 0 p.2.1 k
    (s, max x.2 (s.now + add + n))) (s, max s.now (s.vf r.vf).apWrite)

/-- A request that performs behind a posted write of its function which waits for a peer, or behind one that waits so, waits
too; the oldest goes on first (R432). -/
def State.behindWrite (s : State) (r : ApReq) (op : Nat) : Bool :=
  s.hostBusy r.vf || (s.vf r.vf).apWait.head?.any (· ≠ (r, op))

/-- A request takes its turn: none where it has to wait. -/
def State.takeTurn (s : State) (r : ApReq) (op : Nat) : State × Bool :=
  if s.behindWrite r op then
    (s.modVf r.vf fun f => { f with apWait := if f.apWait.contains (r, op) then f.apWait else f.apWait ++ [(r, op)] }, false)
  else (s.modVf r.vf fun f => { f with apWait := f.apWait.drop 1 }, true)

/-- The one run of bytes of a peer that a request's parts are: package, PA and key ID. -/
def peerRun (ps : List (AccPart × Target × PageAttr)) : Option (Nat × Nat × Nat) :=
  match ps with
  | (p, .peer pkg pa, a) :: _ =>
    if ps.all fun x => x.2.1 = .peer pkg (pa + (x.1.addr - p.addr)) then some (pkg, pa, a.keyId) else none
  | _ => none

/-- Ask a peer for what a request wants, as the keeper of D0 would (R400, R444). -/
def State.askPeer (s : State) (r : ApReq) (v : Vd) (op pkg : Nat) (m : Message) : State :=
  match s.vdSend v pkg m (some (.host r op)) with
  | (s, .error _) => s.refuseAperture r (op = 1)
  | (s, .ok ()) => s

/-- The frame of the steps of a request, `op` as in Waiter.host: `arrive` when it comes, `act` when it performs; one to a peer
is sent as `m` says, and waits for the answer. -/
def State.aperture (s : State) (name : String) (r : ApReq) (op : Nat) (m : Nat → Nat → Message)
    (arrive act : State → Vd → List (AccPart × Target × PageAttr) → Nat → State) : Out' :=
  s.vfStep name r.vf (.next (match s.vd? r.vf with
    | none => s.refuseAperture r (op = 1)
    | some v =>
      let v : Vd := { v with home := 0, acting := 0 }
      if 2 ^ 40 < r.off + r.len then s.refuseAperture r (op = 1)
      else if r.arrived then match s.apertureParts r v (op = 2) (op = 1) with
        | (s, none) => s.refuseAperture r (op = 1)
        | (s, some (ps, add)) => arrive s v ps add
      else match s.takeTurn r op with
        | (s, false) => s
        | (s, true) => (match s.apertureParts r v (op = 2) (op = 1) with
          | (s, none) => s.refuseAperture r (op = 1)
          | (s, some (ps, add)) => match peerRun ps with
            | some (pkg, pa, key) => s.askPeer r v op pkg (m pa key)
            | none => act s v ps add).nextHost r.vf))

/-- A completion leaves D0 after the way back from the last home. -/
def State.apertureReply (s : State) (r : ApReq) (k : LatKind) (ps : List (AccPart × Target × PageAttr)) (bs : List Byte) (bad : Bool) :
    State :=
  let back := (ps.map fun p => returnLat 0 0 p.2.1 k).foldl max 0
  s.postIn back (.apertureRead { r with arrived := false, data := bs, fn := if bad then 1 else 0 })

/-- What a read of one part finds: bytes and EP, or a refusal; a peer, where only some parts are one's, is asked as the keeper
asks it (log 61). -/
def State.apertureTake (s : State) (v : Vd) (p : AccPart × Target × PageAttr) : State × Option (List Byte × Bool) :=
  match p.2.1 with
  | .mem pa => match s.homeCheck pa p.2.2.keyId with
    | some _ => (s, none)
    | none => match s.homeRead true pa p.1.len p.2.2.keyId with
      | (s, .ok r) => (s, some r)
      | (s, _) => (s, some (bytesOf p.1.len 0, true))
  | .host a => let (s, bs) := s.readHost a p.1.len; (s, some (bs, false))
  | .peer _ _ => match s.vdReadPart v p.1 with
    | (s, .ok bs) => (s, some (bs, false))
    | (s, .error _) => (s, none)
  | _ => (s, none)

/-- APERTURE_READ (R432, R444): translated at D0, read at its home, and completed; poisoned data sets EP. -/
def execApertureRead (r : ApReq) (s : State) : Out' :=
  if !r.arrived ∧ !r.data.isEmpty then .next (s.emit (.apReply r.vf r.tag r.data (r.fn = 1)))
  else s.aperture "APERTURE_READ" r 0 (fun pa key => { op := .readReq, keyId := key, len := r.len, pa := pa })
    (fun s _ ps add =>
      let (s, due) := s.apertureDue r .load add ps
      s.post due (.apertureRead { r with arrived := false, data := [] }))
    (fun s v ps _ =>
      let (s, x) := ps.foldl (fun (x : State × Option (List Byte × Bool)) p =>
        match x with
        | (s, some (acc, bad)) => match s.apertureTake v p with
          | (s, some (bs, b)) => (s, some (acc ++ bs, bad || b))
          | (s, none) => (s, none)
        | x => x) (s, some ([], false))
      match x with
      | none => s.refuseAperture r false
      | some ([], _) => s.emit (.apReply r.vf r.tag [] false)
      | some (bs, bad) => s.apertureReply r .load ps bs bad)

/-- One part of a posted write at its home. -/
def State.aperturePut (s : State) (r : ApReq) (v : Vd) (p : AccPart × Target × PageAttr) : State :=
  let bs := (r.data.drop (p.1.addr - r.off)).take p.1.len
  match p.2.1 with
  | .mem pa => match s.homeWriteNow true false false pa p.2.2.keyId bs with
    | (s, .ok ()) => s.notifyWrite pa bs
    | (s, .fault _) | (s, .held _) => s.refuseAperture r true
  | .host a => s.writeHost a bs
  | _ => (s.vdWritePart v p.1.addr bs).1

/-- APERTURE_WRITE (R432, R444): posted writes of a function perform in their arrival order. -/
def execApertureWrite (r : ApReq) (s : State) : Out' :=
  let r := { r with len := r.data.length }
  s.aperture "APERTURE_WRITE" r 1 (fun pa key => { op := .write, keyId := key, len := r.len, pa := pa, data := r.data })
    (fun s _ ps add =>
      let (s, due) := s.apertureDue r .store add ps
      (s.modVf r.vf fun f => { f with apWrite := due }).post due (.apertureWrite { r with arrived := false }))
    (fun s v ps _ => ps.foldl (fun (s : State) p => s.aperturePut r v p) s)

/-- The atomic of a request: FetchAdd, Swap or CAS (R430). -/
def apertureOp (r : ApReq) : AtomOp :=
  match r.fn with
  | 0 => .fn 0
  | 1 => .fn 8
  | _ => .cas r.cmp

/-- An AtomicOp the part supports: FetchAdd, Swap or CAS of 4 or 8 aligned bytes (R430). -/
def apSupported (r : ApReq) : Bool := (r.len = 4 || r.len = 8) && r.off % r.len = 0 && r.fn ≤ 2

/-- APERTURE_ATOMIC (R430, R432, R444): at the controller of its home, whatever SA and A hold; one the part does not support
completes with Unsupported Request, and is none of the refusals APDROP counts (R431). -/
def execApertureAtomic (r : ApReq) (s : State) : Out' :=
  if !apSupported r then s.vfStep "APERTURE_ATOMIC" r.vf (.next (s.emit (.apRefused r.vf r.tag)))
  else s.aperture "APERTURE_ATOMIC" r 2 (fun pa key => (apertureOp r).message r.len true key pa (natOf r.data))
    (fun s _ ps add =>
      let (s, due) := s.apertureDue r .atomic add ps
      s.post due (.apertureAtomic { r with arrived := false }))
    (fun s _ ps _ =>
      match ps with
      | [p] =>
        match p.2.1 with
        | .mem pa => match s.homeCheck pa p.2.2.keyId with
          | some _ => s.refuseAperture r false
          | none => match s.homeAtomic true true pa r.len p.2.2.keyId (apertureOp r) (natOf r.data) with
            | (s, .ok old) => s.apertureReply r .atomic ps (bytesOf r.len old) false
            | (s, .fault _) =>
              let (s, bs) := s.peerBytes r.len
              s.apertureReply r .atomic ps bs true
            | (s, .held _) => s.postIn 1 (.apertureAtomic r)
        | .host a =>
          let (s, bs) := s.readHost a r.len
          let s := match (apertureOp r).new r.len (natOf bs) (natOf r.data) with
            | some n => s.writeHost a (bytesOf r.len n)
            | none => s
          s.apertureReply r .atomic ps bs false
        | _ => s.refuseAperture r false
      | _ => s.refuseAperture r false)

/-! ## Interrupts (R434) -/

/-- A vector whose messages are held: masked, or of a function in ERROR (R433, R434). -/
def State.vectorHeld (s : State) (fn : Nat) (v : Vector_) : Bool := v.masked || (fn ≠ 0 && (s.vf fn).tdisp = .error)

def State.setVector (s : State) (fn n : Nat) (v : Vector_) : State := s.modVf fn fun f => { f with vectors := f.vectors.set {} n v }

/-- MSIX_SEND (R434): one message for all the conditions so far, or the pending bit. -/
def execMsixSend (fn n : Nat) (s : State) : Out' :=
  if 64 ≤ fn ∨ vectorsOf fn ≤ n then .fault (.noSuchUnit "MSIX_SEND" n)
  else
    let v := (s.vf fn).vectors.get {} n
    if v.count = 0 ∨ (s.tick < v.dueAt ∧ v.count < v.need) then .refused (.notEnabled "MSIX_SEND")
    else if s.vectorHeld fn v then .next (s.setVector fn n { v with count := 0, pending := true })
    else .next ((s.setVector fn n { v with count := 0 }).emit (.msix fn n))

/-- MSIX_UNMASK (R434): a pending message is sent. -/
def execMsixUnmask (fn n : Nat) (s : State) : Out' :=
  if 64 ≤ fn ∨ vectorsOf fn ≤ n then .fault (.noSuchUnit "MSIX_UNMASK" n)
  else
    let v := (s.vf fn).vectors.get {} n
    let v : Vector_ := { v with entry := v.entry &&& ~~~(1#128 <<< 96) }
    if v.pending && !s.vectorHeld fn v then .next ((s.setVector fn n { v with pending := false }).emit (.msix fn n))
    else .next (s.setVector fn n v)

/-- A 64-bit half of an MSI-X table entry is written; clearing the mask bit unmasks. -/
def State.writeVector (s : State) (fn n half : Nat) (x : Word) : State :=
  let v := (s.vf fn).vectors.get {} n
  let e : BitVec 128 := if half = 0 then v.entry.extractLsb' 64 64 ++ x else x ++ v.entry.extractLsb' 0 64
  let s := s.setVector fn n { v with entry := e }
  if v.masked && !e.getLsbD 96 then s.postIn 0 (.msixUnmask fn n) else s

/-! ## Registers (R402, R431, R438, R440) -/

/-- A die at or above TTRIP resets the package (R439). -/
def State.checkTrip (s : State) : State :=
  if (List.range Config.dies).any fun d => 8 * s.power.ttrip ≤ (s.die d).temp then s.postIn 0 (.packageReset .temperature) else s

/-- A write to the physical function's control BAR. -/
def State.pfWrite (s : State) (off : Nat) (v : Word) : State :=
  let n := v.toNat
  if off < 0x1000 then s.regWrite 0 true off v
  else if off < 0x1040 ∧ off % 8 = 0 then s.modSct fun x => { x with mailbox := x.mailbox.set 0#64 ((off - 0x1000) / 8) v }
  else if 0x2000 ≤ off ∧ off < 0x2030 ∧ off % 8 = 0 then s.writeVector 0 ((off - 0x2000) / 16) (off / 8 % 2) v
  else match off with
    | 0x1048 => s.sctSubmit
    | 0x1100 => s.postIn 0 (.vdcreate (n % 64) (n / 256 * 256))
    | 0x1300 => { s with power := { s.power with pwrlim := max 1000000 (min 5200000 n) } }
    | 0x1318 => if 90 ≤ n ∧ n ≤ 115 then State.checkTrip { s with power := { s.power with ttrip := n } } else s
    | _ => s

/-- A write to a virtual function's control BAR. -/
def State.vfWrite (s : State) (n off : Nat) (v : Word) : State :=
  if off < 0x200 ∧ off % 8 = 0 then match v.toNat % 4 with
    | 0 => s.postIn 0 (.notify n (off / 8))
    | 1 => s.postIn 0 (.refresh n (off / 8))
    | _ => s
  else if 0x200 ≤ off ∧ off < 0x280 ∧ off % 8 = 0 then s.postIn 0 (.cnotify n ((off - 0x200) / 8))
  else if 0x1000 ≤ off ∧ off < 0x1410 ∧ off % 8 = 0 then s.writeVector n ((off - 0x1000) / 16) (off / 8 % 2) v
  else match off with
    | 0x3000 => s.modVf n fun f => { f with coal := BitVec.ofNat 64 (v.toNat % 2 ^ 24) }
    | 0x3008 => if v.toNat % 64 = 0 then s.modVf n fun f => { f with chanbase := v } else s
    | 0x3010 => if v.toNat % 32 ≤ 16 then s.modVf n fun f => { f with chancnt := v.toNat % 32 } else s
    | _ => s

/-- REGISTER_WRITE: a write to a register marked R, or to an offset that is not listed, is discarded; so is one to a virtual
function before stage 5, from which on they may be enabled (R438). -/
def execRegisterWrite (fn off : Nat) (v : Word) (s : State) : Out' :=
  if 64 ≤ fn then .fault (.noSuchUnit "REGISTER_WRITE" fn)
  else if fn = 0 then .next (s.pfWrite off v)
  else if s.power.stage < 5 then .next s
  else .next (s.vfWrite fn off v)

/-- A 64-bit half of a function's MSI-X table entries from 0x1000 or 0x2000 on. -/
def State.vectorWord (s : State) (fn off : Nat) : Nat := bitsOf (64 * (off / 8 % 2) + 63) (64 * (off / 8 % 2)) ((s.vf fn).vectors.get {} (off / 16)).entry.toNat

/-- What the host reads in the physical function's control BAR (R438, R440); a register marked W, or an offset that is not
listed, reads zero. -/
def State.pfRead (s : State) (off : Nat) : Nat :=
  if off < 0x1000 then s.regRead off
  else if off < 0x1040 ∧ off % 8 = 0 then (s.sct.mailbox.get 0#64 ((off - 0x1000) / 8)).toNat
  else if 0x1320 ≤ off ∧ off < 0x13A0 ∧ off % 8 = 0 then (BitVec.ofInt 64 (s.die ((off - 0x1320) / 8)).temp).toNat
  else if 0x13A0 ≤ off ∧ off < 0x1420 ∧ off % 8 = 0 then (s.die ((off - 0x13A0) / 8)).stretch % 2 ^ 64
  else if 0x2000 ≤ off ∧ off < 0x2030 ∧ off % 8 = 0 then s.vectorWord 0 (off - 0x2000)
  else match off with
    | 0x1040 => s.sct.status
    | 0x1200 => s.power.stage + s.power.bootReason * 2 ^ 8
    | 0x1300 => s.power.pwrlim
    | 0x1308 => s.power.pwr
    | 0x1310 => s.power.energy
    | 0x1318 => (BitVec.ofInt 64 s.power.ttrip).toNat
    | _ => 0

/-- TDISPST (R431, R433). -/
def Tdisp.code : Tdisp → Nat
  | .unlocked => 0
  | .locked => 1
  | .run => 2
  | .error => 3

/-- What the host reads in the control BAR of virtual function `n` (R431): the pending bits are one for each vector. -/
def State.vfRead (s : State) (n off : Nat) : Nat :=
  let f := s.vf n
  if 0x1000 ≤ off ∧ off < 0x1410 ∧ off % 8 = 0 then s.vectorWord n (off - 0x1000)
  else match off with
    | 0x2000 => ((List.range 64).map fun v => if (f.vectors.get {} v).pending then 2 ^ v else 0).sum
    | 0x2008 => if (f.vectors.get {} 64).pending then 1 else 0
    | 0x3000 => f.coal.toNat
    | 0x3008 => f.chanbase.toNat
    | 0x3010 => f.chancnt
    | 0x3018 => f.apdrop
    | 0x3020 => f.tdisp.code
    | _ => 0

/-! ## Resets and bring-up (R438, R439) -/

/-- PACKAGE_RESET: everything but the fuses; what lies outside the package stays. -/
def execPackageReset (_cause : ResetCause) (s : State) : Out' :=
  .next { State.reset with
    fresh := s.fresh, nextId := s.nextId, outbox := s.outbox, mem := { State.reset.mem with hostCells := s.mem.hostCells } }

/-- A stage has passed: the next one, and vector 2 of the physical function. -/
def State.stageTo (s : State) (n : Nat) : State := State.condition { s with power := { s.power with stage := n } } 0 2

/-- A stage has failed: the part halts. -/
def State.haltBoot (s : State) (reason : Nat) : State := { s with power := { s.power with bootReason := reason } }

/-- Die initialisation: dies that fail are held in reset, the partition matrix is zero, and the memory and ports that came
up are fitted. -/
def State.initDies (s : State) (r : BootResult) : State :=
  let dead := r.deadDies.filter (· < Config.dies)
  let s := dead.foldl (fun (s : State) d => s.modDie d fun x => { x with held := true }) s
  let gone := (List.range 12).filter fun n => dead.contains (stackDies.getD n 99) && bitOf n r.fitted
  { s with
    tiles := []
    sct := { s.sct with pcm := [] }
    fabric := { s.fabric with ports := r.ports % 2 ^ 16 }
    fitted :=
      { stackMap := r.fitted % 2 ^ 12 - (gone.map fun n => 2 ^ n).sum
        gbPerStack := r.gbPerStack
        tierL := if dead.contains 3 then 0 else r.tierL
        expanders := if dead.contains 0 then 0 else r.expanders % 2 ^ 16
        gibX := r.gibX }
    power := { s.power with bootReason := if dead.isEmpty then 0 else 3 } }

/-- BRING_UP_STAGE (R438). -/
def execBringUpStage (r : BootResult) (s : State) : Out' :=
  if s.halted ∨ 5 ≤ s.power.stage then .refused (.notEnabled "BRING_UP_STAGE")
  else .next (match s.power.stage with
    | 3 => (s.initDies r).stageTo 4
    | 4 => match checkMicrocode r.image with
      | .ok i => if r.ok then
          State.stageTo { s.loadKeepers i with sct := { s.sct with microcode := sha256 r.image } } 5
        else s.haltBoot 4
      | .error _ => s.haltBoot 4
    | 2 =>
      if r.ok then
        State.stageTo { s with
          fresh := s.fresh + 4
          sct := { s.sct with
            key0 := Config.freeRandom s.fresh, intg0 := Config.freeRandom (s.fresh + 1)
            key255 := Config.freeRandom (s.fresh + 2), intg255 := Config.freeRandom (s.fresh + 3) } } 3
      else s.haltBoot 2
    | _ => if r.ok then s.stageTo 2 else s.haltBoot 1)

/-! ## Power (R11, R440) -/

/-- Post what a tick of the time base brings (R302, R303, R355). -/
def State.tickWork (s : State) (tick : Nat) : State :=
  let s := if s.vds.isEmpty then s else (s.postTick tick .vtAdvance).postTick tick .tokenRefill
  if tick % 2 ^ 20 = 0 then s.postTick tick .hotnessPeriod else s

/-- Wall time goes on by half-cycle units. -/
def State.addWall (s : State) (n : Nat) : State :=
  let t := s.tick
  let s : State := { s with wall := s.wall + n }
  ((List.range (s.tick - t)).map (· + t + 1)).foldl State.tickWork s

/-- SUPPLY_DROOP (R11): a stretched cycle counts as one; only wall time shows it. -/
def execSupplyDroop (die stretch : Nat) (s : State) : Out' :=
  if Config.dies ≤ die then .fault (.noSuchUnit "SUPPLY_DROOP" die)
  else
    let more := Config.freeDelay s.fresh
    .next (State.addWall { s.modDie die fun d => { d with stretch := d.stretch + stretch } with fresh := s.fresh + 1 } more)

/-- The dies' temperatures as they are sensed: free (R440; log 88). -/
def State.senseTemps (s : State) : State :=
  State.checkTrip ((List.range Config.dies).foldl (fun (s : State) d =>
    State.modDie { s with fresh := s.fresh + 1 } d fun x => { x with temp := (Config.freeWord s.fresh).toInt }) s)

/-- POWER_LIMIT_CONTROL (R440): the power the package would draw over a millisecond, and the cycles firmware stretches to hold
the average at or below PWRLIM: at least one where it would be above (log 88). -/
def execPowerLimitControl (power stretch : Nat) (s : State) : Out' :=
  let s := s.senseTemps
  let stretch := if s.power.pwrlim < power then max 1 stretch else stretch
  let power := min power s.power.pwrlim
  let s := (List.range Config.dies).foldl (fun (s : State) d => s.modDie d fun x => { x with stretch := x.stretch + stretch }) s
  let more := if stretch = 0 then 0 else Config.freeDelay s.fresh
  .next (State.addWall { s with fresh := s.fresh + 1, power := { s.power with pwr := power, energy := (s.power.energy + power) % 2 ^ 64 } }
    more)

end Sys2Proof.Machine
end

