-- ==== Sys2Proof/Machine/Memory.lean ====
section
/-! DEFINITION. Loads, stores, atomics and fences of the control sequencer (R107 to R115). -/
namespace Sys2Proof.Machine
open Sys2Proof

/-- A load of R107: Q0, the address g[ra] + sext(imm). -/
def loadForm (s : State) (signed : Bool) (width : Nat) (d a : BitVec 6) (i : BitVec 13) : Out' :=
  issueCtl s [d, a] false true true fun q => issueAccess s (.load signed) 0 d (q.gr a + sext i) width 0#64 0#64 0

/-- A store of R107: Q1, the low bytes of g[rd] read at issue. -/
def storeForm (s : State) (width : Nat) (d a : BitVec 6) (i : BitVec 13) : Out' :=
  issueCtl s [d, a] false true true fun q => issueAccess s .store 1 d (q.gr a + sext i) width (q.gr d) 0#64 0

/-- LD.S8 (R107). -/
def execLdS8 (d a : BitVec 6) (i : BitVec 13) (s : State) : Out' := loadForm s true 1 d a i
/-- LD.Z8 (R107). -/
def execLdZ8 (d a : BitVec 6) (i : BitVec 13) (s : State) : Out' := loadForm s false 1 d a i
/-- LD.S16 (R107). -/
def execLdS16 (d a : BitVec 6) (i : BitVec 13) (s : State) : Out' := loadForm s true 2 d a i
/-- LD.Z16 (R107). -/
def execLdZ16 (d a : BitVec 6) (i : BitVec 13) (s : State) : Out' := loadForm s false 2 d a i
/-- LD.S32 (R107). -/
def execLdS32 (d a : BitVec 6) (i : BitVec 13) (s : State) : Out' := loadForm s true 4 d a i
/-- LD.Z32 (R107). -/
def execLdZ32 (d a : BitVec 6) (i : BitVec 13) (s : State) : Out' := loadForm s false 4 d a i
/-- LD.64 (R107). -/
def execLd64 (d a : BitVec 6) (i : BitVec 13) (s : State) : Out' := loadForm s false 8 d a i
/-- ST.8 (R107). -/
def execSt8 (d a : BitVec 6) (i : BitVec 13) (s : State) : Out' := storeForm s 1 d a i
/-- ST.16 (R107). -/
def execSt16 (d a : BitVec 6) (i : BitVec 13) (s : State) : Out' := storeForm s 2 d a i
/-- ST.32 (R107). -/
def execSt32 (d a : BitVec 6) (i : BitVec 13) (s : State) : Out' := storeForm s 4 d a i
/-- ST.64 (R107). -/
def execSt64 (d a : BitVec 6) (i : BitVec 13) (s : State) : Out' := storeForm s 8 d a i

/-- The operand of an atomic, its low `w` bytes. -/
def lowBytes (w : Nat) (v : Word) : Word := BitVec.ofNat 64 (v.toNat % 256 ^ w)

/-- AMO (R110): Q2, address g[ra], operand g[rb]. -/
def amoForm (s : State) (w : Nat) (d a b : BitVec 6) (f : BitVec 4) (sc : BitVec 3) : Out' :=
  issueCtl s [d, a, b] false (amoFnOk f && scopeOk sc) true fun q =>
    issueAccess s (.amo f.toNat) 2 d (q.gr a) w (lowBytes w (q.gr b)) 0#64 sc.toNat

/-- AMO.32 (R110). -/
def execAmo32 (d a b : BitVec 6) (f : BitVec 4) (sc : BitVec 3) (s : State) : Out' := amoForm s 4 d a b f sc
/-- AMO.64 (R110). -/
def execAmo64 (d a b : BitVec 6) (f : BitVec 4) (sc : BitVec 3) (s : State) : Out' := amoForm s 8 d a b f sc

/-- AMOS (R112): the signal word is g[rd]; a far target absent from the table raises SPAD_BOUNDS at issue, after the
address checks; on a keeper sequencer every one is (log 12). -/
def amosForm (s : State) (name : String) (w : Nat) (d a b : BitVec 6) (f : BitVec 4) (sc : BitVec 3) : Out' :=
  issueCtl s [d, a, b] false (amoFnOk f && scopeOk sc) true fun q =>
    let sig := (q.gr d).toNat
    let farAbsent := bitOf 13 sig && ((seqTile? s.cur).isNone || (q.csr.ptile (sig / 2 ^ 14 % 1024)).isNone)
    let addrOk := (splitLines (q.gr a).toNat w).all fun p => match checkSeqAddr s s.cur (BitVec.ofNat 64 p.addr) p.len with
      | .ok _ => true
      | .error _ => false
    if farAbsent && addrOk then .next (s.raise spadBounds 0#64)
    else if bitOf 12 sig && (seqTile? s.cur).isNone && addrOk then .refused (.keeperLacks name)
    else issueAccess s (.amos f.toNat) 2 d (q.gr a) w (lowBytes w (q.gr b)) (q.gr d) sc.toNat

/-- AMOS.32 (R112). -/
def execAmos32 (d a b : BitVec 6) (f : BitVec 4) (sc : BitVec 3) (s : State) : Out' := amosForm s "AMOS_32" 4 d a b f sc
/-- AMOS.64 (R112). -/
def execAmos64 (d a b : BitVec 6) (f : BitVec 4) (sc : BitVec 3) (s : State) : Out' := amosForm s "AMOS_64" 8 d a b f sc

/-- CAS (R111): the comparand is g[rd], the new value g[rb]. -/
def execCas (d a b : BitVec 6) (w : BitVec 1) (sc : BitVec 3) (s : State) : Out' :=
  let n := if w = 1 then 8 else 4
  issueCtl s [d, a, b] false (scopeOk sc) true fun q =>
    issueAccess s .cas 2 d (q.gr a) n (lowBytes n (q.gr b)) (lowBytes n (q.gr d)) sc.toNat

/-- A flush point of a sequencer's queues (R268). -/
def State.flushSeq (s : State) (q : SeqId) (mask : Nat) : State :=
  match q with
  | .tile t => s.flushWc t mask
  | .keeper _ => s

/-- A combined store of a sequencer's queues waits past its flush point (R359, R263). -/
def State.flushHeld (s : State) (q : SeqId) (mask : Nat) : Bool :=
  match q with
  | .tile t => (s.tile t).flushHeld mask
  | .keeper _ => false

/-- MARK (R114): a gate; a marker in Q0 and Q1 and a flush point of Q1. -/
def execMark (s : State) : Out' :=
  issueCtl s [] true true true fun _ =>
    (s.flushSeq s.cur 2).retireWith fun q => { q with mark := q.nextAcc }

/-- The snapshot a fence of sequencer `q` takes. -/
def State.snapshotOf (s : State) (q : SeqId) : FenceSnap :=
  match q with
  | .tile t => (s.tile t).snapshot s.now
  | .keeper _ => { cycle := s.now, acc := (s.seq q).nextAcc, order := 0, c0 := 0, c1 := 0, m := 0 }

/-- Whether everything before the fence has performed. -/
def State.fenceDone (s : State) (q : SeqId) (mask : Nat) (f : FenceSnap) : Bool :=
  match q with
  | .tile t => (s.tile t).doneBefore s.now mask f
  | .keeper _ => (s.seq q).accs.all fun a => !(bitOf a.q mask && a.id < f.acc) || a.performed || a.fault.isSome

/-- QFENCE (R115): a gate; with a mask not zero the CSQ issues nothing more until every operation before it in the named
queues has performed. -/
def execQfence (m : BitVec 9) (s : State) : Out' :=
  issueCtl s [] true true true fun q =>
    let f := q.fence.getD (s.snapshotOf s.cur)
    let wait (s : State) : Out' := .next (s.waitCsq.modSeq s.cur fun q => { q with fence := some f })
    if s.fenceDone s.cur m.toNat f then
      let s := s.flushSeq s.cur m.toNat
      if s.flushHeld s.cur m.toNat then wait s else s.retireWith fun q => { q with fence := none }
    else wait s

end Sys2Proof.Machine
end

