-- ==== Sys2Proof/Machine/Watchdog.lean ====
section
/-! DEFINITION. The watchdog (R372) and errors of tile storage (R375). -/
namespace Sys2Proof.Machine
open Sys2Proof

/-- The wall time from which the watchdog times an agent, by its slot field; 0xFF is the stall of the BSQ. -/
def Tile.timedFrom (x : Tile) (agent : Nat) : Option Nat :=
  let copy (q : CQueue) : Option Nat := match q.cmds with
    | c :: _ => match c.st with
      | .waiting => c.waitFrom
      | .running _ => if c.accessed then none else c.waitFrom
      | _ => none
    | [] => none
  match agent with
  | 0 => if x.seq.on then x.seq.waitFrom else none
  | 2 => match x.mat.queue.find? fun c => !c.sent && c.st != .finished with
    | some c => if c.st = .stopped then none else c.waitFrom
    | none => none
  | 3 => copy x.c0
  | 4 => copy x.c1
  | 0xFF => if x.bsqLive then x.bsq.stallFrom else none
  | _ => none

/-- The timing exceeds WDLIMIT, in ticks of the time base (R11, R12). -/
def Tile.overdue (x : Tile) (agent wall : Nat) : Bool :=
  let lim := x.seq.csr.wdlimit.toNat
  lim ≠ 0 && x.use = .running && !x.frozen && (x.timedFrom agent).any fun f =>
    f / Config.unitsPerTick + lim < wall / Config.unitsPerTick

/-- Begin to time the heads that wait on their semaphores. -/
def Tile.timeHeads (x : Tile) (now wall : Nat) : Tile :=
  if x.frozen || x.use != .running then x
  else
    let from_ (w : Option Nat) : Option Nat := some (w.getD wall)
    let x := match x.mHead now with
      | some c => if x.waitMet c.wait then x else x.modMat fun m => m.modCmd c.serial fun c => { c with waitFrom := from_ c.waitFrom }
      | none => x
    let time (u : CmdUnit) (x : Tile) : Tile := match x.cHead u now with
      | some c => if x.waitMet c.wait then x else x.modCq u fun q => q.modCmd c.serial fun c => { c with waitFrom := from_ c.waitFrom }
      | none => x
    time .c1 (time .c0 x)

/-- The unit takes WATCHDOG, precision A (R372); EADDR holds the timed agent's slot field. -/
def execWatchdog (t agent : Nat) (s : State) : Out' :=
  tileEvent "WATCHDOG" t s (fun x => x.overdue agent s.wall && !x.faults.any (·.code = watchdogF)) fun x =>
    { x with faults := x.faults ++
        [{ code := watchdogF, slot := if agent ≤ 4 then agent else 0, eaddr := BitVec.ofNat 64 agent, epc := x.seq.pc
           ebaddr := x.bsq.pc, async := true }] }

/-- A soft error in tile storage (R375): corrected and counted; uncorrectable in scratchpad, the line is poisoned;
elsewhere the unit ends with INTEGRITY, precision A. -/
def execTileStorageError (t : Nat) (e : StorageError) (s : State) : Out' :=
  if Config.tiles ≤ t then .fault (.noSuchUnit "TILE_STORAGE_ERROR" t)
  else
    let sue : State := { s with errc := { s.errc with sue := bump s.errc.sue (dieOf t) } }
    match e with
    | .corrected => .next { s with errc := { s.errc with sce := bump s.errc.sce (dieOf t) } }
    | .scratchpad line => .next (sue.modTile t fun x => x.setPoison (64 * (line % (Config.spadBytes / 64))) true)
    | .other =>
      let x := s.tile t
      .next (if x.use = .running then
        sue.raiseTile t { code := integrity, slot := 0, epc := x.seq.pc, ebaddr := x.bsq.pc, async := true } else sue)

end Sys2Proof.Machine
end

