-- ==== Sys2Proof/Machine/Dispatch.lean ====
section
/-! DEFINITION. The dispatcher: one arm for each constructor of `Instr`, each one call of its meaning. -/
namespace Sys2Proof.Machine
open Sys2Proof

/-- What an instruction does to the machine. -/
def exec (i : Instr) (s : State) : Host.Outcome State Fault Refusal :=
  match i with
  | .add d a b => Sys2Proof.Machine.execAdd d a b s
  | .sub d a b => Sys2Proof.Machine.execSub d a b s
  | .and d a b => Sys2Proof.Machine.execAnd d a b s
  | .or d a b => Sys2Proof.Machine.execOr d a b s
  | .xor d a b => Sys2Proof.Machine.execXor d a b s
  | .andn d a b => Sys2Proof.Machine.execAndn d a b s
  | .shl d a b => Sys2Proof.Machine.execShl d a b s
  | .shr d a b => Sys2Proof.Machine.execShr d a b s
  | .sra d a b => Sys2Proof.Machine.execSra d a b s
  | .mul d a b => Sys2Proof.Machine.execMul d a b s
  | .mulh d a b => Sys2Proof.Machine.execMulh d a b s
  | .mulhu d a b => Sys2Proof.Machine.execMulhu d a b s
  | .div d a b => Sys2Proof.Machine.execDiv d a b s
  | .divu d a b => Sys2Proof.Machine.execDivu d a b s
  | .rem d a b => Sys2Proof.Machine.execRem d a b s
  | .remu d a b => Sys2Proof.Machine.execRemu d a b s
  | .min d a b => Sys2Proof.Machine.execMin d a b s
  | .max d a b => Sys2Proof.Machine.execMax d a b s
  | .slt d a b => Sys2Proof.Machine.execSlt d a b s
  | .sltu d a b => Sys2Proof.Machine.execSltu d a b s
  | .seq d a b => Sys2Proof.Machine.execSeq d a b s
  | .cntlz d a => Sys2Proof.Machine.execCntlz d a s
  | .cntpop d a => Sys2Proof.Machine.execCntpop d a s
  | .addi d a im => Sys2Proof.Machine.execAddi d a im s
  | .andi d a im => Sys2Proof.Machine.execAndi d a im s
  | .ori d a im => Sys2Proof.Machine.execOri d a im s
  | .xori d a im => Sys2Proof.Machine.execXori d a im s
  | .shli d a sv => Sys2Proof.Machine.execShli d a sv s
  | .shri d a sv => Sys2Proof.Machine.execShri d a sv s
  | .srai d a sv => Sys2Proof.Machine.execSrai d a sv s
  | .slti d a im => Sys2Proof.Machine.execSlti d a im s
  | .extr d a l p => Sys2Proof.Machine.execExtr d a l p s
  | .extrz d a l p => Sys2Proof.Machine.execExtrz d a l p s
  | .insr d a l p => Sys2Proof.Machine.execInsr d a l p s
  | .lui d im => Sys2Proof.Machine.execLui d im s
  | .lcat d im => Sys2Proof.Machine.execLcat d im s
  | .beq a b o => Sys2Proof.Machine.execBeq a b o s
  | .bne a b o => Sys2Proof.Machine.execBne a b o s
  | .blt a b o => Sys2Proof.Machine.execBlt a b o s
  | .bge a b o => Sys2Proof.Machine.execBge a b o s
  | .bltu a b o => Sys2Proof.Machine.execBltu a b o s
  | .bgeu a b o => Sys2Proof.Machine.execBgeu a b o s
  | .j o => Sys2Proof.Machine.execJ o s
  | .jl o => Sys2Proof.Machine.execJl o s
  | .jlr d a im => Sys2Proof.Machine.execJlr d a im s
  | .ldS8 d a im => Sys2Proof.Machine.execLdS8 d a im s
  | .ldZ8 d a im => Sys2Proof.Machine.execLdZ8 d a im s
  | .ldS16 d a im => Sys2Proof.Machine.execLdS16 d a im s
  | .ldZ16 d a im => Sys2Proof.Machine.execLdZ16 d a im s
  | .ldS32 d a im => Sys2Proof.Machine.execLdS32 d a im s
  | .ldZ32 d a im => Sys2Proof.Machine.execLdZ32 d a im s
  | .ld64 d a im => Sys2Proof.Machine.execLd64 d a im s
  | .st8 d a im => Sys2Proof.Machine.execSt8 d a im s
  | .st16 d a im => Sys2Proof.Machine.execSt16 d a im s
  | .st32 d a im => Sys2Proof.Machine.execSt32 d a im s
  | .st64 d a im => Sys2Proof.Machine.execSt64 d a im s
  | .amo32 d a b f sv => Sys2Proof.Machine.execAmo32 d a b f sv s
  | .amo64 d a b f sv => Sys2Proof.Machine.execAmo64 d a b f sv s
  | .amos32 d a b f sv => Sys2Proof.Machine.execAmos32 d a b f sv s
  | .amos64 d a b f sv => Sys2Proof.Machine.execAmos64 d a b f sv s
  | .cas d a b w sv => Sys2Proof.Machine.execCas d a b w sv s
  | .mark => Sys2Proof.Machine.execMark s
  | .qfence q => Sys2Proof.Machine.execQfence q s
  | .pusht a e c l => Sys2Proof.Machine.execPusht a e c l s
  | .pushm a k c => Sys2Proof.Machine.execPushm a k c s
  | .pusho d t => Sys2Proof.Machine.execPusho d t s
  | .pushb t => Sys2Proof.Machine.execPushb t s
  | .pushv a sv => Sys2Proof.Machine.execPushv a sv s
  | .semwait c t sv => Sys2Proof.Machine.execSemwait c t sv s
  | .semsig a f im sv => Sys2Proof.Machine.execSemsig a f im sv s
  | .semrd d sv => Sys2Proof.Machine.execSemrd d sv s
  | .seminit a sv => Sys2Proof.Machine.execSeminit a sv s
  | .spawn a b => Sys2Proof.Machine.execSpawn a b s
  | .uend => Sys2Proof.Machine.execUend s
  | .park => Sys2Proof.Machine.execPark s
  | .cbw a w => Sys2Proof.Machine.execCbw a w s
  | .strm a d p => Sys2Proof.Machine.execStrm a d p s
  | .trap c => Sys2Proof.Machine.execTrap c s
  | .eret => Sys2Proof.Machine.execEret s
  | .csrr d c => Sys2Proof.Machine.execCsrr d c s
  | .csrw a c => Sys2Proof.Machine.execCsrw a c s
  | .rdtime d => Sys2Proof.Machine.execRdtime d s
  | .wfe => Sys2Proof.Machine.execWfe s
  | .tlbkill a r => Sys2Proof.Machine.execTlbkill a r s
  | .tlbsync => Sys2Proof.Machine.execTlbsync s
  | .haltb a => Sys2Proof.Machine.execHaltb a s
  | .krot a b => Sys2Proof.Machine.execKrot a b s
  | .scrub a => Sys2Proof.Machine.execScrub a s
  | .csqAccessReturn q id => Sys2Proof.Machine.execCsqAccessReturn q id s
  | .csqStorePerform q id => Sys2Proof.Machine.execCsqStorePerform q id s
  | .bundleIssue t => Sys2Proof.Machine.execBundleIssue t s
  | .skipWalk t => Sys2Proof.Machine.execSkipWalk t s
  | .bsqStall t => Sys2Proof.Machine.execBsqStall t s
  | .bundleRetire t => Sys2Proof.Machine.execBundleRetire t s
  | .slotResultWrite t => Sys2Proof.Machine.execSlotResultWrite t s
  | .profile4Interlock t => Sys2Proof.Machine.execProfile4Interlock t s
  | .bsqFreeze t => Sys2Proof.Machine.execBsqFreeze t s
  | .bsqResume t => Sys2Proof.Machine.execBsqResume t s
  | .streamFetch t p => Sys2Proof.Machine.execStreamFetch t p s
  | .streamElementReady t p => Sys2Proof.Machine.execStreamElementReady t p s
  | .streamElementWrite t p => Sys2Proof.Machine.execStreamElementWrite t p s
  | .slotStorePerform t => Sys2Proof.Machine.execSlotStorePerform t s
  | .commandStart t u => Sys2Proof.Machine.execCommandStart t u s
  | .mmaGroupRound t => Sys2Proof.Machine.execMmaGroupRound t s
  | .commandComplete t u => Sys2Proof.Machine.execCommandComplete t u s
  | .copyLineRequest t u => Sys2Proof.Machine.execCopyLineRequest t u s
  | .copyLinePerform t u id => Sys2Proof.Machine.execCopyLinePerform t u id s
  | .inboundLineVerify t u id => Sys2Proof.Machine.execInboundLineVerify t u id s
  | .farIncrementArrival t sem inc src wtag => Sys2Proof.Machine.execFarIncrementArrival t sem inc src wtag s
  | .unitStart t entry iter => Sys2Proof.Machine.execUnitStart t entry iter s
  | .spawnUnitStart t entry => Sys2Proof.Machine.execSpawnUnitStart t entry s
  | .haltBroadcastArrival t team => Sys2Proof.Machine.execHaltBroadcastArrival t team s
  | .walkComplete die id => Sys2Proof.Machine.execWalkComplete die id s
  | .tlbkillComplete id => Sys2Proof.Machine.execTlbkillComplete id s
  | .combinerWriteback addr => Sys2Proof.Machine.execCombinerWriteback addr s
  | .watchdog t agent => Sys2Proof.Machine.execWatchdog t agent s
  | .tileStorageError t e => Sys2Proof.Machine.execTileStorageError t e s
  | .notify vd q => Sys2Proof.Machine.execNotify vd q s
  | .refresh vd q => Sys2Proof.Machine.execRefresh vd q s
  | .nop p => Sys2Proof.Machine.execNop p s
  | .launch p => Sys2Proof.Machine.execLaunch p s
  | .copy p => Sys2Proof.Machine.execCopy p s
  | .signal p => Sys2Proof.Machine.execSignal p s
  | .waitsig p => Sys2Proof.Machine.execWaitsig p s
  | .waitsigPoll p => Sys2Proof.Machine.execWaitsigPoll p s
  | .waitsigTimeout p => Sys2Proof.Machine.execWaitsigTimeout p s
  | .cancel p => Sys2Proof.Machine.execCancel p s
  | .phase p => Sys2Proof.Machine.execPhase p s
  | .ckpt p => Sys2Proof.Machine.execCkpt p s
  | .completionReport p => Sys2Proof.Machine.execCompletionReport p s
  | .waveStart launch => Sys2Proof.Machine.execWaveStart launch s
  | .launchComplete launch => Sys2Proof.Machine.execLaunchComplete launch s
  | .tileDrainComplete t => Sys2Proof.Machine.execTileDrainComplete t s
  | .poolAllocRetry vd => Sys2Proof.Machine.execPoolAllocRetry vd s
  | .preemptRequest vd => Sys2Proof.Machine.execPreemptRequest vd s
  | .vtAdvance => Sys2Proof.Machine.execVtAdvance s
  | .tokenRefill => Sys2Proof.Machine.execTokenRefill s
  | .kplace k v => Sys2Proof.Machine.execKplace k v s
  | .kpreempt k v => Sys2Proof.Machine.execKpreempt k v s
  | .kresume k v => Sys2Proof.Machine.execKresume k v s
  | .kreject k v => Sys2Proof.Machine.execKreject k v s
  | .kreport k v => Sys2Proof.Machine.execKreport k v s
  | .kfree k v => Sys2Proof.Machine.execKfree k v s
  | .clampArrival t team => Sys2Proof.Machine.execClampArrival t team s
  | .save team => Sys2Proof.Machine.execSave team s
  | .discard team => Sys2Proof.Machine.execDiscard team s
  | .clampedUnitEnd t => Sys2Proof.Machine.execClampedUnitEnd t s
  | .keeperContainment team => Sys2Proof.Machine.execKeeperContainment team s
  | .dieReset d => Sys2Proof.Machine.execDieReset d s
  | .microcodeReload image => Sys2Proof.Machine.execMicrocodeReload image s
  | .vdcreate vd pa => Sys2Proof.Machine.execVdcreate vd pa s
  | .migreq pa pf => Sys2Proof.Machine.execMigreq pa pf s
  | .migrationStart slot => Sys2Proof.Machine.execMigrationStart slot s
  | .migrationLineCopy slot => Sys2Proof.Machine.execMigrationLineCopy slot s
  | .migrationComplete slot => Sys2Proof.Machine.execMigrationComplete slot s
  | .migrationAbort slot cause => Sys2Proof.Machine.execMigrationAbort slot cause s
  | .krotComplete id => Sys2Proof.Machine.execKrotComplete id s
  | .hotnessPeriod => Sys2Proof.Machine.execHotnessPeriod s
  | .priResponse tag ok => Sys2Proof.Machine.execPriResponse tag ok s
  | .atsInvalidation vd page => Sys2Proof.Machine.execAtsInvalidation vd page s
  | .poisonNotifySend pa => Sys2Proof.Machine.execPoisonNotifySend pa s
  | .frtload first count => Sys2Proof.Machine.execFrtload first count s
  | .messageSeal id => Sys2Proof.Machine.execMessageSeal id s
  | .leafArrival port l => Sys2Proof.Machine.execLeafArrival port l s
  | .guardDecode frame => Sys2Proof.Machine.execGuardDecode frame s
  | .messageDeliver src lane rsp => Sys2Proof.Machine.execMessageDeliver src lane rsp s
  | .tfragExpiry frame => Sys2Proof.Machine.execTfragExpiry frame s
  | .tdrainExpiry frame => Sys2Proof.Machine.execTdrainExpiry frame s
  | .ack c => Sys2Proof.Machine.execAck c s
  | .retx c => Sys2Proof.Machine.execRetx c s
  | .loss c => Sys2Proof.Machine.execLoss c s
  | .abandon c => Sys2Proof.Machine.execAbandon c s
  | .tackExpiry id => Sys2Proof.Machine.execTackExpiry id s
  | .poisonnoteReceive src pa => Sys2Proof.Machine.execPoisonnoteReceive src pa s
  | .portTrainingChange port up => Sys2Proof.Machine.execPortTrainingChange port up s
  | .wcreate w => Sys2Proof.Machine.execWcreate w s
  | .wdestroy w => Sys2Proof.Machine.execWdestroy w s
  | .kbind w => Sys2Proof.Machine.execKbind w s
  | .kscrub im => Sys2Proof.Machine.execKscrub im s
  | .fgrant pa count im => Sys2Proof.Machine.execFgrant pa count im s
  | .pcmset q mask => Sys2Proof.Machine.execPcmset q mask s
  | .moor peer => Sys2Proof.Machine.execMoor peer s
  | .sctBadCommand code => Sys2Proof.Machine.execSctBadCommand code s
  | .keyidFreed im => Sys2Proof.Machine.execKeyidFreed im s
  | .moor1 m => Sys2Proof.Machine.execMoor1 m s
  | .moor2 m => Sys2Proof.Machine.execMoor2 m s
  | .moor3 m => Sys2Proof.Machine.execMoor3 m s
  | .moorTimeout peer => Sys2Proof.Machine.execMoorTimeout peer s
  | .setwk fn body => Sys2Proof.Machine.execSetwk fn body s
  | .getVersion fn => Sys2Proof.Machine.execGetVersion fn s
  | .getCapabilities r => Sys2Proof.Machine.execGetCapabilities r s
  | .negotiateAlgorithms r => Sys2Proof.Machine.execNegotiateAlgorithms r s
  | .getDigests fn => Sys2Proof.Machine.execGetDigests fn s
  | .getCertificate fn slot off len => Sys2Proof.Machine.execGetCertificate fn slot off len s
  | .challenge fn slot ask => Sys2Proof.Machine.execChallenge fn slot ask s
  | .getMeasurements fn index ask => Sys2Proof.Machine.execGetMeasurements fn index ask s
  | .spdmUnsupported fn code => Sys2Proof.Machine.execSpdmUnsupported fn code s
  | .lockInterfaceRequest vf => Sys2Proof.Machine.execLockInterfaceRequest vf s
  | .startInterfaceRequest vf => Sys2Proof.Machine.execStartInterfaceRequest vf s
  | .stopInterfaceRequest vf => Sys2Proof.Machine.execStopInterfaceRequest vf s
  | .getDeviceInterfaceReport vf => Sys2Proof.Machine.execGetDeviceInterfaceReport vf s
  | .tdispErrorEvent vf => Sys2Proof.Machine.execTdispErrorEvent vf s
  | .vfFlr vf => Sys2Proof.Machine.execVfFlr vf s
  | .apertureRead r => Sys2Proof.Machine.execApertureRead r s
  | .apertureWrite r => Sys2Proof.Machine.execApertureWrite r s
  | .apertureAtomic r => Sys2Proof.Machine.execApertureAtomic r s
  | .cnotify vf c => Sys2Proof.Machine.execCnotify vf c s
  | .chunkCopy vf c => Sys2Proof.Machine.execChunkCopy vf c s
  | .bulkChunkBoundary die engine => Sys2Proof.Machine.execBulkChunkBoundary die engine s
  | .msixSend vf v => Sys2Proof.Machine.execMsixSend vf v s
  | .packageReset cause => Sys2Proof.Machine.execPackageReset cause s
  | .bringUpStage r => Sys2Proof.Machine.execBringUpStage r s
  | .supplyDroop die stretch => Sys2Proof.Machine.execSupplyDroop die stretch s
  | .powerLimitControl power stretch => Sys2Proof.Machine.execPowerLimitControl power stretch s
  | .linkFailure d e => Sys2Proof.Machine.execLinkFailure d e s
  | .cxlLinkLoss e => Sys2Proof.Machine.execCxlLinkLoss e s
  | .registerWrite fn off v => Sys2Proof.Machine.execRegisterWrite fn off v s
  | .unassignedControlWord w => Sys2Proof.Machine.execUnassignedControlWord w s
  | .atsCompletion tag r => Sys2Proof.Machine.execAtsCompletion tag r s
  | .msixUnmask vf v => Sys2Proof.Machine.execMsixUnmask vf v s
  | .eventDeliveredByKeeper t => Sys2Proof.Machine.execEventDeliveredByKeeper t s
  | .dieResetComplete d => Sys2Proof.Machine.execDieResetComplete d s

end Sys2Proof.Machine
end

