-- ==== Sys2Proof/Machine/Schedule.lean ====
section
/-! DEFINITION. The order of the steps within a core cycle, and the end of a cycle. A cycle is a list of turns; each turn
offers an agent its steps, of which the first that may happen is run. The order is that of the port and the units of a tile
(R143, R197, R220 to R238, R368) where the manual gives one (log 5). -/
namespace Sys2Proof.Machine
open Sys2Proof

/-! ## Control sequencers -/

/-- Where in a cycle a control instruction issues: SEMINIT before everything else on semaphores, SEMSIG after the signals of
M, C0 and C1, SEMWAIT after the tests of the queues (R122), QFENCE once the bundle of the cycle has issued (R115),
what waits for a quiescent BSQ once the matrix unit and the stores are through (R36, R128), and the wait of a UEND at the
end (R125). One of these that raises a deferred fault instead does so before the bundle of the cycle: nothing issues or
retires from the cycle of a freeze on (R99, R233). -/
def csqSlotOf (x : Seq) (now : Nat) (i : Instr) : CsqSlot :=
  let ends : CsqSlot := match x.hazard now [] true with
    | .fault _ _ _ => .mid
    | _ => .last
  match i with
  | .seminit _ _ => .early
  | .semsig _ _ _ _ => .sig
  | .qfence _ => ends
  | .uend | .park => if x.endAt.isSome then .mid else ends
  | .semwait _ _ _ | .strm _ _ _ => .late
  | .csrr _ c => if csrWaits c.toNat then .late else .mid
  | .csrw _ c => if csrWaits c.toNat || c.toNat = 0x052 then .late else .mid
  | _ => .mid

/-- A sequencer may issue in this cycle: it runs, its time has come, and the keeper has not stopped its tile. -/
def State.csqLive (s : State) (q : SeqId) : Bool :=
  (s.seq q).on && (s.seq q).issueAt ≤ s.now &&
  match q with
  | .tile t => (s.tile t).use = .running && !(s.tile t).keeperStopped
  | .keeper _ => true

/-- The instruction at the pc of a sequencer (R19, R66): past the end of its program there is no word. -/
def State.fetch (s : State) (q : SeqId) : Instr :=
  let x := s.seq q
  if x.pc < Config.ctlWords then Sys2Proof.decode (x.prog.get 0#32 x.pc) else .unassignedControlWord 0#32

/-! ## Candidates -/

/-- The ports of a tile with an element that may become ready or be written. -/
def Tile.portSteps (t : Nat) (x : Tile) : List Instr :=
  (x.ports.filter fun e => e.2.bound).map fun e => if e.2.write then Instr.streamElementWrite t e.1 else Instr.streamElementReady t e.1

/-- The line steps of a copy queue. -/
def State.lineSteps (s : State) (t : Nat) (u : CmdUnit) : List Instr :=
  let x := s.tile t
  (((x.cq u).lines.find? fun l => l.stage = .arriving && l.due ≤ s.now).map fun l => Instr.inboundLineVerify t u l.id).toList ++
  ((x.nextLine u s.now).map fun l => Instr.copyLinePerform t u l.id).toList

/-- The matrix unit's work, where it is of the kind `p`. -/
def State.matrixStep (s : State) (t : Nat) (p : MWork → Bool) : List Instr :=
  if p ((s.tile t).mWork s.now) then [.mmaGroupRound t] else []

/-- A copy queue's request, where whether it faults at once is `bad`. -/
def State.requestStep (s : State) (t : Nat) (u : CmdUnit) (bad : Bool) : List Instr :=
  match s.copyRequest t u with
  | some (_, b) => if b = bad then [.copyLineRequest t u] else []
  | none => []

/-- The steps of a tile's phase, in the order they are tried. -/
def State.phaseSteps (s : State) (t : Nat) : Phase → List Instr
  | .results => [.bsqResume t, .slotResultWrite t]
  | .ports => .slotStorePerform t :: (s.tile t).portSteps t ++ s.matrixStep t fun w => match w with | .store => true | _ => false
  | .clampEnd => [.clampedUnitEnd t]
  | .late => s.lineSteps t .c0 ++ s.lineSteps t .c1
  | .complete => [.commandComplete t .m, .commandComplete t .c0, .commandComplete t .c1]
  | .mround => s.matrixStep t fun w => match w with | .round => true | _ => false
  | .start => [.commandStart t .m, .commandStart t .c0, .commandStart t .c1]
  | .check => s.requestStep t .c0 true ++ s.requestStep t .c1 true
  | .mwork => s.matrixStep t fun w => match w with | .occupy _ => true | _ => false
  | .bsq => [.bundleRetire t, .bundleIssue t, .profile4Interlock t, .bsqStall t, .skipWalk t]
  | .freeze => [.bsqFreeze t]
  | .requestC0 => s.requestStep t .c0 false
  | .requestC1 => s.requestStep t .c1 false
  | .fetch => (((s.tile t).nextFetch s.now).map fun p => Instr.streamFetch t p).toList
  | .watchdog => [0, 2, 3, 4, 0xFF].map fun a => Instr.watchdog t a

/-- A turn goes on after the step: those that are taken once a cycle do not. -/
def Turn.again : Turn → Instr → Bool
  | .csq _ _, _ => false
  | .tile _ .bsq, .bundleRetire _ => true
  | .tile _ .bsq, _ | .tile _ .requestC0, _ | .tile _ .requestC1, _ => false
  | _, _ => true

/-- The steps a turn offers; those of the agenda have their own way. -/
def State.turnSteps (s : State) : Turn → List Instr
  | .agenda | .far => []
  | .csq q slot =>
    if s.csqLive q && (slot = .any || slot = csqSlotOf (s.seq q) s.now (s.fetch q)) then [s.fetch q] else []
  | .accStores q => ((s.nextAccess q [1]).map fun a => Instr.csqStorePerform q a.id).toList
  | .accReads q => ((s.nextAccess q [0, 2]).map fun a => Instr.csqAccessReturn q a.id).toList
  | .accSignals q => ((s.nextSignal q).map fun a => Instr.csqAccessReturn q a.id).toList
  | .tile t ph => if (s.tile t).use = .running then s.phaseSteps t ph else []

/-- The sequencer a turn makes the current one. -/
def State.onTurn (s : State) : Turn → State
  | .csq q _ => { s with cur := q }
  | _ => s

/-- Run the first of some steps that may happen. -/
def firstEnabled (s : Turn → Instr → State) (tn : Turn) : List Instr → Option Out'
  | [] => none
  | i :: l => match exec i (s tn i) with
    | .refused (.notEnabled _) => firstEnabled s tn l
    | o => some o

/-- Run a step of the turn at the head, with those after it. -/
def State.runTurn (s : State) (tn : Turn) (rest : List Turn) : Option Out' :=
  firstEnabled (fun tn i => ({ s with turns := if tn.again i then tn :: rest else rest } : State).onTurn tn) tn (s.turnSteps tn)

/-! ## The agenda -/

/-- What an agenda entry waits for within its cycle. -/
inductive DueClass where
  | arrival | far | clamp | any
  deriving DecidableEq, Repr

/-- A leaf that arrives comes first, those of one message in index order (R393); a far increment comes after the local signals and before the waits (R122); a
clamp acts after an ENDL of its cycle, at the end (R321). -/
def dueClass : Instr → DueClass
  | .leafArrival _ _ => .arrival
  | .farIncrementArrival _ _ _ _ _ => .far
  | .clampArrival _ _ => .clamp
  | _ => .any

/-- Two leaves of one message; the index of a leaf. -/
def sameMessage : Instr → Instr → Bool
  | .leafArrival _ a, .leafArrival _ b => a.src = b.src && a.lane = b.lane && a.rsp = b.rsp && a.seq = b.seq
  | _, _ => false
def leafIdx : Instr → Nat
  | .leafArrival _ l => l.idx
  | _ => 0

/-- The agenda entry to run next, at a turn of the agenda; `ending` at the cycle's last. -/
def State.nextDue (s : State) (ending : Bool) : Option (Due × Instr) :=
  let due := s.agenda.filter fun e => s.isDue e.1 && dueClass e.2 ≠ .far && (ending || dueClass e.2 ≠ .clamp)
  match due.find? fun e => dueClass e.2 = .arrival with
  | some e => (due.filter fun d => sameMessage e.2 d.2).foldl (fun a d =>
      match a with
      | some b => if leafIdx d.2 < leafIdx b.2 then some d else some b
      | none => some d) none
  | none => due.head?

/-- The far increment to apply next. -/
def State.nextFar (s : State) : Option (Due × Instr) := s.agenda.find? fun e => s.isDue e.1 && dueClass e.2 = .far

/-- The VD a decision of the keeper is on (R309). An operation of R311 is refused while the lock is held. -/
def State.decisionOn (s : State) : Instr → Option Nat
  | .notify v _ | .refresh v _ | .poolAllocRetry v | .preemptRequest v => some v
  | .nop p | .launch p | .copy p | .signal p | .waitsig p | .waitsigPoll p | .waitsigTimeout p | .cancel p | .phase p | .ckpt p
  | .completionReport p => some p.vd
  | .waveStart l | .launchComplete l => (s.launch? l).map (·.vd)
  | .discard t | .save t | .keeperContainment t => (s.team? t).map (·.vd)
  | .vdcreate v _ => some v
  | .tileDrainComplete t => some (s.tile t).vd
  | .bulkChunkBoundary d e => ((s.bulk (8 * d + e)).pkt).map (·.vd)
  | _ => none

/-- The queue of a VD a step of the keeper serves. -/
def State.serves (s : State) : Instr → Option (Nat × Nat)
  | .notify v q | .refresh v q => some (v, q)
  | .nop p | .launch p | .copy p | .signal p | .waitsig p | .waitsigPoll p | .waitsigTimeout p | .cancel p | .phase p | .ckpt p
  | .completionReport p => some (p.vd, p.q)
  | .waveStart l | .launchComplete l => (s.launch? l).bind fun l => l.pkt.map fun p => (l.vd, p.1)
  | .discard t | .save t | .keeperContainment t => (s.team? t).bind fun l => l.pkt.map fun p => (l.vd, p.1)
  | _ => none

/-- Sequencer `q` mod 2 of the home die serves queue `q`; the other one, where microcode's fault has stopped it (R308). -/
def State.sequencerOf (s : State) (home q : Nat) : Nat :=
  let on (n : Nat) : Bool := (s.seq (.keeper (2 * home + n))).on
  if !on (q % 2) && on (1 - q % 2) then 1 - q % 2 else q % 2

/-- The sequencer that serves the queue of a step acts for its VD. -/
def State.actFor (s : State) (i : Instr) : State :=
  match s.serves i with
  | some (vd, q) => s.modVd vd fun v => { v with acting := s.sequencerOf v.home q }
  | none => s

/-- Run an entry; one that cannot happen any more is dropped. A decision on a VD whose lock a command of the security
controller holds waits a cycle (R309, R414). -/
def State.runDue (s : State) (e : Due × Instr) : Out' :=
  let s : State := { s with agenda := s.agenda.erase e }
  if (s.decisionOn e.2).any s.sct.locked.contains then .next (s.postIn 1 e.2)
  else match exec e.2 (s.actFor e.2) with
    | .refused (.notEnabled _) => .next s
    | o => o

/-! ## The end of a cycle -/

/-- A tile saved in its handler runs it again (R328): its counts go on. -/
def Tile.handlerBack (x : Tile) (now : Nat) : Bool := (x.freeze.any fun f => f.kind = .handler) && x.seq.issueAt ≤ now

/-- What the end of a cycle does to a running tile: the marks of the cycle go, ρ and the counters go on, and a CBW of the
cycle before becomes readable (R222, R227, R237, R245). -/
def Tile.endCycle (x : Tile) (now wall : Nat) : Tile :=
  let live := !x.frozen
  let b := x.bsq
  let x : Tile := { x.timeHeads now wall with drained := x.drained && !x.handlerBack now }
  let due := x.constPend.filter fun e => e.1 ≤ now
  let count (c : Csr) : Csr :=
    if x.drained then c
    else { c with
      cycle := c.cycle + 1
      stalls := if !b.done && !b.issuedNow then c.stalls + 1 else c.stalls }
  let y : Tile := { x.modCsr count with
    semNow := []
    semTaken := []
    fetched := []
    const := due.foldl (fun (m : NMap Word32) e => m.set 0#32 e.2.1 e.2.2) x.const
    constPend := x.constPend.filter fun e => now < e.1
    mat := { x.mat with undo := none, worked := x.mat.worked && !live, ranOut := false, lines := 0 }
    bsq := { b with
      issuedNow := false
      resNow := []
      rhoHeld := false
      shadows := b.shadows.filter fun h => b.rho < h.due
      rho := if live && !b.rhoHeld then b.rho + 1 else b.rho
      portPrev := b.portLines
      portLines := 0
      loops := if live then b.loops.map fun l => { l with curcyc := min (l.curcyc + 1) 0xFFFF } else b.loops } }
  { y with drained := y.drained || (y.saving && y.drainedQueues) }

/-- The end of a cycle of any tile. -/
def Tile.endAny (x : Tile) (now wall : Nat) : Tile := if x.use = .running then x.endCycle now wall else { x with semNow := [], semTaken := [] }

/-- A launch that is halting or being saved has come to rest (R324, R329, R370). -/
def State.atRest (s : State) (l : Launch) : Bool :=
  (l.st = .halting || l.st = .saving) && !l.settled && (l.tiles.all fun t => (s.tile t).stillAndDrained || (s.tile t).launch ≠ l.id) &&
  ((l.st = .halting && l.stopAction < 2) || !s.faultOpen l)

/-- A halted team's status: every tile of it has stopped and drained, but for one whose handler has halted its own team
(R138). -/
def State.teamStopped (s : State) (l : Launch) : Bool :=
  let mine := (l.tiles.map s.tile).filter fun x => x.launch = l.id
  mine.any Tile.keeperStopped && mine.all fun x => x.stillAndDrained || x.freeze.any (·.kind = .handler)

/-- What follows when it has: its buffered writes perform, and once they have the keeper goes on. -/
def State.settle (s : State) (l : Launch) : State :=
  let (s, done) := s.flushTeam l
  if !done then s else
  let s := s.modLaunch l.id fun l => { l with settled := true }
  s.postIn 0 (if l.st = .saving then .save l.team else if l.stopAction < 2 then .keeperContainment l.team else .discard l.team)

/-- The turns of a cycle: tiles with a unit or one about to start, and keeper sequencers that run. The local signals of a
cycle come in the order of R122: those of M, C0 and C1, a command that completes in its start cycle among them, then the
CSQ's, then far ones; what a consuming wait has taken before counts as not yet taken (`Tile.semTook`). -/
def State.roster (s : State) : List Turn :=
  let ts := (s.tiles.filter fun e => e.2.use = .running || e.2.use = .loading).map Prod.fst
  let qs := ts.map SeqId.tile ++ (s.keepers.filter fun e => e.2.on).map fun e => SeqId.keeper e.1
  let tile (ph : Phase) : List Turn := ts.map fun t => .tile t ph
  let csq (sl : CsqSlot) : List Turn := qs.map fun q => .csq q sl
  [.agenda] ++ tile .results ++ tile .ports ++ csq .early ++ tile .clampEnd ++
  (qs.map .accStores) ++ (qs.map .accReads) ++ csq .mid ++ tile .late ++ tile .complete ++ tile .mround ++ tile .start ++ tile .complete ++
  csq .sig ++ (qs.map .accSignals) ++ [.far] ++
  tile .check ++ tile .mwork ++ csq .late ++ tile .bsq ++ csq .last ++ tile .freeze ++ tile .requestC0 ++ tile .requestC1 ++ tile .fetch ++
  tile .watchdog ++ [.agenda]

/-- The next core cycle: the marks of the one that ends go, launches that have come to rest go on, wall time passes, and
the turns of the new cycle are set (R11). -/
def State.advanceCycle (s : State) : State :=
  let s := s.modTiles (fun _ => true) fun x => x.endAny s.now s.wall
  let s : State := { s with launches := s.launches.map fun l => { l with stopped := s.teamStopped l } }
  let s := (s.launches.filter s.atRest).foldl State.settle s
  let s := State.addWall { s with now := s.now + 1 } 2
  { s with turns := s.roster }

/-! ## One step -/

/-- The step of the first turn that has one, or the next cycle. -/
def State.stepTurns (s : State) : List Turn → Out'
  | [] => .next (s.advanceCycle)
  | .agenda :: rest => match s.nextDue rest.isEmpty with
    | some e => State.runDue { s with turns := .agenda :: rest } e
    | none => s.stepTurns rest
  | .far :: rest => match s.nextFar with
    | some e => State.runDue { s with turns := .far :: rest } e
    | none => s.stepTurns rest
  | tn :: rest => match s.runTurn tn rest with
    | some o => o
    | none => s.stepTurns rest

end Sys2Proof.Machine
end

