-- ==== Sys2Proof/Machine/Step.lean ====
section
/-! DEFINITION. One step of the machine: the next step of the turns of the cycle, or the start of the next cycle. -/
namespace Sys2Proof.Machine
open Sys2Proof

/-- One step. -/
def step (s : State) : Host.Outcome State Fault Refusal := s.stepTurns s.turns

/-- The word `w` of `nbits` bits where the next step fetches it: in the program memory of tile 0, at the pc of its CSQ,
whose turn it is. A program comes to run from reset by bring-up, the making of a world and a VD, and a launch, whose loader
writes the program and starts the unit; this stands for that load (log 6). -/
def State.withFetchWord (s : State) (_nbits w : Nat) : State :=
  { s.modTile 0 fun x =>
      { x with
        use := .running
        freeze := none
        seq := { x.seq with on := true, issueAt := min x.seq.issueAt s.now, prog := x.seq.prog.set 0#32 x.seq.pc (BitVec.ofNat 32 w) } }
    with turns := [.csq (.tile 0) .any] }

end Sys2Proof.Machine
end

