-- ==== Sys2Proof/Safety.lean ====
section
/-! DEFINITION. The terms in which claims are made: the canonical form of memory, what one step may leave alone, when a
control instruction issues, and what a safe run is. -/
namespace Sys2Proof.Machine
open Sys2Proof

/-! ## Memory -/

/-- The canonical form of memory: addresses strictly rising, no entry equal to what an unlisted address reads as. An
unlisted host byte reads as a free value, which no entry can be compared with. -/
def Memory.wf (m : Memory) : Bool := NMap.wf 0#8 m.cells && (m.hostCells.map Prod.fst).Pairwise (· < ·)

/-- The canonical form of a tile's scratchpad. -/
def Tile.spadWf (x : Tile) : Bool := NMap.wf 0#8 x.spad

/-- The canonical form of everything bytes are kept in: memory, every tile's scratchpad, and those of saved teams. -/
def State.memOk (s : State) : Bool :=
  s.mem.wf && (s.tiles.all fun e => e.2.spadWf) && s.launches.all fun l => l.saveData.all fun e => e.2.1.spadWf

/-- The byte at physical address `pa` of the package's memory. -/
def State.byteAt (s : State) (pa : Nat) : Byte := NMap.get 0#8 s.mem.cells pa

/-- The byte at offset `off` of tile `t`'s scratchpad. -/
def State.spadAt (s : State) (t off : Nat) : Byte := NMap.get 0#8 (s.tile t).spad off

/-- Every byte of memory and of every scratchpad reads as before. -/
def State.SameBytes (s s' : State) : Prop :=
  (∀ pa, s'.byteAt pa = s.byteAt pa) ∧ ∀ t off, s'.spadAt t off = s.spadAt t off

/-- Every sequencer is in U or S (R29). -/
def State.ModesLegal (s : State) : Prop := ∀ q, (s.seq q).csr.mode = 0#2 ∨ (s.seq q).csr.mode = 1#2

/-! ## Frames -/

/-- Nothing but the current sequencer has changed. -/
def State.OnlySeq (s s' : State) : Prop :=
  ({ s' with tiles := s.tiles, keepers := s.keepers } : State) = s ∧
  (∀ u, ({ s'.tile u with seq := (s.tile u).seq } : Tile) = s.tile u) ∧
  ∀ q, q ≠ s.cur → s'.seq q = s.seq q

/-- An access is over in cycle `now`: it has performed, its signal has gone, and its data has returned. -/
def Acc.isOver (a : Acc) (now : Nat) : Bool := a.performed && a.stage ≠ .signalling && (!a.kind.data || a.readyAt ≤ now)

/-- Of a sequencer, nothing but g registers, their due times and the pc with its issue time has changed, and just the
accesses that are over have gone: every other one stays, in its order. -/
def Seq.OnlyRegs (q : Seq) (now : Nat) (q' : Seq) : Prop :=
  ({ q' with g := q.g, ready := q.ready, pc := q.pc, issueAt := q.issueAt, waitFrom := q.waitFrom, accs := q.accs } : Seq) = q ∧
  q'.accs = q.accs.filter fun a => !a.isOver now

/-- The current sequencer goes on at `pc`, `gap` cycles from now, and g register `d` reads `v` from `lat` cycles on: all
else stands. g0 takes no value (R21). -/
def State.Delivers (s s' : State) (d : BitVec 6) (v : Word) (lat pc gap : Nat) : Prop :=
  s.OnlySeq s' ∧ (s.seq s.cur).OnlyRegs s.now (s'.seq s.cur) ∧
  (s'.seq s.cur).pc = pc ∧ (s'.seq s.cur).issueAt = s.now + gap ∧ (s'.seq s.cur).waitFrom = none ∧
  (∀ r, (s'.seq s.cur).gr r = if r = d ∧ d ≠ 0#6 then v else (s.seq s.cur).gr r) ∧
  (d ≠ 0#6 → (s'.seq s.cur).ready.get 0 d.toNat = s.now + lat)

/-- The current sequencer goes on at `pc`, `gap` cycles from now: all else stands. -/
def State.Passes (s s' : State) (pc gap : Nat) : Prop := s.Delivers s' 0#6 0#64 0 pc gap

/-- The current sequencer is tile `t`'s and has passed the instruction; besides, `f` has been done to that tile, and
nothing to any other part of the package. -/
def State.PassesWith (s s' : State) (t : Nat) (f : Tile → Tile) : Prop :=
  ({ s' with tiles := s.tiles } : State) = s ∧ (∀ u, u ≠ t → s'.tile u = s.tile u) ∧
  ({ s'.tile t with seq := (f (s.tile t)).seq } : Tile) = f (s.tile t) ∧
  (f (s.tile t)).seq.OnlyRegs s.now (s'.tile t).seq ∧ (s'.tile t).seq.g = (f (s.tile t)).seq.g ∧
  (s'.tile t).seq.pc = (s.tile t).seq.pc + 1 ∧ (s'.tile t).seq.issueAt = s.now + 1 ∧ (s'.tile t).seq.waitFrom = none

/-- Nothing but tile `t` has changed. -/
def State.OnlyTile (s s' : State) (t : Nat) : Prop :=
  ({ s' with tiles := s.tiles } : State) = s ∧ ∀ u, u ≠ t → s'.tile u = s.tile u

/-- The current sequencer has passed the instruction: it issues again in the next cycle, one word on, and its g and
control registers stand. -/
def State.Passed (s s' : State) : Prop :=
  (s'.seq s.cur).pc = (s.seq s.cur).pc + 1 ∧ (s'.seq s.cur).issueAt = s.now + 1 ∧ (s'.seq s.cur).waitFrom = none ∧
  (∀ r, (s'.seq s.cur).gr r = (s.seq s.cur).gr r) ∧ (s'.seq s.cur).csr = (s.seq s.cur).csr

/-! ## Issue -/

/-- Nothing holds back an instruction of the current sequencer that names the registers `regs` (R97), or is a gate (R99). -/
def State.Clear (s : State) (regs : List (BitVec 6)) (gate : Bool) : Prop := (s.seq s.cur).hazard s.now regs gate = .go

/-- The value of a g register of the current sequencer. -/
abbrev State.g (s : State) (r : BitVec 6) : Word := (s.seq s.cur).gr r

/-- The pc of the current sequencer. -/
abbrev State.pcNow (s : State) : Nat := (s.seq s.cur).pc

/-! ## Runs -/

/-- A step that does not stop the machine. -/
def State.goesOn (s : State) : Bool :=
  match step s with
  | .next _ => true
  | _ => false

/-- A safe run of `n` steps: none of them stops. -/
def State.safeFor : Nat → State → Prop
  | 0, _ => True
  | n + 1, s => ∃ s', step s = .next s' ∧ State.safeFor n s'

end Sys2Proof.Machine
end

