-- ==== Sys2Proof/Certificates/Slice0/Obligations.lean ====
section
/-! DEFINITION. The statements for the provers. Each docstring names the rules it formalises. "Nothing holds an
instruction back" is `State.Clear`: no result it names is still due (R97) and no access stands in its way (R99). -/
open Sys2Proof Sys2Proof.Machine

/-- R66 to R71: the encoder's word of every well-formed control instruction decodes to it, for every value of every
operand. -/
def Obligations.DecodeOfEncode : Prop := ∀ i : Instr, wf i = true → decode (encode i) = i

/-- R66 to R71: a word that decodes to anything but an unassigned word is the encoder's word of what it decodes to, so
that no bit of it is dropped. -/
def Obligations.EncodeOfDecode : Prop := ∀ w : Word32, encode (decode w) = w

/-- R68 to R70: words written out bit by bit from the field table of chapter 03, one or more of each form. -/
def Obligations.DecodeWords : Prop :=
  decode 0x04285FFD#32 = .addi 5#6 2#6 0x1FFD#13 ∧ decode 0x02186281#32 = .sub 3#6 3#6 5#6 ∧
  decode 0x1A285005#32 = .lui 5#6 0x5005#19 ∧ decode 0x32281FFC#32 = .bne 5#6 0#6 0x1FFC#13 ∧
  decode 0x5C412000#32 = .ld64 8#6 9#6 0#13 ∧ decode 0x6428C000#32 = .st64 5#6 6#6 0#13 ∧
  decode 0x6A40E304#32 = .amo64 8#6 7#6 6#6 0#4 4#3 ∧ decode 0x76000009#32 = .qfence 9#9 ∧
  decode 0x8000A072#32 = .pusht 5#6 3#8 1#1 2#4 ∧ decode 0x8801C008#32 = .pushv 14#6 8#5 ∧
  decode 0x90010104#32 = .semwait 1#1 1#8 4#8 ∧ decode 0x9200F004#32 = .semsig 7#6 1#1 0#4 4#8 ∧
  decode 0xA2000000#32 = .uend ∧ decode 0xA4000000#32 = .park ∧ decode 0xC2000000#32 = .eret ∧
  decode 0x00000000#32 = .unassignedControlWord 0#32 ∧ decode 0xA2000001#32 = .unassignedControlWord 0xA2000001#32

/-- R66, R97, R106: when it is the turn of a live control sequencer, a step is the meaning of the instruction that the
word at its pc decodes to, with that sequencer current and its turn taken; a pc past the program raises ILLEGAL_ENC
there, as an unassigned word does. -/
def Obligations.StepRunsTheDecodedWord : Prop :=
  ∀ (s : State) (q : SeqId) (slot : CsqSlot) (rest : List Turn) (i : Instr),
    s.turns = .csq q slot :: rest → s.csqLive q = true →
    ((s.seq q).pc < 16384 ∧ i = decode ((s.seq q).prog.get 0#32 (s.seq q).pc) ∨
      16384 ≤ (s.seq q).pc ∧ i = .unassignedControlWord 0#32) →
    (slot = .any ∨ slot = csqSlotOf (s.seq q) s.now i) →
    step s = exec i { s with turns := rest, cur := q }

/-- R416, R439, R30, R14: after package reset every tile is drained with its registers, scratchpad, semaphores and
queues zero, no world, VD, launch or die-to-die failure exists, memory is untagged and the first stage of bring-up
is the next. The canonical form of memory and of every scratchpad holds at reset. -/
def Obligations.ResetState : Prop :=
  ((∀ t, (State.reset.tile t).use = .free ∧ (∀ r, (State.reset.tile t).seq.gr r = 0#64) ∧
     (∀ off, State.reset.spadAt t off = 0#8) ∧ (∀ i, (State.reset.tile t).semVal i = 0) ∧
     (State.reset.tile t).bsq.cq = [] ∧ (State.reset.tile t).seq.accs = []) ∧
   (∀ v, State.reset.vd? v = none) ∧ State.reset.launches = [] ∧ State.reset.linksDown = [] ∧
   (∀ f, State.reset.mem.tags.get none f = none) ∧ State.reset.power.stage = 1 ∧ State.reset.now = 0) ∧
  (State.reset.memOk = true)

/-- R29, R30, R131: no control instruction leaves the two modes U and S: where every sequencer is in one of them before,
each is after. -/
def Obligations.ModesStayLegal : Prop :=
  ∀ (s s' : State) (w : Word32), s.ModesLegal → exec (decode w) s = .next s' → s'.ModesLegal

/-- R260 gives every byte of a home one value; the model holds memory as lists of address and byte pairs. Every step
that goes on keeps these lists canonical: package memory, every tile's scratchpad and every saved context list
rising addresses and no byte that an unlisted address reads as, host memory lists rising addresses. It is said of
every row of the opcode table and of every state in that form, reached or not. -/
def Obligations.EveryStepKeepsMemory : Prop :=
  ∀ s s' : State, s.memOk = true → step s = .next s' → s'.memOk = true

/-- R100: ADD, SUB, AND, OR, XOR, ANDN and SEQ deliver their result to g[rd] one cycle on, and nothing else changes but
the pc. R100: MIN, MAX and SLT compare as signed numbers, SLTU as unsigned ones. R100: CNTLZ counts the zero bits
above the highest one bit, and CNTPOP the one bits; rb is not read. R100, R102: shifts by b[5:0] or by the
immediate; the right shifts divide by a power of two, rounding down, unsigned and signed. R100, R97: the products:
bits [63:0], and bits [127:64] of the signed and of the unsigned product, three cycles on. R101, R97: quotients
truncate toward zero and remainders take the dividend's sign, 24 cycles on; a divisor of zero gives all ones and the
dividend; the most negative number divided by -1 gives itself and 0. -/
def Obligations.RegisterForms : Prop :=
  (∀ (s : State) (d a b : BitVec 6), s.Clear [d, a, b] false →
     let out (i : Instr) (v : Word) : Prop := ∃ s', exec i s = .next s' ∧ s.Delivers s' d v 1 (s.pcNow + 1) 1
     out (.add d a b) (BitVec.ofNat 64 ((s.g a).toNat + (s.g b).toNat)) ∧
     out (.sub d a b) (BitVec.ofInt 64 ((s.g a).toNat - (s.g b).toNat)) ∧
     out (.and d a b) (s.g a &&& s.g b) ∧ out (.or d a b) (s.g a ||| s.g b) ∧ out (.xor d a b) (s.g a ^^^ s.g b) ∧
     out (.andn d a b) (s.g a &&& ~~~(s.g b)) ∧ out (.seq d a b) (if s.g a = s.g b then 1#64 else 0#64)) ∧
  (∀ (s : State) (d a b : BitVec 6), s.Clear [d, a, b] false →
     let out (i : Instr) (v : Word) : Prop := ∃ s', exec i s = .next s' ∧ s.Delivers s' d v 1 (s.pcNow + 1) 1
     out (.min d a b) (BitVec.ofInt 64 (min (s.g a).toInt (s.g b).toInt)) ∧
     out (.max d a b) (BitVec.ofInt 64 (max (s.g a).toInt (s.g b).toInt)) ∧
     out (.slt d a b) (if (s.g a).toInt < (s.g b).toInt then 1#64 else 0#64) ∧
     out (.sltu d a b) (if (s.g a).toNat < (s.g b).toNat then 1#64 else 0#64)) ∧
  (∀ (s : State) (d a : BitVec 6), s.Clear [d, a] false →
     (∃ (s' : State) (n : Nat), exec (.cntlz d a) s = .next s' ∧ s.Delivers s' d (BitVec.ofNat 64 n) 1 (s.pcNow + 1) 1 ∧
       n ≤ 64 ∧ (∀ k, 64 - n ≤ k → (s.g a).getLsbD k = false) ∧ (n < 64 → (s.g a).getLsbD (63 - n) = true)) ∧
     ∃ s', exec (.cntpop d a) s = .next s' ∧
       s.Delivers s' d (BitVec.ofNat 64 (((List.range 64).filter fun k => (s.g a).getLsbD k).length)) 1 (s.pcNow + 1) 1) ∧
  (∀ (s : State) (d a b n : BitVec 6),
     let out (i : Instr) (v : Word) : Prop := ∃ s', exec i s = .next s' ∧ s.Delivers s' d v 1 (s.pcNow + 1) 1
     let k := (s.g b).toNat % 64
     let up (k : Nat) : Word := BitVec.ofNat 64 ((s.g a).toNat * 2 ^ k)
     let down (k : Nat) : Word := BitVec.ofNat 64 ((s.g a).toNat / 2 ^ k)
     let downS (k : Nat) : Word := BitVec.ofInt 64 ((s.g a).toInt / 2 ^ k)
     (s.Clear [d, a, b] false → out (.shl d a b) (up k) ∧ out (.shr d a b) (down k) ∧ out (.sra d a b) (downS k)) ∧
     (s.Clear [d, a] false →
       out (.shli d a n) (up n.toNat) ∧ out (.shri d a n) (down n.toNat) ∧ out (.srai d a n) (downS n.toNat))) ∧
  (∀ (s : State) (d a b : BitVec 6), s.Clear [d, a, b] false →
     let out (i : Instr) (v : Word) : Prop := ∃ s', exec i s = .next s' ∧ s.Delivers s' d v 3 (s.pcNow + 1) 1
     out (.mul d a b) (BitVec.ofNat 64 ((s.g a).toNat * (s.g b).toNat)) ∧
     out (.mulh d a b) (BitVec.ofInt 64 ((s.g a).toInt * (s.g b).toInt / 2 ^ 64)) ∧
     out (.mulhu d a b) (BitVec.ofNat 64 ((s.g a).toNat * (s.g b).toNat / 2 ^ 64))) ∧
  (∀ (s : State) (d a b : BitVec 6), s.Clear [d, a, b] false →
     let out (i : Instr) (v : Word) : Prop := ∃ s', exec i s = .next s' ∧ s.Delivers s' d v 24 (s.pcNow + 1) 1
     (s.g b = 0#64 → out (.div d a b) (BitVec.allOnes 64) ∧ out (.divu d a b) (BitVec.allOnes 64) ∧
       out (.rem d a b) (s.g a) ∧ out (.remu d a b) (s.g a)) ∧
     (s.g b ≠ 0#64 →
       out (.div d a b) (BitVec.ofInt 64 ((s.g a).toInt.tdiv (s.g b).toInt)) ∧
       out (.rem d a b) (BitVec.ofInt 64 ((s.g a).toInt.tmod (s.g b).toInt)) ∧
       out (.divu d a b) (BitVec.ofNat 64 ((s.g a).toNat / (s.g b).toNat)) ∧
       out (.remu d a b) (BitVec.ofNat 64 ((s.g a).toNat % (s.g b).toNat))))

/-- R102, R104: the immediate forms sign-extend their 13 bits; LUI gives sext(imm) times 2^13, and LCAT shifts g[rd] up
by 19 bits and puts the immediate below. R103, R68: EXTR and EXTRZ take bits [pos+len-1:pos] with and without sign,
INSR replaces them in g[rd]; the field holds len - 1, and pos + len above 64 raises ILLEGAL_ENC. -/
def Obligations.ImmediateAndFieldForms : Prop :=
  (∀ (s : State) (d a : BitVec 6) (i : BitVec 13) (j : BitVec 19),
     let out (k : Instr) (v : Word) : Prop := ∃ s', exec k s = .next s' ∧ s.Delivers s' d v 1 (s.pcNow + 1) 1
     let x : Word := BitVec.ofInt 64 i.toInt
     (s.Clear [d, a] false →
       out (.addi d a i) (s.g a + x) ∧ out (.andi d a i) (s.g a &&& x) ∧ out (.ori d a i) (s.g a ||| x) ∧
       out (.xori d a i) (s.g a ^^^ x) ∧ out (.slti d a i) (if (s.g a).toInt < i.toInt then 1#64 else 0#64)) ∧
     (s.Clear [d] false →
       out (.lui d j) (BitVec.ofInt 64 (j.toInt * 2 ^ 13)) ∧
       out (.lcat d j) (BitVec.ofNat 64 ((s.g d).toNat * 2 ^ 19 + j.toNat)))) ∧
  (∀ (s : State) (d a l p : BitVec 6), s.Clear [d, a] false →
     let len := l.toNat + 1
     let out (i : Instr) (v : Word) : Prop := ∃ s', exec i s = .next s' ∧ s.Delivers s' d v 1 (s.pcNow + 1) 1
     (p.toNat + len ≤ 64 →
       out (.extrz d a l p) (BitVec.ofNat 64 ((s.g a).toNat / 2 ^ p.toNat % 2 ^ len)) ∧
       out (.extr d a l p) (((s.g a).extractLsb' p.toNat len).signExtend 64) ∧
       ∃ v, out (.insr d a l p) v ∧ ∀ k, k < 64 →
         v.getLsbD k = if p.toNat ≤ k ∧ k < p.toNat + len then (s.g a).getLsbD (k - p.toNat) else (s.g d).getLsbD k) ∧
     (64 < p.toNat + len → ∀ i ∈ [Instr.extr d a l p, .extrz d a l p, .insr d a l p],
       exec i s = .next (s.raise illegalEnc 0#64)))

/-- R105, R67: a conditional branch that is not taken goes on at the next word; one that is taken goes to pc + offset
three cycles on, and raises ILLEGAL_ENC where that lies outside 0 to 16 383. R106, R67: J and JL go to pc + offset,
JLR to g[ra] + imm, three cycles on; JL puts pc + 1 in g63 and JLR in g[rd], and the target of JLR is read before
the link is written. A target outside 0 to 16 383 raises ILLEGAL_ENC and writes no link. -/
def Obligations.ControlTransfers : Prop :=
  (∀ (s : State) (a b : BitVec 6) (o : BitVec 13), s.Clear [a, b] false →
     let goes (i : Instr) (c : Prop) : Prop :=
       (¬ c → ∃ s', exec i s = .next s' ∧ s.Passes s' (s.pcNow + 1) 1) ∧
       (∀ t : Nat, c → (s.pcNow : Int) + o.toInt = t → t ≤ 16383 → ∃ s', exec i s = .next s' ∧ s.Passes s' t 3) ∧
       (c → ((s.pcNow : Int) + o.toInt < 0 ∨ 16383 < (s.pcNow : Int) + o.toInt) →
         exec i s = .next (s.raise illegalEnc 0#64))
     goes (.beq a b o) (s.g a = s.g b) ∧ goes (.bne a b o) (s.g a ≠ s.g b) ∧
     goes (.blt a b o) ((s.g a).toInt < (s.g b).toInt) ∧ goes (.bge a b o) ((s.g b).toInt ≤ (s.g a).toInt) ∧
     goes (.bltu a b o) ((s.g a).toNat < (s.g b).toNat) ∧ goes (.bgeu a b o) ((s.g b).toNat ≤ (s.g a).toNat)) ∧
  (∀ (s : State),
     (∀ o : BitVec 25, s.Clear [] false → ∀ t : Nat, (s.pcNow : Int) + o.toInt = t → t ≤ 16383 →
       ∃ s', exec (.j o) s = .next s' ∧ s.Passes s' t 3) ∧
     (∀ o : BitVec 25, s.Clear [63#6] false → ∀ t : Nat, (s.pcNow : Int) + o.toInt = t → t ≤ 16383 →
       ∃ s', exec (.jl o) s = .next s' ∧ s.Delivers s' 63#6 (BitVec.ofNat 64 (s.pcNow + 1)) 1 t 3) ∧
     (∀ (d a : BitVec 6) (i : BitVec 13), s.Clear [d, a] false →
       let t := (s.g a + BitVec.ofInt 64 i.toInt).toNat
       (t ≤ 16383 → ∃ s', exec (.jlr d a i) s = .next s' ∧ s.Delivers s' d (BitVec.ofNat 64 (s.pcNow + 1)) 1 t 3) ∧
       (16383 < t → exec (.jlr d a i) s = .next (s.raise illegalEnc 0#64))) ∧
     (∀ o : BitVec 25, ((s.pcNow : Int) + o.toInt < 0 ∨ 16383 < (s.pcNow : Int) + o.toInt) →
       (s.Clear [] false → exec (.j o) s = .next (s.raise illegalEnc 0#64)) ∧
       (s.Clear [63#6] false → exec (.jl o) s = .next (s.raise illegalEnc 0#64))))

/-- R30, R98, R235: a fault raised in U that HMASK directs to a handler enters S at EVEC: ESTATUS, EPC, ECAUSE and EADDR
say what happened, the first handler instruction issues three cycles on, the BSQ is frozen, and no g register and no
byte changes. R30, R130, R370: every other fault of a tile that nothing has stopped yet stops it for the keeper, to
which it is posted: from U the exception registers are written, from S they keep the first event; the mode and the
pc stay. -/
def Obligations.FaultIsTaken : Prop :=
  (∀ (s : State) (t code : Nat) (addr : Word), s.cur = .tile t →
     let q := (s.tile t).seq
     q.csr.mode = 0#2 → q.csr.evec ≠ 0#14 → s.hmaskHas t code = true → (s.tile t).keeperStopped = false →
     let s' := s.raise code addr
     let r := (s'.tile t).seq
     r.csr.mode = 1#2 ∧ r.csr.estatus = 0#2 ∧ r.csr.epc = BitVec.ofNat 14 q.pc ∧ r.csr.ecause = BitVec.ofNat 16 code ∧
     r.csr.eaddr = addr ∧ r.csr.ebaddr = q.csr.ebaddr ∧ r.csr.evec = q.csr.evec ∧ r.csr.ctx = q.csr.ctx ∧
     r.pc = q.csr.evec.toNat ∧ r.issueAt = s.now + 3 ∧ (∀ x, r.gr x = q.gr x) ∧ (s'.tile t).frozen = true ∧
     s.OnlyTile s' t ∧ s.SameBytes s') ∧
  (∀ (s : State) (t code : Nat) (addr : Word), s.cur = .tile t → (s.tile t).keeperStopped = false →
     let q := (s.tile t).seq
     (q.csr.mode ≠ 0#2 ∨ q.csr.evec = 0#14 ∨ s.hmaskHas t code = false) →
     let s' := s.raise code addr
     let r := (s'.tile t).seq
     r.csr.mode = q.csr.mode ∧ r.pc = q.pc ∧ (s'.tile t).keeperStopped = true ∧ (∀ x, r.gr x = q.gr x) ∧ s.SameBytes s' ∧
     (q.csr.mode = 0#2 → r.csr.epc = BitVec.ofNat 14 q.pc ∧ r.csr.ecause = BitVec.ofNat 16 code ∧ r.csr.eaddr = addr ∧
       r.csr.estatus = 0#2) ∧
     (q.csr.mode ≠ 0#2 → r.csr.epc = q.csr.epc ∧ r.csr.ecause = q.csr.ecause ∧ r.csr.eaddr = q.csr.eaddr ∧
       r.csr.estatus = q.csr.estatus) ∧
     ∃ k, s'.kfaults = s.kfaults ++ [k] ∧ k.tile = t ∧ k.fault.code = code ∧ k.fault.eaddr = addr ∧ k.fault.epc = q.pc)

/-- R97: every form that names a register whose result is still due waits at issue, and nothing of it happens, where no
access stands before it: the link of JL names g63, and SPAWN its arguments g8 to g15. -/
def Obligations.ResultsAreAwaited : Prop :=
  ∀ (s : State) (d a b r n p : BitVec 6) (i : BitVec 13) (f : BitVec 4) (sc : BitVec 3), r ≠ 0#6 →
    s.now < (s.seq s.cur).ready.get 0 r.toNat → (s.seq s.cur).accs = [] →
    let waits (l : List Instr) : Prop := ∀ k ∈ l, exec k s = .next s.waitCsq
    (r ∈ [d, a, b] → ∀ w, waits [.add d a b, .sub d a b, .and d a b, .or d a b, .xor d a b, .andn d a b, .shl d a b, .shr d a b, .sra d a b,
      .mul d a b, .mulh d a b, .mulhu d a b, .div d a b, .divu d a b, .rem d a b, .remu d a b, .min d a b, .max d a b, .slt d a b,
      .sltu d a b, .seq d a b, .amo32 d a b f sc, .amo64 d a b f sc, .amos32 d a b f sc, .amos64 d a b f sc, .cas d a b w sc]) ∧
    (r ∈ [d, a] → waits [.cntlz d a, .cntpop d a, .addi d a i, .andi d a i, .ori d a i, .xori d a i, .slti d a i, .shli d a n, .shri d a n,
      .srai d a n, .extr d a n p, .extrz d a n p, .insr d a n p, .beq d a i, .bne d a i, .blt d a i, .bge d a i, .bltu d a i, .bgeu d a i,
      .jlr d a i, .ldS8 d a i, .ldZ8 d a i, .ldS16 d a i, .ldZ16 d a i, .ldS32 d a i, .ldZ32 d a i, .ld64 d a i, .st8 d a i, .st16 d a i,
      .st32 d a i, .st64 d a i, .krot d a]) ∧
    (r ∈ [d, a, 8, 9, 10, 11, 12, 13, 14, 15] → waits [.spawn d a]) ∧
    (r = 63#6 → ∀ o, waits [.jl o]) ∧
    (r = a → ∀ (j : BitVec 19) (x : BitVec 8) (c : BitVec 1) (y : BitVec 12), waits [.lui a j, .lcat a j, .pusht a x c f, .pushm a sc x,
      .pusho a j, .pushv a (x.setWidth 5), .semrd a x, .seminit a x, .semsig a 1#1 f x, .cbw a y, .csrr a y, .csrw a y, .rdtime a,
      .tlbkill a c, .haltb a, .scrub a] ∧ ∀ q : BitVec 2, q ≠ 0#2 → waits [.strm a q p])

/-- R68, R69, R71: a field outside its limit raises ILLEGAL_ENC, and so does a word no row assigns. R135: the privileged
forms raise PERM in U; KROT and SCRUB raise it on every tile, and for a key ID outside 1 to 254; ERET raises it in U
(R131); HALTB raises it on a tile for another team. -/
def Obligations.RefusedForms : Prop :=
  (∀ (s : State) (d a b : BitVec 6) (f : BitVec 4) (sc : BitVec 3),
     let ill (i : Instr) : Prop := exec i s = .next (s.raise illegalEnc 0#64)
     (s.Clear [d, a, b] false →
       (8 < f.toNat ∨ 4 < sc.toNat →
         ill (.amo32 d a b f sc) ∧ ill (.amo64 d a b f sc) ∧ ill (.amos32 d a b f sc) ∧ ill (.amos64 d a b f sc)) ∧
       (4 < sc.toNat → ∀ w, ill (.cas d a b w sc))) ∧
     (∀ c, s.Clear [a] false → ill (.pushm a 0#3 c)) ∧
     (∀ x, s.Clear [] false → ill (.semwait 1#1 0#8 x)) ∧
     (∀ i x, a ≠ 0#6 → s.Clear [] true → ill (.semsig a 0#1 i x)) ∧
     (∀ p, s.Clear [a] false → ill (.strm a 2#2 p)) ∧
     (s.Clear [] false → s.pcNow < 16384 → ∀ w, ill (.unassignedControlWord w))) ∧
  (∀ (s : State) (a b : BitVec 6),
     let no (i : Instr) : Prop := exec i s = .next (s.raise perm 0#64)
     (s.Clear [a] false → (s.seq s.cur).mode = 0#2 →
       (∀ r, no (.tlbkill a r)) ∧ no (.haltb a) ∧ no (.scrub a)) ∧
     (s.Clear [] false → (s.seq s.cur).mode = 0#2 → no .tlbsync ∧ no .eret) ∧
     (s.Clear [a, b] false → ((s.seq s.cur).mode = 0#2 ∨ (∃ t, s.cur = .tile t) ∨ (s.g a).toNat = 0 ∨ 254 < (s.g a).toNat ∨
       (s.g b).toNat = 0 ∨ 254 < (s.g b).toNat) → no (.krot a b)) ∧
     (s.Clear [a] false → ((∃ t, s.cur = .tile t) ∨ (s.g a).toNat = 0 ∨ 254 < (s.g a).toNat) → no (.scrub a)) ∧
     (∀ t, s.cur = .tile t → s.Clear [a] false → (s.tile t).team ≠ (s.g a).toNat % 2 ^ 16 → no (.haltb a)))

/-- R31: the check of an address of `n` bytes by tile `t`: CANON for reserved space or a bit that must be zero,
SPAD_BOUNDS beyond the live extent or at an absent logical tile. -/
def Obligations.AddressChecks : Prop :=
  ∀ (s : State) (t n : Nat) (a : Word),
    let top := a.toNat / 2 ^ 62
    let off := a.toNat % 2 ^ 21
    (top = 3 → checkAddr s t a n = .error canon) ∧
    (top = 0 → checkAddr s t a n = if a.toNat < 2 ^ 56 then .ok (.dva a.toNat) else .error canon) ∧
    (top = 2 → checkAddr s t a n =
      if 2 * 2 ^ 62 + 2 ^ 21 ≤ a.toNat then .error canon
      else if off + n ≤ (s.tile t).live then .ok (.slice t off) else .error spadBounds) ∧
    (top = 1 → checkAddr s t a n =
      if 2 ^ 62 + 2 ^ 31 ≤ a.toNat then .error canon
      else match (s.tile t).seq.csr.ptile (a.toNat / 2 ^ 21 % 1024) with
        | none => .error spadBounds
        | some u => if off + n ≤ (s.tile u).live then .ok (.slice u off) else .error spadBounds)

/-- R107, R108, R110 to R112, R98: a load, store or atomic whose address passes the checks of R31 is taken into its
queue and the next instruction follows in the next cycle: no g register and no byte changes yet. The first part that
fails raises its fault at issue; that EADDR is then the part's own address, not the access's, is the model's choice
(log 15). An AMOS whose far target is absent raises SPAD_BOUNDS at issue after these checks; on a keeper sequencer,
which has no tiles and no semaphores (R308), every far target is absent and a local one stops with keeperLacks: the
model's choice (log 12). -/
def Obligations.AccessIssue : Prop :=
  ∀ (s : State) (d a b : BitVec 6) (i : BitVec 13) (f : BitVec 4) (sc : BitVec 3),
    let bad (A : Word) (w : Nat) : Option (Nat × Nat) := (splitLines A.toNat w).findSome? fun p =>
      match checkSeqAddr s s.cur (BitVec.ofNat 64 p.addr) p.len with
      | .error c => some (c, p.addr)
      | .ok _ => none
    let takes (k : Instr) (kind : AccKind) (qn : Nat) (A : Word) (w : Nat) (data cmp : Word) : Prop :=
      (bad A w = none → ∃ s' x, exec k s = .next s' ∧ s.Passed s' ∧ s.SameBytes s' ∧ x ∈ (s'.seq s.cur).accs ∧
        x.id = (s.seq s.cur).nextAcc ∧ x.q = qn ∧ x.kind = kind ∧ x.addr = A ∧ x.width = w ∧ x.rd = d.toNat ∧
        x.data = data ∧ x.cmp = cmp ∧ x.performed = false ∧ x.issuedAt = s.now) ∧
      ∀ c e, bad A w = some (c, e) → exec k s = .next (s.raise c (BitVec.ofNat 64 e))
    let at_ := s.g a + BitVec.ofInt 64 i.toInt
    let low (w : Nat) (x : Word) : Word := BitVec.ofNat 64 (x.toNat % 2 ^ (8 * w))
    let sig := (s.g d).toNat
    let farAbsent : Prop := sig / 2 ^ 13 % 2 = 1 ∧ ((∃ k, s.cur = .keeper k) ∨ (s.seq s.cur).csr.ptile (sig / 2 ^ 14 % 1024) = none)
    let here : Prop := sig / 2 ^ 12 % 2 = 1
    (s.Clear [d, a] false →
      takes (.ldS8 d a i) (.load true) 0 at_ 1 0 0 ∧ takes (.ldZ8 d a i) (.load false) 0 at_ 1 0 0 ∧
      takes (.ldS16 d a i) (.load true) 0 at_ 2 0 0 ∧ takes (.ldZ16 d a i) (.load false) 0 at_ 2 0 0 ∧
      takes (.ldS32 d a i) (.load true) 0 at_ 4 0 0 ∧ takes (.ldZ32 d a i) (.load false) 0 at_ 4 0 0 ∧
      takes (.ld64 d a i) (.load false) 0 at_ 8 0 0 ∧
      takes (.st8 d a i) .store 1 at_ 1 (s.g d) 0 ∧ takes (.st16 d a i) .store 1 at_ 2 (s.g d) 0 ∧
      takes (.st32 d a i) .store 1 at_ 4 (s.g d) 0 ∧ takes (.st64 d a i) .store 1 at_ 8 (s.g d) 0) ∧
    (s.Clear [d, a, b] false → sc.toNat ≤ 4 →
      takes (.cas d a b 0 sc) .cas 2 (s.g a) 4 (low 4 (s.g b)) (low 4 (s.g d)) ∧
      takes (.cas d a b 1 sc) .cas 2 (s.g a) 8 (low 8 (s.g b)) (low 8 (s.g d)) ∧
      (f.toNat ≤ 8 →
        takes (.amo32 d a b f sc) (.amo f.toNat) 2 (s.g a) 4 (low 4 (s.g b)) 0 ∧
        takes (.amo64 d a b f sc) (.amo f.toNat) 2 (s.g a) 8 (low 8 (s.g b)) 0 ∧
        (¬ farAbsent → ((∃ t, s.cur = .tile t) ∨ ¬ here) →
          takes (.amos32 d a b f sc) (.amos f.toNat) 2 (s.g a) 4 (low 4 (s.g b)) (s.g d) ∧
          takes (.amos64 d a b f sc) (.amos f.toNat) 2 (s.g a) 8 (low 8 (s.g b)) (s.g d)) ∧
        ∀ k w, (k, w) ∈ [(Instr.amos32 d a b f sc, 4), (.amos64 d a b f sc, 8)] →
          (bad (s.g a) w = none → farAbsent → exec k s = .next (s.raise spadBounds 0#64)) ∧
          (bad (s.g a) w = none → ¬ farAbsent → (∃ n, s.cur = .keeper n) → here →
            exec k s = .refused (.keeperLacks (if w = 4 then "AMOS_32" else "AMOS_64"))) ∧
          ∀ c e, bad (s.g a) w = some (c, e) → exec k s = .next (s.raise c (BitVec.ofNat 64 e))))

/-- R97, R107, R258: a load of scratchpad takes its bytes from the slice that holds them and delivers them, with or
without sign; the value is readable 6 cycles on from the own slice and 4 + 2h from one h hops away; a load to g0
performs and delivers nothing. No byte changes. R107, R108, R258: a store to scratchpad writes its low bytes, lowest
byte at the lowest address, and no other byte. -/
def Obligations.ScratchpadAccess : Prop :=
  (∀ (s : State) (t u base id : Nat) (x : Acc) (sg : Bool), s.acc? (.tile t) id = some x → s.accDue (.tile t) x = true →
     x.kind = .load sg → x.q = 0 → base + x.width ≤ 2 ^ 21 → base % 64 = x.addr.toNat % 64 → 0 < x.width → x.width ≤ 8 → x.rd < 64 →
     x.parts = (splitLines x.addr.toNat x.width).map (fun p => { p with tgt := some (.spad u (base + (p.addr - x.addr.toNat))) }) →
     s.tagOk u x.ctx.world.toNat = true → (∀ p ∈ x.parts, (s.tile u).poisoned (base + (p.addr - x.addr.toNat)) = false) →
     let v : Nat := natOf ((List.range x.width).map fun k => s.spadAt u (base + k))
     ∃ s', exec (.csqAccessReturn (.tile t) id) s = .next s' ∧ s.SameBytes s' ∧
       (s'.tile t).seq.pc = (s.tile t).seq.pc ∧ (s'.tile t).seq.csr = (s.tile t).seq.csr ∧
       (∀ r, (s'.tile t).seq.gr r = if r.toNat = x.rd ∧ x.rd ≠ 0 then
         (if sg = true ∧ 2 ^ (8 * x.width) ≤ 2 * v then BitVec.ofInt 64 ((v : Int) - 2 ^ (8 * x.width)) else BitVec.ofNat 64 v)
         else (s.tile t).seq.gr r) ∧
       (x.rd ≠ 0 → (s'.tile t).seq.ready.get 0 x.rd = s.now + if t = u then 6 else 4 + 2 * hops t u)) ∧
  (∀ (s : State) (t u base id : Nat) (x : Acc), s.acc? (.tile t) id = some x → s.accDue (.tile t) x = true →
     x.kind = .store → x.q = 1 → base + x.width ≤ 2 ^ 21 → base % 64 = x.addr.toNat % 64 → x.width ≤ 8 →
     x.parts = (splitLines x.addr.toNat x.width).map (fun p => { p with tgt := some (.spad u (base + (p.addr - x.addr.toNat))) }) →
     s.tagOk u x.ctx.world.toNat = true →
     ∃ s', exec (.csqStorePerform (.tile t) id) s = .next s' ∧ (∀ pa, s'.byteAt pa = s.byteAt pa) ∧
       (∀ r, (s'.tile t).seq.gr r = (s.tile t).seq.gr r) ∧ (s'.tile t).seq.csr = (s.tile t).seq.csr ∧
       ∀ v off, s'.spadAt v off = if v = u ∧ base ≤ off ∧ off < base + x.width
         then BitVec.ofNat 8 (x.data.toNat / 256 ^ (off - base)) else s.spadAt v off)

/-- R110, R111, R112: an atomic on aligned scratchpad bytes reads the old value and writes the new one in one step; AMO
and CAS deliver the old value, zero-extended, 10 cycles on from the own slice, and none to g0; an AMOS discards it,
writes no register, and its signal is to fire from this cycle on (its scope below system); a CAS whose comparand
differs writes nothing. R112, R119, R258: the signal of an AMOS that has performed fires in its turn: a local
target's semaphore takes INC + 1, or SEMOVF is a fault of this tile's unit and leaves it; a far target's increment
is sent, 2 + 2h cycles away; no byte and no g register changes. -/
def Obligations.ScratchpadAtomic : Prop :=
  (∀ (s : State) (t u base id w : Nat) (x : Acc) (p : AccPart), s.acc? (.tile t) id = some x → s.accDue (.tile t) x = true →
     x.q = 2 → w ∈ [4, 8] → x.width = w → base % w = 0 → base + w ≤ 2 ^ 21 → x.rd < 64 → x.parts = [p] →
     p.tgt = some (.spad u base) → p.got = none → p.attr.typ = 0 →
     s.tagOk u x.ctx.world.toNat = true → (s.tile u).poisoned base = false →
     let old := natOf ((List.range w).map fun k => s.spadAt u (base + k))
     let v := x.data.toNat % 2 ^ (8 * w)
     let signed (n : Nat) : Int := if 2 ^ (8 * w) ≤ 2 * n then (n : Int) - 2 ^ (8 * w) else n
     let writes (new : Nat) (f : State → Prop) : Prop := ∃ s', exec (.csqAccessReturn (.tile t) id) s = .next s' ∧
       (∀ pa, s'.byteAt pa = s.byteAt pa) ∧
       (∀ n off, s'.spadAt n off = if n = u ∧ base ≤ off ∧ off < base + w then BitVec.ofNat 8 (new / 256 ^ (off - base))
         else s.spadAt n off) ∧ f s'
     let done (new : Nat) : Prop := writes new fun s' =>
       (∀ r, (s'.tile t).seq.gr r = if r.toNat = x.rd ∧ x.rd ≠ 0 then BitVec.ofNat 64 old else (s.tile t).seq.gr r) ∧
       (x.rd ≠ 0 → (s'.tile t).seq.ready.get 0 x.rd = s.now + if t = u then 10 else 8 + 2 * hops t u)
     let both (fn new : Nat) : Prop := (x.kind = .amo fn → done new) ∧ (x.kind = .amos fn → x.scope ≠ 4 → writes new fun s' =>
       (∀ r, (s'.tile t).seq.gr r = (s.tile t).seq.gr r) ∧ ∃ y, s'.acc? (.tile t) id = some y ∧ y.performed = true ∧
         y.stage = .signalling ∧ y.performAt = s.now ∧ y.cmp = x.cmp ∧ y.kind = x.kind)
     x.data.toNat < 2 ^ (8 * w) →
     both 0 ((old + v) % 2 ^ (8 * w)) ∧ both 1 (old &&& v) ∧ both 2 (old ||| v) ∧ both 3 (old ^^^ v) ∧
     both 4 (if signed v < signed old then v else old) ∧ both 5 (if signed old < signed v then v else old) ∧
     both 6 (min old v) ∧ both 7 (max old v) ∧ both 8 v ∧
     (x.kind = .cas → done (if old = x.cmp.toNat % 2 ^ (8 * w) then v else old))) ∧
  (∀ (s : State) (t id f : Nat) (x : Acc), s.acc? (.tile t) id = some x → x.kind = .amos f → x.performed = true → x.q = 2 →
     x.stage = .signalling → x.performAt ≤ s.now →
     let w := x.cmp.toNat
     let i := w % 256
     let n := w / 256 % 16 + 1
     let c := (s.tile t).seq.csr
     let sum := (s.tile t).semVal i + n
     let fires (p : State → Prop) : Prop := ∃ s', exec (.csqAccessReturn (.tile t) id) s = .next s' ∧ s.SameBytes s' ∧
       (∀ r, (s'.tile t).seq.gr r = (s.tile t).seq.gr r) ∧ (s'.tile t).seq.pc = (s.tile t).seq.pc ∧ p s'
     (w / 2 ^ 12 % 4 = 0 → fires fun s' => ∀ j, (s'.tile t).semVal j = (s.tile t).semVal j) ∧
     (w / 2 ^ 12 % 4 = 1 → (s.tile t).semTook i + sum ≤ 65535 → fires fun s' =>
       ∀ j, (s'.tile t).semVal j = if j = i then sum else (s.tile t).semVal j) ∧
     (w / 2 ^ 12 % 4 = 1 → 65535 < (s.tile t).semTook i + sum → fires fun s' => (∀ j, (s'.tile t).semVal j = (s.tile t).semVal j) ∧
       ∃ e, (s'.tile t).faults = (s.tile t).faults ++ [e] ∧ e.code = semOvf ∧ e.slot = 0 ∧ e.eaddr = BitVec.ofNat 64 c.ltile.toNat ∧
         e.epc = (s.tile t).seq.pc) ∧
     (∀ u, w / 2 ^ 12 % 4 = 2 → c.ptile (w / 2 ^ 14 % 1024) = some u → s.linksDown = [] → fires fun s' =>
       (∀ j, (s'.tile t).semVal j = (s.tile t).semVal j) ∧ s'.agenda = s.agenda ++ [(.cycle (s.now + (2 + 2 * hops t u)),
         .farIncrementArrival u i n c.ltile.toNat c.ctx.world.toNat)]))

/-- R114, R115, R268: MARK and QFENCE pass in one cycle when nothing before them stands in the way, MARK with its marker
set; a QFENCE that names Q1 waits while a store before it has not performed. Nothing combined is pending here, so no
byte changes. -/
def Obligations.MarkAndFence : Prop :=
  ∀ (s : State) (t : Nat) (m : BitVec 9), s.cur = .tile t → s.Clear [] true → (s.tile t).wbuf = [] →
    (∃ s', exec .mark s = .next s' ∧ s.PassesWith s' t fun x => { x with seq := { x.seq with mark := x.seq.nextAcc } }) ∧
    (∃ s', exec (.qfence 0#9) s = .next s' ∧ s.PassesWith s' t fun x => { x with seq := { x.seq with fence := none } }) ∧
    (((s.tile t).seq.accs.all fun a => a.performed || a.fault.isSome) = true → m.toNat < 8 →
      ∃ s', exec (.qfence m) s = .next s' ∧ s.PassesWith s' t fun x => { x with seq := { x.seq with fence := none } }) ∧
    (∀ a ∈ (s.tile t).seq.accs, a.q = 1 → a.performed = false → a.fault = none → a.id < (s.tile t).seq.nextAcc →
      (s.tile t).seq.fence = none → m.getLsbD 1 = true →
      ∃ s', exec (.qfence m) s = .next s' ∧ s.OnlyTile s' t ∧ s.SameBytes s' ∧ (s'.tile t).seq.pc = s.pcNow ∧
        (s'.tile t).seq.fence.isSome = true)

/-- R84, R116, R117: a push appends its entry of R84 at the tail of the CQ and passes; while the CQ holds 64 it waits.
-/
def Obligations.Pushes : Prop :=
  ∀ (s : State) (t : Nat) (a : BitVec 6) (e c8 : BitVec 8) (c : BitVec 1) (l : BitVec 4) (k : BitVec 3) (tgt : BitVec 19)
    (x5 : BitVec 5), s.cur = .tile t →
    let q := (s.tile t).bsq.cq
    let src := (s.g a).toNat
    let puts (i : Instr) (entry : Nat) : Prop :=
      (q.length < 64 → ∃ s', exec i s = .next s' ∧ s.PassesWith s' t fun x => { x with bsq := { x.bsq with
        cq := x.bsq.cq ++ [{ w := BitVec.ofNat 64 entry, pushedAt := s.now, pos := x.seq.nextAcc }] } }) ∧
      (64 ≤ q.length → exec i s = .next s.waitCsq)
    (s.Clear [a] false →
      puts (.pusht a e c l) (1 * 2 ^ 60 + e.toNat * 2 ^ 52 + c.toNat * 2 ^ 51 + l.toNat * 2 ^ 47 + src % 2 ^ 32) ∧
      (k ≠ 0#3 → puts (.pushm a k c8) (2 * 2 ^ 60 + k.toNat * 2 ^ 24 + c8.toNat * 2 ^ 16 + src % 2 ^ 16)) ∧
      puts (.pusho a tgt) (3 * 2 ^ 60 + (if src = 0 then 0 else 2 ^ 20) + tgt.toNat) ∧
      puts (.pushv a x5) (5 * 2 ^ 60 + x5.toNat * 2 ^ 32 + src % 2 ^ 32)) ∧
    (s.Clear [] false → puts (.pushb tgt) (4 * 2 ^ 60 + tgt.toNat))

/-- R118, R119: SEMWAIT passes once the semaphore, without the increments of this cycle, holds the threshold, and takes
it away where it consumes; else it waits. That a far increment of this cycle is not in that value either is the
model's choice (log 26). R119 to R122, R134: SEMRD delivers the semaphore as it stands; SEMINIT sets it and a local
SEMSIG adds to it, setting the event latch; a value above 65 535 raises SEMOVF and leaves it; a SEMSIG comes before
what waits of this cycle have taken. A far SEMSIG sends the increment, which is applied 2 + 2h cycles on; one to
this tile's own number is local, and one to an absent tile raises SPAD_BOUNDS. That every SEMINIT sets the latch
(log 105) and that EADDR is then 0 (log 40) are the model's choices. -/
def Obligations.Semaphores : Prop :=
  (∀ (s : State) (t : Nat) (c : BitVec 1) (n i : BitVec 8), s.cur = .tile t → s.Clear [] false → (c = 1#1 → n ≠ 0#8) →
     ((s.tile t).semSeen i.toNat < n.toNat → exec (.semwait c n i) s = .next s.waitCsq) ∧
     (n.toNat ≤ (s.tile t).semSeen i.toNat → ∃ s', exec (.semwait c n i) s = .next s' ∧ s.Passed s' ∧ s.OnlyTile s' t ∧ s.SameBytes s' ∧
       ∀ j, (s'.tile t).semVal j = if c = 1#1 ∧ j = i.toNat then (s.tile t).semVal j - n.toNat else (s.tile t).semVal j)) ∧
  (∀ (s : State) (t : Nat) (a : BitVec 6) (n : BitVec 4) (i : BitVec 8), s.cur = .tile t →
     let sets (k : Instr) (v : Nat) : Prop := ∃ s', exec k s = .next s' ∧ s.Passed s' ∧ s.OnlyTile s' t ∧ s.SameBytes s' ∧
       (s'.tile t).latch = true ∧ ∀ j, (s'.tile t).semVal j = if j = i.toNat then v else (s.tile t).semVal j
     let sum := (s.tile t).semVal i.toNat + n.toNat + 1
     let high := (s.tile t).semTook i.toNat + sum
     let far := (s.seq s.cur).csr.ptile (s.g a).toNat
     (s.Clear [a] false →
       (∃ s', exec (.semrd a i) s = .next s' ∧ s.Delivers s' a (BitVec.ofNat 64 ((s.tile t).semVal i.toNat)) 1 (s.pcNow + 1) 1) ∧
       ((s.g a).toNat ≤ 65535 → sets (.seminit a i) (s.g a).toNat) ∧
       (65535 < (s.g a).toNat → exec (.seminit a i) s = .next (s.raise semOvf 0#64))) ∧
     (((s.tile t).seq.accs.all (·.performed)) = true → (s.tile t).wbuf = [] →
       (s.Clear [] true →
         (high ≤ 65535 → sets (.semsig 0#6 0#1 n i) sum) ∧
         (65535 < high → exec (.semsig 0#6 0#1 n i) s = .next (s.raise semOvf 0#64))) ∧
       (s.Clear [a] true →
         (far = none → exec (.semsig a 1#1 n i) s = .next (s.raise spadBounds 0#64)) ∧
         (far = some t → high ≤ 65535 → sets (.semsig a 1#1 n i) sum) ∧
         (far = some t → 65535 < high → exec (.semsig a 1#1 n i) s = .next (s.raise semOvf 0#64)) ∧
         (∀ u, far = some u → u ≠ t → s.linksDown = [] →
           ∃ s', exec (.semsig a 1#1 n i) s = .next s' ∧ s.Passed s' ∧ s.SameBytes s' ∧ (∀ j, (s'.tile t).semVal j = (s.tile t).semVal j) ∧
             s'.agenda = s.agenda ++ [(.cycle (s.now + 2 + 2 * hops t u), .farIncrementArrival u i.toNat (n.toNat + 1)
               (s.tile t).seq.csr.ltile.toNat (s.tile t).seq.csr.ctx.world.toNat)]))))

/-- R119, R120, R417: a far increment is applied where it arrives, running or not; one that would pass 65 535 leaves the
semaphore and stops the tile's unit with SEMOVF, naming the sender; one of another world is dropped and counted.
That an event which names no tile of the part stops with noSuchUnit is the model's choice (log 13). -/
def Obligations.FarIncrement : Prop :=
  ∀ (s : State) (t i n src w : Nat), t < 1024 → i < 256 →
    (s.tagOk t w = true → (s.tile t).semVal i + (s.tile t).semTook i + n ≤ 65535 → ∃ s', exec (.farIncrementArrival t i n src w) s = .next s' ∧ s.OnlyTile s' t ∧
      s.SameBytes s' ∧ (s'.tile t).seq = (s.tile t).seq ∧ (s'.tile t).latch = true ∧
      ∀ j, (s'.tile t).semVal j = if j = i then (s.tile t).semVal i + n else (s.tile t).semVal j) ∧
    (s.tagOk t w = true → 65535 < (s.tile t).semVal i + (s.tile t).semTook i + n → ∃ s', exec (.farIncrementArrival t i n src w) s = .next s' ∧
      s.SameBytes s' ∧ (∀ j, (s'.tile t).semVal j = (s.tile t).semVal j) ∧
      ((s.tile t).use = .running → (s.tile t).freeze = none → ∃ f, (s'.tile t).faults = (s.tile t).faults ++ [f] ∧
        f.code = semOvf ∧ f.slot = 0 ∧ f.eaddr = BitVec.ofNat 64 src ∧ f.epc = (s.tile t).seq.pc) ∧
      ((s.tile t).use = .ended ∨ (s.tile t).use = .parked → ∃ k, s'.kfaults = s.kfaults ++ [k] ∧ k.tile = t ∧
        k.fault.code = semOvf ∧ k.fault.epc = 0 ∧ k.fault.eaddr = BitVec.ofNat 64 src)) ∧
    (s.tagOk t w = false → ∃ s', exec (.farIncrementArrival t i n src w) s = .next s' ∧ s'.tiles = s.tiles ∧
      (s'.die (t / 64)).wtagdrop = (s.die (t / 64)).wtagdrop + 1) ∧
    ∀ u, 1024 ≤ u → exec (.farIncrementArrival u i n src w) s = .fault (.noSuchUnit "FAR_INCREMENT_ARRIVAL" u)

/-- R123, R124: SPAWN starts a parked sibling: its arguments are g8 to g15 and its unit starts 2 + 2h cycles on. A
logical number outside the team or absent raises SPAD_BOUNDS, an address above 16 383 ILLEGAL_ENC, a tile that is
not parked SPAWN_BUSY. That EADDR of the first is 0 is the model's choice (log 40). -/
def Obligations.SpawnForm : Prop :=
  ∀ (s : State) (t : Nat) (a b : BitVec 6), s.cur = .tile t → s.Clear [a, b, 8, 9, 10, 11, 12, 13, 14, 15] true →
    let c := (s.tile t).seq.csr
    let lt := (s.g a).toNat
    ((c.ptile lt = none ∨ c.teamsz.toNat ≤ lt) → exec (.spawn a b) s = .next (s.raise spadBounds 0#64)) ∧
    (∀ u, c.ptile lt = some u → lt < c.teamsz.toNat →
      (16383 < (s.g b).toNat → exec (.spawn a b) s = .next (s.raise illegalEnc 0#64)) ∧
      ((s.g b).toNat ≤ 16383 → ((s.tile t).seq.accs.all (·.performed)) = true → (s.tile t).wbuf = [] →
        ((s.tile u).use ≠ .parked → ∃ s₁, exec (.spawn a b) s = .next (s₁.raise spawnBusy 0#64) ∧ s.OnlyTile s₁ u ∧
          (s₁.tile u).latch = true ∧ ({ s₁.tile u with latch := (s.tile u).latch } : Tile) = s.tile u) ∧
        ((s.tile u).use = .parked → u ≠ t → ∃ s', exec (.spawn a b) s = .next s' ∧ s.Passed s' ∧ s.SameBytes s' ∧
          (s'.tile u).use = .loading ∧ (∀ i < 8, (s'.tile u).seq.csr.args.get 0#64 i = s.g (BitVec.ofNat 6 (8 + i))) ∧
          s'.agenda = s.agenda ++ [(.cycle (s.now + (2 + 2 * hops t u)), .spawnUnitStart u (s.g b).toNat)])))

/-- R20, R124, R238: a unit starts at its entry, in U, with its registers, queues and counters at their launch values
and g1 the iteration; a spawned one has g1 zero. Semaphores, scratchpad, SRSTATE and the translation registers
stand. R125, R126, R322: UEND and PARK wait until everything the unit started is done, raise CQ_PROTOCOL where
entries are left, unless the unit is clamped, and in the next cycle end it: its sequencer stops and its tile stands
ended, or parked, or drains where it was the last of its team; on a tile of no launch nothing else happens. That the
end is one cycle after the wait (log 27), and that the team of the last unit drains at once (log 30), are the
model's choices. -/
def Obligations.Units : Prop :=
  (∀ (s : State) (t e n : Nat), t < 1024 → (s.tile t).use = .loading →
     let starts (i : Instr) (iter : Nat) : Prop := ∃ s', exec i s = .next s' ∧ s.OnlyTile s' t ∧ s.SameBytes s' ∧
       (s'.tile t).use = .running ∧ (s'.tile t).seq.on = true ∧ (s'.tile t).seq.pc = e ∧ (s'.tile t).seq.issueAt = s.now ∧
       (∀ r, (s'.tile t).seq.gr r = if r = 1#6 then BitVec.ofNat 64 iter else 0#64) ∧
       (s'.tile t).seq.csr.mode = 0#2 ∧ (s'.tile t).seq.csr.cycle = 0#64 ∧ (s'.tile t).bsq.cq = [] ∧
       (∀ j, (s'.tile t).sr j = 0#64 ∧ (s'.tile t).vr j = 0#512) ∧ (s'.tile t).mat.queue = [] ∧
       (∀ j, (s'.tile t).semVal j = (s.tile t).semVal j) ∧
       (s'.tile t).seq.csr.srstate = (s.tile t).seq.csr.srstate ∧ (s'.tile t).seq.csr.ctx = (s.tile t).seq.csr.ctx ∧
       (s'.tile t).seq.csr.args = (s.tile t).seq.csr.args ∧ (s'.tile t).seq.csr.evec = (s.tile t).seq.csr.evec
     starts (.unitStart t e n) n ∧ ((s.tile t).spawned = true → starts (.spawnUnitStart t e) 0)) ∧
  (∀ (s : State) (t : Nat), s.cur = .tile t → s.Clear [] true →
     ((s.tile t).mayEnd = false → exec .uend s = .next s.waitCsq ∧ exec .park s = .next s.waitCsq) ∧
     ((s.tile t).mayEnd = true → (s.tile t).clamped = none →
       ((s.tile t).bsq.cq ≠ [] → exec .uend s = .next (s.raise cqProtocol 0#64) ∧ exec .park s = .next (s.raise cqProtocol 0#64)) ∧
       ((s.tile t).bsq.cq = [] → (s.tile t).seq.endAt = some s.now → s.launch? (s.tile t).launch = none →
         (∃ s', exec .uend s = .next s' ∧ (s'.tile t).use = .ended ∧ (s'.tile t).seq.on = false ∧ s.OnlyTile s' t ∧ s.SameBytes s') ∧
         ∃ s', exec .park s = .next s' ∧ (s'.tile t).use = .parked ∧ (s'.tile t).seq.on = false ∧ s.OnlyTile s' t ∧ s.SameBytes s')) ∧
     ((s.tile t).mayEnd = true → ((s.tile t).bsq.cq = [] ∨ (s.tile t).clamped.isSome = true) →
       ((s.tile t).seq.endAt = some s.now → ∀ i u, (i, u) ∈ [(Instr.uend, TileUse.ended), (.park, .parked)] →
         ∃ s', exec i s = .next s' ∧ (s'.tile t).seq.on = false ∧ (s'.tile t).use ∈ [u, .draining] ∧ s'.now = s.now) ∧
       ((s.tile t).seq.endAt ≠ some s.now → ∀ i ∈ [Instr.uend, .park],
         ∃ s', exec i s = .next s' ∧ (s'.tile t).seq.endAt = some (s.now + 1) ∧ (s'.tile t).seq.pc = s.pcNow ∧ (s'.tile t).use = (s.tile t).use)))

/-- R127, R237: CBW writes the low 32 bits in the next cycle. R128, R88: STRM waits for an empty CQ and a quiescent BSQ,
then takes four cycles; it unbinds the port, or binds it to a descriptor named by a multiple of 16 not above 4080;
any other address raises ILLEGAL_ENC, and so do a BASE with bits above 20, a word of 10 to 15 that is not zero, and
a stride that is no multiple of 64. An element outside 0 to LSPEXT - 64 raises SPAD_BOUNDS. That the four cycles
begin where the wait ends and the faults are found there, with the port left as it was, is the model's choice (log
41). -/
def Obligations.ConstantsAndStreams : Prop :=
  (∀ (s : State) (t : Nat) (a : BitVec 6) (w : BitVec 12), s.cur = .tile t → s.Clear [a] false →
     ∃ s', exec (.cbw a w) s = .next s' ∧ s.PassesWith s' t fun x => { x with
       constPend := x.constPend ++ [(s.now + 1, w.toNat, (s.g a).setWidth 32)] }) ∧
  (∀ (s : State) (t : Nat) (a : BitVec 6) (d : BitVec 2) (p : BitVec 6), s.cur = .tile t → d ≠ 2#2 →
     s.Clear (if d = 0 then [] else [a]) false →
     ((s.tile t).seq.strmUntil = none → (s.tile t).bsq.cq ≠ [] → exec (.strm a d p) s = .next s.waitCsq) ∧
     ((s.tile t).seq.strmUntil = none → (s.tile t).strmReady t p.toNat s.now = true →
       (d = 0#2 → ∃ s', exec (.strm a d p) s = .next s' ∧ (s'.tile t).seq.strmUntil = some (s.now + 3) ∧ (s'.tile t).seq.pc = s.pcNow) ∧
       (d ≠ 0#2 → (4080 < (s.g a).toNat ∨ (s.g a).toNat % 16 ≠ 0) → exec (.strm a d p) s = .next (s.raise illegalEnc 0#64)) ∧
       (d ≠ 0#2 → (s.g a).toNat ≤ 4080 → (s.g a).toNat % 16 = 0 →
         let w (i : Nat) : Nat := ((s.tile t).constView.constWord ((s.g a).toNat + i)).toNat
         let base : Nat := w 0 + w 1 * 2 ^ 32
         let str (i : Nat) : Int := (BitVec.ofNat 32 (w (6 + i))).toInt
         let good : Prop := base < 2 ^ 21 ∧ (∀ i, i < 6 → w (10 + i) = 0) ∧ ∀ i, i < 4 → str i % 64 = 0
         let at_ (k : Nat → Nat) : Int := (base : Int) + (k 0 : Int) * str 0 + (k 1 : Int) * str 1 + (k 2 : Int) * str 2 + (k 3 : Int) * str 3
         let out (k : Nat → Nat) : Prop := at_ k < 0 ∨ ((s.tile t).live : Int) < at_ k + 64
         (¬ good → exec (.strm a d p) s = .next (s.raise illegalEnc 0#64)) ∧
         (good → (∃ k, (∀ i, i < 4 → k i < w (2 + i)) ∧ out k) → ∃ e, exec (.strm a d p) s = .next (s.raise spadBounds e)) ∧
         (good → (∀ k, (∀ i, i < 4 → k i < w (2 + i)) → ¬ out k) →
           ∃ s', exec (.strm a d p) s = .next s' ∧ (s'.tile t).seq.strmUntil = some (s.now + 3) ∧ (s'.tile t).seq.pc = s.pcNow))) ∧
     (∀ c, (s.tile t).seq.strmUntil = some c → c ≤ s.now → d = 0#2 →
       ∃ s', exec (.strm a d p) s = .next s' ∧ s.Passed s' ∧ s.OnlyTile s' t ∧ s.SameBytes s' ∧ ((s'.tile t).port p.toNat).bound = false) ∧
     (∀ c y, (s.tile t).seq.strmUntil = some c → c ≤ s.now → d ≠ 0#2 → (s.g a).toNat ≤ 4080 → (s.g a).toNat % 16 = 0 →
       (s.tile t).constView.descriptor (s.g a).toNat (d = 3) = some y → y.outside (s.tile t).live = none →
       ∃ s', exec (.strm a d p) s = .next s' ∧ s.Passed s' ∧ s.OnlyTile s' t ∧ s.SameBytes s' ∧
         (s'.tile t).port p.toNat = { y with fetchFrom := s.now + 1 } ∧ y.bound = true ∧ (y.write = true ↔ d = 3#2) ∧ y.next = 0))

/-- R130, R30: a TRAP in U that HMASK directs to a handler enters S at EVEC with EPC the next word, ECAUSE TRAP and
EADDR the code; no g register and no byte changes. R131, R235: ERET outside U takes the mode of ESTATUS and goes on
at EPC three cycles later, the bundle sequencer with it on a return to U; an ESTATUS of 2 or 3, or an EPC above 16
383 (log 104), raises ILLEGAL_ENC. -/
def Obligations.TrapAndReturn : Prop :=
  (∀ (s : State) (t : Nat) (k : BitVec 13), s.cur = .tile t → s.Clear [] true →
     let q := (s.tile t).seq
     q.csr.mode = 0#2 → q.csr.evec ≠ 0#14 → s.hmaskHas t trapF = true → (s.tile t).keeperStopped = false →
     ∃ s', exec (.trap k) s = .next s' ∧
       let r := (s'.tile t).seq
       r.csr.mode = 1#2 ∧ r.csr.estatus = 0#2 ∧ r.csr.epc = BitVec.ofNat 14 (q.pc + 1) ∧ (r.csr.epcPast = true ↔ 16383 ≤ q.pc) ∧ r.csr.ecause = 0x12#16 ∧
       r.csr.eaddr = BitVec.ofNat 64 k.toNat ∧ r.pc = q.csr.evec.toNat ∧ r.issueAt = s.now + 3 ∧ (∀ x, r.gr x = q.gr x) ∧
       (s'.tile t).frozen = true ∧ s.OnlyTile s' t ∧ s.SameBytes s') ∧
  (∀ (s : State) (t : Nat), s.cur = .tile t → s.Clear [] false →
     let q := (s.tile t).seq
     q.csr.mode ≠ 0#2 →
     (q.csr.estatus = 2#2 ∨ q.csr.estatus = 3#2 ∨ q.csr.epcPast = true → exec .eret s = .next (s.raise illegalEnc 0#64)) ∧
     (q.csr.estatus = 0#2 ∨ q.csr.estatus = 1#2 → q.csr.epcPast = false → ∃ s', exec .eret s = .next s' ∧
       (s'.tile t).seq.csr = { q.csr with mode := q.csr.estatus } ∧ (s'.tile t).seq.pc = q.csr.epc.toNat ∧
       (s'.tile t).seq.issueAt = s.now + 3 ∧ (∀ x, (s'.tile t).seq.gr x = q.gr x) ∧
       (∀ f, (s.tile t).freeze = some f → (s'.tile t).freeze = some (if q.csr.estatus = 0#2 then { f with resumeAt := some (s.now + 3) } else f)) ∧
       s.OnlyTile s' t ∧ s.SameBytes s'))

/-- R35, R36, R132: CSRR delivers a register zero-extended in the next cycle; a number the table does not list raises
ILLEGAL_ENC, and one the mode may not read PERM; the registers the bundles write are read when the BSQ is quiescent.
-/
def Obligations.ControlRegisterRead : Prop :=
  ∀ (s : State) (d : BitVec 6) (n : BitVec 12), s.Clear [d] false →
    let c := (s.seq s.cur).csr
    let k := n.toNat
    let within (l : List (Nat × Nat)) : Prop := ∃ r ∈ l, r.1 ≤ k ∧ k ≤ r.2
    let no (code : Nat) : Prop := exec (.csrr d n) s = .next (s.raise code 0#64)
    let gives (v : Word) : Prop := ∃ s', exec (.csrr d n) s = .next s' ∧ s.Delivers s' d v 1 (s.pcNow + 1) 1
    let is (m w : Nat) (v : BitVec w) : Prop := k = m → gives (BitVec.ofNat 64 v.toNat)
    (¬ within [(0x000, 0x004), (0x008, 0x015), (0x020, 0x026), (0x030, 0x032), (0x040, 0x054), (0x400, 0x7FF)] → no illegalEnc) ∧
    (c.mode = 0#2 → within [(0x004, 0x004), (0x010, 0x015), (0x020, 0x026), (0x053, 0x053), (0x400, 0x7FF)] → no perm) ∧
    is 0x000 _ c.ltile ∧ is 0x001 _ c.teamsz ∧ is 0x002 _ c.unitidx ∧ is 0x003 _ c.mode ∧
    (∀ i < 8, is (0x008 + i) _ (c.args.get 0#64 i)) ∧
    is 0x030 _ c.cycle ∧ is 0x031 _ c.bndret ∧ is 0x032 _ c.stalls ∧ is 0x052 _ c.lspext ∧ is 0x054 _ c.lseed ∧
    (∀ t, s.cur = .tile t → k = 0x051 → gives (BitVec.ofNat 64 (s.tile t).bsq.cq.length)) ∧
    (s.quiet s.cur = true → is 0x050 _ c.mprog ∧ ∀ i < 8, is (0x040 + i) _ (c.fflags.get 0#5 i) ∧ is (0x048 + i) _ (c.srstate.get 0#64 i)) ∧
    (s.quiet s.cur = false → within [(0x040, 0x050)] → exec (.csrr d n) s = .next s.waitCsq) ∧
    (c.mode ≠ 0#2 → is 0x010 _ c.evec ∧ is 0x011 _ c.epc ∧ is 0x012 _ c.ebaddr ∧ is 0x013 _ c.ecause ∧ is 0x014 _ c.eaddr ∧
      is 0x015 _ c.estatus ∧ is 0x020 _ c.ctx.hwbase ∧ is 0x021 _ c.ctx.hwlimit ∧ is 0x022 _ c.ctx.hwoffset ∧ is 0x023 _ c.ctx.hwkey ∧
      is 0x024 _ c.ctx.asid ∧ is 0x025 _ c.ctx.ptroot ∧ is 0x026 _ c.ctx.world ∧ is 0x053 _ c.wdlimit ∧
      (∀ t, s.cur = .tile t → k = 0x004 → gives (BitVec.ofNat 64 t)) ∧ ∀ i < 1024, is (0x400 + i) _ (c.ltte.get 0#16 i))

/-- R27, R28, R33 to R37, R132, R326: CSRW writes the low bits of a register and nothing else, reserved bits staying
zero; a zero written to SRSTATE becomes the constant of R27; a number the table does not list raises ILLEGAL_ENC,
and one the mode may not write PERM. An LSPEXT that is no multiple of 64, exceeds 2 MiB, or cuts a bound stream's
pattern or the bytes of a queued matrix command raises ILLEGAL_ENC. A fifth context waits, and so do the registers
of R36 while bundles may still change them. The bit of EPC beyond its 14, cleared here, is the model's choice (log
104). -/
def Obligations.ControlRegisterWrite : Prop :=
  ∀ (s : State) (t : Nat) (a : BitVec 6) (n : BitVec 12), s.cur = .tile t → s.Clear [a] false →
    let x := s.tile t
    let c := x.seq.csr
    let v := s.g a
    let k := n.toNat
    let within (l : List (Nat × Nat)) : Prop := ∃ r ∈ l, r.1 ≤ k ∧ k ≤ r.2
    let puts (c' : Csr) : Prop := ∃ s', exec (.csrw a n) s = .next s' ∧
      s.PassesWith s' t fun x => { x with seq := { x.seq with csr := c' } }
    let no (code : Nat) : Prop := exec (.csrw a n) s = .next (s.raise code 0#64)
    (¬ within [(0x000, 0x004), (0x008, 0x015), (0x020, 0x026), (0x030, 0x032), (0x040, 0x054), (0x400, 0x7FF)] → no illegalEnc) ∧
    (within [(0x000, 0x004), (0x026, 0x026), (0x030, 0x032), (0x051, 0x051), (0x054, 0x054)] → no perm) ∧
    (c.mode = 0#2 → within [(0x008, 0x015), (0x020, 0x025), (0x050, 0x050), (0x052, 0x053), (0x400, 0x7FF)] → no perm) ∧
    (s.quiet s.cur = false → (within [(0x040, 0x04F)] ∨ c.mode ≠ 0#2 ∧ within [(0x050, 0x050), (0x052, 0x052)]) →
      exec (.csrw a n) s = .next s.waitCsq) ∧
    (s.quiet s.cur = true →
      (∀ i < 8, k = 0x040 + i → puts { c with fflags := c.fflags.set 0#5 i (v.setWidth 5) }) ∧
      ∀ i < 8, k = 0x048 + i → puts { c with srstate := c.srstate.set 0#64 i (if v = 0#64 then 0x9E3779B97F4A7C15#64 else v) }) ∧
    (c.mode ≠ 0#2 →
      (∀ i < 8, k = 0x008 + i → puts { c with args := c.args.set 0#64 i v }) ∧
      (k = 0x010 → puts { c with evec := v.setWidth 14 }) ∧ (k = 0x011 → puts { c with epc := v.setWidth 14, epcPast := false }) ∧
      (k = 0x012 → puts { c with ebaddr := v.setWidth 20 }) ∧ (k = 0x013 → puts { c with ecause := v.setWidth 16 &&& 0x3FFF#16 }) ∧
      (k = 0x014 → puts { c with eaddr := v }) ∧ (k = 0x015 → puts { c with estatus := v.setWidth 2 }) ∧
      (k = 0x053 → puts { c with wdlimit := v.setWidth 32 }) ∧
      (∀ i < 1024, k = 0x400 + i → puts { c with ltte := c.ltte.set 0#16 i (v.setWidth 16 &&& 0x83FF#16) }) ∧
      (4 < x.otherContexts → within [(0x020, 0x025)] → exec (.csrw a n) s = .next s.waitCsq) ∧
      (x.otherContexts ≤ 4 →
        (k = 0x020 → puts { c with ctx := { c.ctx with hwbase := v } }) ∧ (k = 0x021 → puts { c with ctx := { c.ctx with hwlimit := v } }) ∧
        (k = 0x022 → puts { c with ctx := { c.ctx with hwoffset := v } }) ∧
        (k = 0x023 → puts { c with ctx := { c.ctx with hwkey := v.setWidth 8 } }) ∧
        (k = 0x024 → puts { c with ctx := { c.ctx with asid := v.setWidth 16 } }) ∧
        (k = 0x025 → puts { c with ctx := { c.ctx with ptroot := v } })) ∧
      (s.quiet s.cur = true → (k = 0x050 → puts { c with mprog := v &&& 0x8003FFFFFFFFFFFF#64 }) ∧
        (k = 0x052 →
          let cuts : Prop := (∃ e ∈ x.ports, e.2.bound = true ∧ e.2.total ≠ 0 ∧ (v.toNat : Int) < e.2.base +
              max 0 ((e.2.cnt.d0 - 1) * e.2.str.d0) + max 0 ((e.2.cnt.d1 - 1) * e.2.str.d1) + max 0 ((e.2.cnt.d2 - 1) * e.2.str.d2) +
              max 0 ((e.2.cnt.d3 - 1) * e.2.str.d3) + 64) ∨
            ∃ m ∈ x.mat.queue, ∃ r ∈ m.rows, 0 < r.len ∧ ∃ i, i < r.n ∧ v.toNat < rowAt r.base r.pitch i + r.len
          (v.toNat % 64 ≠ 0 ∨ 0x200000 < v.toNat ∨ v.toNat < x.live ∧ cuts → no illegalEnc) ∧
          (v.toNat % 64 = 0 → v.toNat ≤ 0x200000 → (x.live ≤ v.toNat ∨ ¬ cuts) → puts { c with lspext := v.setWidth 22 }))))

/-- R133, R134, R97: RDTIME delivers the time base four cycles on; WFE passes once the event latch is set and clears it,
and waits while it is clear. -/
def Obligations.TimeAndEvents : Prop :=
  ∀ (s : State) (d : BitVec 6),
    (s.Clear [d] false → ∃ s', exec (.rdtime d) s = .next s' ∧ s.Delivers s' d (BitVec.ofNat 64 s.tick) 4 (s.pcNow + 1) 1) ∧
    ∀ t, s.cur = .tile t → s.Clear [] false →
      ((s.tile t).latch = false → exec .wfe s = .next s.waitCsq) ∧
      ((s.tile t).latch = true → ∃ s', exec .wfe s = .next s' ∧ s.PassesWith s' t fun x => { x with latch := false })

/-- R135 to R138, R258: outside U, TLBKILL posts the kill of an ASID of a world on this die or on all dies and passes;
TLBSYNC waits until the kills of this sequencer have settled; HALTB posts a halt to every other tile of the team, 10
cycles on its own die and 8 more for each die edge. R135, R139, R140, R422: on a keeper sequencer KROT of two key
IDs passes and, where nothing refuses it, starts the rotation of every frame of the first to the second; SCRUB
destroys a key ID's keys and retires within 10 µs. That the keys go at once (log 76), and that the frames are those
tagged when the KROT issues (log 106), are the model's choices. -/
def Obligations.KillsHaltsAndKeys : Prop :=
  (∀ (s : State) (a : BitVec 6) (r : BitVec 1), (s.seq s.cur).mode ≠ 0#2 →
     let v := (s.g a).toNat
     (s.Clear [a] false → ∃ s', exec (.tlbkill a r) s = .next s' ∧ s.Passed s' ∧ s.SameBytes s' ∧ ∃ k, s'.kills = s.kills ++ [k] ∧
       k.by_ = some s.cur ∧ k.asid = v % 2 ^ 12 ∧ k.world = v / 2 ^ 16 % 2 ^ 8 ∧ k.doneAt = none ∧
       k.dies = if r = 1#1 then List.range 16 else [seqDie s.cur]) ∧
     (s.Clear [] false →
       ((∀ k ∈ s.kills, k.by_ ≠ some s.cur) → ∃ s', exec .tlbsync s = .next s' ∧ s.Passed s' ∧ s.SameBytes s' ∧ s'.kills = s.kills) ∧
       (∀ k ∈ s.kills, k.by_ = some s.cur → k.doneAt = none → exec .tlbsync s = .next s.waitCsq)) ∧
     (s.Clear [a] false → (∀ t, s.cur = .tile t → (s.tile t).team = v % 2 ^ 16) → ∃ s', exec (.haltb a) s = .next s' ∧ s.Passed s' ∧
       s.SameBytes s' ∧ (v % 2 ^ 16 = 0 → s'.agenda = s.agenda) ∧
       ∀ l, v % 2 ^ 16 ≠ 0 → s.team? (v % 2 ^ 16) = some l →
         s'.agenda = s.agenda ++ (l.tiles.filter fun t => s.cur ≠ .tile t).map fun t =>
           (.cycle (s.now + (10 + 8 * dieEdges (seqDie s.cur) (dieOf t))), .haltBroadcastArrival t (v % 2 ^ 16)))) ∧
  (∀ (s : State) (k : Nat) (a b : BitVec 6), s.cur = .keeper k → (s.seq s.cur).mode ≠ 0#2 →
     let i := (s.g a).toNat
     let j := (s.g b).toNat
     1 ≤ i → i ≤ 254 →
     (1 ≤ j → j ≤ 254 → s.Clear [a, b] false → ∃ s', exec (.krot a b) s = .next s' ∧ s.Passed s' ∧
       (s.rotRefusal i j = none → ∃ r ∈ s'.rots, r.old = i ∧ r.new = j ∧ (∀ f, f ∈ r.frames ↔ ∃ e ∈ s.mem.tags, e = (f, some i)))) ∧
     (s.Clear [a] false → ∃ s', exec (.scrub a) s = .next s' ∧ s'.sct.keys.get .free i = .scrubbed ∧
       (∀ n, n ≠ i → s'.sct.keys.get .free n = s.sct.keys.get .free n) ∧ (∀ r, (s'.seq s.cur).gr r = s.g r) ∧
       s.SameBytes s' ∧ ((s'.seq s.cur).issueAt ≤ s.now + 22501)))

/-- R308: a keeper sequencer has no bundle sequencer, scratchpad or semaphores, so that the forms that act on them stop
there by name: that they stop with keeperLacks is the model's choice (log 12). -/
def Obligations.KeeperLacksTileForms : Prop :=
  ∀ (s : State) (k : Nat) (a : BitVec 6), s.cur = .keeper k →
    let stops (i : Instr) (n : String) : Prop := exec i s = .refused (.keeperLacks n)
    (s.Clear [a] false →
      (∀ e c l, stops (.pusht a e c l) "PUSHT") ∧ (∀ n c, n ≠ 0#3 → stops (.pushm a n c) "PUSHM") ∧ (∀ t, stops (.pusho a t) "PUSHO") ∧
      (∀ x, stops (.pushv a x) "PUSHV") ∧ (∀ i, stops (.semrd a i) "SEMRD") ∧ (∀ i, stops (.seminit a i) "SEMINIT") ∧
      (∀ w, stops (.cbw a w) "CBW") ∧ (∀ d p, d ≠ 0#2 → d ≠ 2#2 → stops (.strm a d p) "STRM")) ∧
    (s.Clear [] false → (∀ t, stops (.pushb t) "PUSHB") ∧ (∀ n i, n ≠ 0#8 → stops (.semwait 1#1 n i) "SEMWAIT") ∧ stops .wfe "WFE") ∧
    (s.Clear [] true → (∀ n i, stops (.semsig 0#6 0#1 n i) "SEMSIG") ∧ stops .uend "UEND" ∧ stops .park "PARK")

/-- R220, R227, R230 to R232, R246: an issue that passes its checks changes its tile alone, writes no byte and no g
register, and is recorded in the retention window, due 13 cycles on; a faulting one does nothing but report its
fault with EBADDR the bundle; a stalled or interlocked one does not issue: that the event is then refused with
notEnabled is the model's choice (log 13). What an issue pops and computes is said in BundleFlow and SlotValues. -/
def Obligations.BundleIssue : Prop :=
  ∀ (s : State) (t : Nat), t < 1024 → (s.tile t).use = .running → (s.tile t).freeze = none → (s.tile t).bsq.done = false →
    (s.tile t).bsq.skip = none → (s.tile t).bsq.issuedNow = false → (s.tile t).faults = [] →
    let x := s.tile t
    (∀ y, x.plan t s.now = .go y → ∃ s' r, exec (.bundleIssue t) s = .next s' ∧ s.OnlyTile s' t ∧ s'.tile t = y ∧ s.SameBytes s' ∧
      y.seq.g = x.seq.g ∧ y.seq.pc = x.seq.pc ∧ y.bsq.issuedNow = true ∧ y.bsq.window = x.bsq.window ++ [r] ∧ r.due = s.now + 13) ∧
    (∀ slot code a, x.plan t s.now = .fault slot code a → ∃ s', exec (.bundleIssue t) s = .next s' ∧ s.OnlyTile s' t ∧ ∃ f,
      s'.tile t = { x with faults := [f] } ∧ f.code = code ∧ f.slot = slot ∧ f.bsq = true ∧ f.eaddr = a ∧ f.ebaddr = x.bsq.pc) ∧
    (x.plan t s.now = .stall → (∃ s', exec (.bsqStall t) s = .next s' ∧ s.OnlyTile s' t ∧
        ({ s'.tile t with bsq := { (s'.tile t).bsq with stallFrom := x.bsq.stallFrom } } : Tile) = x) ∧
      exec (.bundleIssue t) s = .refused (.notEnabled "BUNDLE_ISSUE")) ∧
    (x.plan t s.now = .lock → (∃ s', exec (.profile4Interlock t) s = .next s' ∧ s.OnlyTile s' t ∧ (s'.tile t).bsq.rhoHeld = true ∧
        ({ s'.tile t with bsq := { (s'.tile t).bsq with stallFrom := x.bsq.stallFrom, rhoHeld := x.bsq.rhoHeld } } : Tile) = x) ∧
      exec (.bundleIssue t) s = .refused (.notEnabled "BUNDLE_ISSUE"))

/-- R74, R84, R220 to R224: what each flow code does after the issue of a bundle without slots: NEXT falls through, LOOP
opens a loop or, with a COUNT of 0, skips the body, ENDL goes back or closes the loop, SEL and JBLK go to the TARGET
popped, MASKP and VALP write the mask and the s register popped, HALT ends; a pop of the wrong kind and an ENDL
without a loop raise CQ_PROTOCOL, and an empty CQ stalls. R74, R221: the first XPOP entries are MASKs and VALs: a
VAL writes its s register and a MASK its register of every cluster it names, the last entry that names one being the
one that stays; k0 and s0 take nothing. An entry of another kind raises CQ_PROTOCOL, and too few entries stall. R73,
R75, R220, R221, R223: a bundle issues REP + 1 times: its entry is popped and its loop opened, with CURCYC and
LASTCYC 0, by the first issue, its flow action follows the last, and in between nothing moves. An issue at 24 576 or
beyond, where a fall-through or a TARGET may lead, or of a header that breaks R73, raises ILLEGAL_ENC as a fault of
the bundle. R224: in skip mode the walk reads one header a cycle: LOOP goes one deeper, ENDL one up, and the ENDL of
depth 1 ends it; nothing pops, nothing issues. -/
def Obligations.BundleFlow : Prop :=
  (∀ (s : State) (t : Nat), t < 1024 →
     let x := s.tile t
     x.use = .running → x.freeze = none → x.bsq.done = false → x.bsq.skip = none → x.bsq.issuedNow = false → x.faults = [] →
     x.bsq.first = true → x.bsq.issued = 0 → x.bsq.slots = [] → x.bsq.profile4 = false → x.bsq.pc < 24576 →
     x.header.pres = 0 → x.header.rep = 0 → x.header.low = 0 → x.header.xpop = 0 →
     let h := x.header
     let next := x.bsq.pc + 1
     let does (f : Tile → Prop) : Prop := ∃ s', exec (.bundleIssue t) s = .next s' ∧ s.OnlyTile s' t ∧ s.SameBytes s' ∧
       (s'.tile t).seq = x.seq ∧ (s'.tile t).vreg = x.vreg ∧ f (s'.tile t)
     let same (y : Tile) : Prop := y.kreg = x.kreg ∧ y.sreg = x.sreg
     let protocol : Prop := ∃ f, does (fun y => y = { x with faults := [f] }) ∧ f.code = cqProtocol ∧ f.slot = 21
     (h.flow = 0 → does fun y => same y ∧ y.bsq.pc = next ∧ y.bsq.cq = x.bsq.cq ∧ y.bsq.loops = x.bsq.loops) ∧
     (h.flow = 7 → does fun y => same y ∧ y.bsq.done = true ∧ y.bsq.cq = x.bsq.cq) ∧
     (h.flow = 2 → (x.bsq.loops = [] → protocol) ∧ ∀ l rest, x.bsq.loops = l :: rest →
       (1 < l.rem → does fun y => same y ∧ y.bsq.pc = l.start ∧
         y.bsq.loops = { l with rem := l.rem - 1, iter := l.iter + 1, lastcyc := l.curcyc, curcyc := 0 } :: rest) ∧
       (l.rem = 1 → does fun y => same y ∧ y.bsq.pc = next ∧ y.bsq.loops = rest)) ∧
     (h.flow ∈ [1, 3, 4, 5, 6] → x.bsq.cq = [] → ∃ s', exec (.bsqStall t) s = .next s') ∧
     ∀ e rest, x.bsq.cq = e :: rest → e.pushedAt + 2 ≤ s.now →
       let n := e.w.toNat
       let kind := n / 2 ^ 60
       let count := n % 2 ^ 32
       let target := n % 2 ^ 20
       (∀ k f, (f, k) ∈ [(1, 1), (3, 3), (4, 4), (5, 2), (6, 5)] → h.flow = f → kind ≠ k → protocol) ∧
       (h.flow = 1 → kind = 1 → (count = 0 → does fun y => same y ∧ y.bsq.skip = some 1 ∧ y.bsq.pc = next ∧ y.bsq.cq = rest ∧
           y.bsq.loops = x.bsq.loops) ∧
         (count ≠ 0 → x.bsq.loops.length < 16 → does fun y => same y ∧ y.bsq.pc = next ∧ y.bsq.cq = rest ∧ ∃ l,
           y.bsq.loops = l :: x.bsq.loops ∧ l.rem = count ∧ l.iter = 0 ∧ l.start = next ∧ l.epi = n / 2 ^ 52 % 2 ^ 8 ∧
           (l.clamp = true ↔ n / 2 ^ 51 % 2 = 1) ∧ l.loopId = n / 2 ^ 47 % 2 ^ 4) ∧
         (count ≠ 0 → x.bsq.loops.length = 16 → protocol)) ∧
       (h.flow = 3 → kind = 3 → does fun y => same y ∧ y.bsq.pc = (if n / 2 ^ 20 % 2 = 1 then target else next) ∧ y.bsq.cq = rest) ∧
       (h.flow = 4 → kind = 4 → does fun y => same y ∧ y.bsq.pc = target ∧ y.bsq.cq = rest) ∧
       (h.flow = 5 → kind = 2 → does fun y => y.sreg = x.sreg ∧ y.bsq.pc = next ∧ y.bsq.cq = rest ∧ ∀ c i, c < 8 → i < 8 →
         y.kr c i = if i ≠ 0 ∧ i = n / 2 ^ 24 % 8 ∧ n / 2 ^ (16 + c) % 2 = 1 then BitVec.ofNat 16 n else x.kr c i) ∧
       (h.flow = 6 → kind = 5 → does fun y => y.kreg = x.kreg ∧ y.bsq.pc = next ∧ y.bsq.cq = rest ∧ ∀ i,
         y.sr i = if i ≠ 0 ∧ i = n / 2 ^ 32 % 2 ^ 5 then (BitVec.ofNat 32 n).signExtend 64 else x.sr i)) ∧
  (∀ (s : State) (t : Nat) (es rest : List CqEnt), t < 1024 →
     let x := s.tile t
     let h := x.header
     x.use = .running → x.freeze = none → x.bsq.done = false → x.bsq.skip = none → x.bsq.issuedNow = false → x.faults = [] →
     x.bsq.first = true → x.bsq.issued = 0 → x.bsq.slots = [] → x.bsq.profile4 = false → x.bsq.pc < 24576 →
     h.pres = 0 → h.rep = 0 → h.low = 0 → h.flow = 0 →
     let kind (e : CqEnt) : Nat := e.w.toNat / 2 ^ 60
     let mask (e : CqEnt) (c i : Nat) : Prop := kind e = 2 ∧ e.w.toNat / 2 ^ 24 % 8 = i ∧ e.w.toNat / 2 ^ (16 + c) % 2 = 1
     let val (e : CqEnt) (i : Nat) : Prop := kind e = 5 ∧ e.w.toNat / 2 ^ 32 % 2 ^ 5 = i
     (x.bsq.cq.length < h.xpop → ∃ s', exec (.bsqStall t) s = .next s' ∧ s.OnlyTile s' t ∧ (s'.tile t).bsq.cq = x.bsq.cq) ∧
     (x.bsq.cq = es ++ rest → es.length = h.xpop → (∀ e ∈ es, e.pushedAt + 2 ≤ s.now) →
       ((∃ e ∈ es, kind e ≠ 2 ∧ kind e ≠ 5) → ∃ s' f, exec (.bundleIssue t) s = .next s' ∧ s.OnlyTile s' t ∧
         s'.tile t = { x with faults := [f] } ∧ f.code = cqProtocol ∧ f.slot = 21) ∧
       ((∀ e ∈ es, kind e = 2 ∨ kind e = 5) → ∃ s', exec (.bundleIssue t) s = .next s' ∧ s.OnlyTile s' t ∧ s.SameBytes s' ∧
         (s'.tile t).seq = x.seq ∧ (s'.tile t).vreg = x.vreg ∧ (s'.tile t).bsq.cq = rest ∧ (s'.tile t).bsq.pc = x.bsq.pc + 1 ∧
         (∀ i, ((i = 0 ∨ ∀ e ∈ es, ¬ val e i) → (s'.tile t).sr i = x.sr i) ∧
           ∀ a e b, es = a ++ e :: b → i ≠ 0 → val e i → (∀ f ∈ b, ¬ val f i) → (s'.tile t).sr i = (BitVec.ofNat 32 e.w.toNat).signExtend 64) ∧
         ∀ c i, c < 8 → i < 8 → ((i = 0 ∨ ∀ e ∈ es, ¬ mask e c i) → (s'.tile t).kr c i = x.kr c i) ∧
           ∀ a e b, es = a ++ e :: b → i ≠ 0 → mask e c i → (∀ f ∈ b, ¬ mask f c i) → (s'.tile t).kr c i = BitVec.ofNat 16 e.w.toNat))) ∧
  (∀ (s : State) (t : Nat), t < 1024 →
     let x := s.tile t
     let h := x.header
     x.use = .running → x.freeze = none → x.bsq.done = false → x.bsq.skip = none → x.bsq.issuedNow = false → x.faults = [] →
     let next := x.bsq.pc + 1
     let does (f : Bsq → Prop) : Prop := ∃ s', exec (.bundleIssue t) s = .next s' ∧ s.OnlyTile s' t ∧ s.SameBytes s' ∧
       (s'.tile t).seq = x.seq ∧ (s'.tile t).vreg = x.vreg ∧ (s'.tile t).kreg = x.kreg ∧ (s'.tile t).sreg = x.sreg ∧ f (s'.tile t).bsq
     (x.bsq.first = true → (24576 ≤ x.bsq.pc ∨ h.low ≠ 0 ∨ 7 < h.flow ∨ 24576 < x.bsq.pc + h.units) →
       ∃ s' f, exec (.bundleIssue t) s = .next s' ∧ s.OnlyTile s' t ∧ s'.tile t = { x with faults := [f] } ∧ f.code = illegalEnc ∧
         f.slot = 21 ∧ f.bsq = true ∧ f.ebaddr = x.bsq.pc) ∧
     (x.bsq.slots = [] → x.bsq.profile4 = false → h.pres = 0 → h.xpop = 0 → h.low = 0 → h.flow ≤ 7 → x.bsq.pc < 24576 →
       (x.bsq.first = true → x.bsq.issued = 0 → h.rep ≠ 0 →
         (h.flow ∈ [0, 7] ∨ h.flow = 2 ∧ x.bsq.loops ≠ [] → does fun b => b.pc = x.bsq.pc ∧ b.first = false ∧ b.issued = 1 ∧
           b.loops = x.bsq.loops ∧ b.done = false ∧ b.cq = x.bsq.cq) ∧
         ∀ e rest, x.bsq.cq = e :: rest → e.pushedAt + 2 ≤ s.now → h.flow = 1 → e.w.toNat / 2 ^ 60 = 1 → e.w.toNat % 2 ^ 32 ≠ 0 →
           x.bsq.loops.length < 16 → does fun b => b.pc = x.bsq.pc ∧ b.first = false ∧ b.issued = 1 ∧ b.cq = rest ∧ b.flowEnt = e.w ∧
             ∃ l, b.loops = l :: x.bsq.loops ∧ l.rem = e.w.toNat % 2 ^ 32 ∧ l.iter = 0 ∧ l.start = next ∧ l.curcyc = 0 ∧ l.lastcyc = 0) ∧
       (x.bsq.first = false →
         (x.bsq.issued < h.rep → does fun b => b.pc = x.bsq.pc ∧ b.first = false ∧ b.issued = x.bsq.issued + 1 ∧ b.loops = x.bsq.loops ∧
           b.done = false ∧ b.cq = x.bsq.cq ∧ b.flowEnt = x.bsq.flowEnt) ∧
         (x.bsq.issued = h.rep →
           let n := x.bsq.flowEnt.toNat
           let goes (pc : Nat) (f : Bsq → Prop) : Prop := does fun b => b.pc = pc ∧ b.first = true ∧ b.issued = 0 ∧ b.cq = x.bsq.cq ∧ f b
           (h.flow ∈ [0, 5, 6] → goes next fun b => b.loops = x.bsq.loops) ∧
           (h.flow = 1 → goes next fun b => b.loops = x.bsq.loops ∧ b.skip = if n % 2 ^ 32 = 0 then some 1 else none) ∧
           (∀ l rest, h.flow = 2 → x.bsq.loops = l :: rest →
             (1 < l.rem → goes l.start fun b =>
               b.loops = { l with rem := l.rem - 1, iter := l.iter + 1, lastcyc := l.curcyc, curcyc := 0 } :: rest) ∧
             (l.rem = 1 → goes next fun b => b.loops = rest)) ∧
           (h.flow = 3 → goes (if n / 2 ^ 20 % 2 = 1 then n % 2 ^ 20 else next) fun b => b.loops = x.bsq.loops) ∧
           (h.flow = 4 → goes (n % 2 ^ 20) fun b => b.loops = x.bsq.loops) ∧
           (h.flow = 7 → does fun b => b.done = true ∧ b.cq = x.bsq.cq))))) ∧
  (∀ (s : State) (t d : Nat), t < 1024 →
     let x := s.tile t
     x.use = .running → x.freeze = none → x.bsq.done = false → x.bsq.skip = some (d + 1) → x.faults = [] → x.header.low = 0 →
     x.bsq.pc + x.header.units ≤ 24576 →
     let walks (k : Option Nat) : Prop := ∃ s', exec (.skipWalk t) s = .next s' ∧ s.OnlyTile s' t ∧ s.SameBytes s' ∧
       (s'.tile t).bsq.skip = k ∧ (s'.tile t).bsq.pc = x.bsq.pc + x.header.units ∧ (s'.tile t).bsq.cq = x.bsq.cq ∧
       (s'.tile t).bsq.window = x.bsq.window ∧ (s'.tile t).seq = x.seq
     (x.header.flow = 1 → walks (some (d + 2))) ∧
     (x.header.flow = 2 → walks (if d = 0 then none else some d)) ∧
     (x.header.flow ∈ [0, 3, 4, 5, 6, 7] → walks (some (d + 1))) ∧
     (7 < x.header.flow → ∃ s' f, exec (.skipWalk t) s = .next s' ∧ s.OnlyTile s' t ∧ s'.tile t = { x with faults := [f] } ∧
       f.code = illegalEnc ∧ f.slot = 21))

/-- R76, R77, R80, R142, R143, R148: what the arithmetic forms of the S slot put into s[DEST], one cycle on, from
sources of kinds 1 to 3; none sets a flag. Said of a bundle of that slot alone, whose syllable the checks of R75
pass. R46, R49, R51, R58, R142, R143, R165 to R171, R173, R180: what a vector slot computes in the lanes its mask
makes active: integer forms with wrap or saturation and its OF, logic, shifts, bit fields, counts, moves, compares
and mask forms, after the cycles of R143; and of the rounded forms single-precision sums, differences and products
at ties, overflow, underflow and invalid operands, with their flags. Said of a bundle of that slot alone, whose
syllable the checks of R75 pass, with no port bound. -/
def Obligations.SlotValues : Prop :=
  (∀ (s : State) (t : Nat), t < 1024 →
     let x := s.tile t
     let h := x.header
     let word := x.bprog.get 0#64 (x.bsq.pc + 1)
     let f (lo n : Nat) : Nat := word.toNat / 2 ^ lo % 2 ^ n
     x.use = .running → x.freeze = none → x.bsq.done = false → x.bsq.skip = none → x.bsq.issuedNow = false → x.faults = [] →
     x.bsq.first = true → x.bsq.issued = 0 → x.bsq.slots = [] → x.bsq.profile4 = false → x.bsq.pc + 2 ≤ 24576 →
     h.pres = 2 ^ 19 → h.rep = 0 → h.low = 0 → h.flow = 0 → h.xpop = 0 → slotCheck 0 word = none →
     let src (lo : Nat) : Word := let v := f lo 12
       if f (lo + 12) 2 = 1 then x.sr v else if f (lo + 12) 2 = 2 then (x.constWord v).signExtend 64 else (BitVec.ofNat 12 v).signExtend 64
     let a := src 30
     let b := src 16
     let k := b.toNat % 64
     let gives (opc : Nat) (v : Word) : Prop := f 54 10 = opc → ∃ s' r, exec (.bundleIssue t) s = .next s' ∧ s.OnlyTile s' t ∧
       s.SameBytes s' ∧ (s'.tile t).bsq.pend = x.bsq.pend ++ [r] ∧ r.tgt = .sreg (f 44 5) ∧ r.data.setWidth 64 = v ∧ r.flags = 0#5 ∧
       r.due = s.now + 1
     gives 0x001 (BitVec.ofNat 64 (a.toNat + b.toNat)) ∧ gives 0x002 (BitVec.ofInt 64 (a.toNat - b.toNat)) ∧
     gives 0x003 (BitVec.ofNat 64 (a.toNat * b.toNat)) ∧ gives 0x004 (a &&& b) ∧ gives 0x005 (a ||| b) ∧ gives 0x006 (a ^^^ b) ∧
     gives 0x007 (BitVec.ofNat 64 (a.toNat * 2 ^ k)) ∧ gives 0x008 (BitVec.ofNat 64 (a.toNat / 2 ^ k)) ∧
     gives 0x009 (BitVec.ofInt 64 (a.toInt / 2 ^ k)) ∧ gives 0x00A (BitVec.ofInt 64 (min a.toInt b.toInt)) ∧
     gives 0x00B (BitVec.ofInt 64 (max a.toInt b.toInt)) ∧
     gives 0x00C ((BitVec.ofNat 36 (f 30 12 * 2 ^ 24 + f 16 12 * 2 ^ 12 + f 2 12)).signExtend 64) ∧ gives 0x00D a ∧
     gives 0x00E (if a ≠ 0#64 then b else src 2)) ∧
  (∀ (s : State) (t i : Nat), t < 1024 → 4 ≤ i → i < 20 →
     let x := s.tile t
     let h := x.header
     let word := x.bprog.get 0#64 (x.bsq.pc + 1)
     let f (lo n : Nat) : Nat := word.toNat / 2 ^ lo % 2 ^ n
     x.use = .running → x.freeze = none → x.bsq.done = false → x.bsq.skip = none → x.bsq.issuedNow = false → x.faults = [] →
     x.bsq.first = true → x.bsq.issued = 0 → x.bsq.slots = [] → x.bsq.profile4 = false → x.bsq.pc + 2 ≤ 24576 →
     h.pres = 2 ^ (19 - i) → h.rep = 0 → h.low = 0 → h.flow = 0 → h.xpop = 0 → slotCheck i word = none → (∀ p, (x.port p).bound = false) →
     let c := (i - 4) / 2
     let op := f 57 7
     let md := f 54 3
     let m := x.kr c (f 51 3)
     let src (lo l : Nat) : Nat := let v := f lo 12
       match f (lo + 12) 2 with
       | 0 => laneOf (x.vr (128 * c + v)) l
       | 1 => (x.sr v).toNat % 2 ^ 32
       | 2 => (x.constWord v).toNat
       | _ => ((BitVec.ofNat 12 v).signExtend 32).toNat
     let a := src 30
     let b := src 16
     let d := src 2
     let S (n : Nat) : Int := (BitVec.ofNat 32 n).toInt
     let issues (lat : Nat) (tgt : ResTgt) (p : PendRes → Prop) : Prop := ∃ s' r, exec (.bundleIssue t) s = .next s' ∧ s.OnlyTile s' t ∧
       s.SameBytes s' ∧ (s'.tile t).bsq.pend = x.bsq.pend ++ [r] ∧ r.tgt = tgt ∧ r.cluster = c ∧ r.due = s.now + lat ∧ p r
     let lanes (lat : Nat) (fl : BitVec 5) (g : Nat → Nat) : Prop := issues lat (.vreg (128 * c + f 44 7) m) fun r => r.flags = fl ∧
       ∀ l, l < 16 → m.getLsbD l = true → laneOf r.data l = g l
     let bits (g : Nat → Prop) : Prop := issues 2 (.kreg (8 * c + f 44 7) m) fun r => r.flags = 0#5 ∧
       ∀ l, l < 16 → m.getLsbD l = true → (r.data.getLsbD l = true ↔ g l)
     let I (n : Nat) : Int := if md < 2 then S n else n
     let exact (l : Nat) : Int := match op with
       | 0x48 => I (a l) + I (b l)
       | 0x49 => I (a l) - I (b l)
       | 0x4A => I (a l) * I (b l)
       | 0x4B => I (a l) * I (b l) / 2 ^ 32
       | 0x4C => I (a l) * I (b l) + I (d l)
       | 0x4D => min (I (a l)) (I (b l))
       | 0x4E => max (I (a l)) (I (b l))
       | _ => (I (a l)).natAbs
     let low : Int := if md < 2 then -(2 ^ 31) else 0
     let high : Int := if md < 2 then 2 ^ 31 - 1 else 2 ^ 32 - 1
     let outside : Prop := ∃ l, l < 16 ∧ m.getLsbD l = true ∧ (exact l < low ∨ high < exact l)
     let wide (l : Nat) : Nat := a l * 2 ^ 32 + b l
     let pos (l : Nat) : Nat := b l % 32
     let w (l : Nat) : Nat := min (b l / 32 % 64) (32 - pos l)
     let fld (l : Nat) : Nat := a l / 2 ^ pos l % 2 ^ w l
     let kj := x.kr c (f 30 3)
     let km := x.kr c (f 16 3)
     let is (n lat : Nat) (g : Nat → Nat) : Prop := op = n → lanes lat 0#5 g
     (0x48 ≤ op → op ≤ 0x4F →
       (md % 2 = 0 → lanes 2 0#5 fun l => (exact l % 2 ^ 32).toNat) ∧
       (md % 2 = 1 → (outside → lanes 2 0b00100#5 fun l => (max low (min high (exact l)) % 2 ^ 32).toNat) ∧
         (¬ outside → lanes 2 0#5 fun l => (exact l % 2 ^ 32).toNat))) ∧
     is 0x58 2 (fun l => a l &&& b l) ∧ is 0x59 2 (fun l => a l ||| b l) ∧ is 0x5A 2 (fun l => a l ^^^ b l) ∧
     is 0x5B 2 (fun l => a l &&& (2 ^ 32 - 1 - b l)) ∧ is 0x5C 2 (fun l => 2 ^ 32 - 1 - a l) ∧
     is 0x5D 2 (fun l => a l * 2 ^ (b l % 32) % 2 ^ 32) ∧ is 0x5E 2 (fun l => a l / 2 ^ (b l % 32)) ∧
     is 0x5F 2 (fun l => (S (a l) / 2 ^ (b l % 32) % 2 ^ 32).toNat) ∧
     is 0x60 2 (fun l => a l * 2 ^ (b l % 32) % 2 ^ 32 + a l / 2 ^ (32 - b l % 32)) ∧
     is 0x61 2 (fun l => if 0 < w l ∧ 2 ^ (w l - 1) ≤ fld l then fld l + 2 ^ 32 - 2 ^ w l else fld l) ∧ is 0x62 2 fld ∧
     (op = 0x63 → issues 2 (.vreg (128 * c + f 44 7) m) fun r => ∀ l, l < 16 → m.getLsbD l = true → ∀ n, n < 32 →
       (laneOf r.data l).testBit n = if pos l ≤ n ∧ n < pos l + w l then (a l).testBit (n - pos l) else (d l).testBit n) ∧
     is 0x64 2 (fun l => wide l * 2 ^ (d l % 64) / 2 ^ 32 % 2 ^ 32) ∧ is 0x65 2 (fun l => wide l / 2 ^ (d l % 64) % 2 ^ 32) ∧
     is 0x66 2 (fun l => ((List.range 32).filter fun n => (a l).testBit n).length) ∧
     is 0x67 2 (fun l => 32 - ((List.range 32).filter fun n => a l >>> n != 0).length) ∧
     is 0x68 2 a ∧ is 0x69 2 (fun l => if (x.kr c (f 2 3)).getLsbD l then a l else b l) ∧ is 0x6A 3 (fun l => a (b l % 16)) ∧
     is 0x6B 3 (fun l => if b l / 16 % 2 = 0 then a (b l % 16) else d (b l % 16)) ∧
     is 0x6C 3 (fun l => let n := l + d l % 32; if n < 16 then a n else if n < 32 then b (n - 16) else 0) ∧
     is 0x6F 4 (laneOf (x.vr (f 30 12))) ∧ is 0x7B 2 (fun _ => ((List.range 16).filter fun n => kj.getLsbD n).length) ∧
     (op = 0x78 → bits fun l => kj.getLsbD l = true ∧ km.getLsbD l = true) ∧
     (op = 0x79 → bits fun l => kj.getLsbD l = true ∨ km.getLsbD l = true) ∧ (op = 0x7A → bits fun l => kj.getLsbD l = false) ∧
     (op = 0x50 → bits fun l => match md with
       | 0 => a l = b l
       | 1 => a l ≠ b l
       | 2 => S (a l) < S (b l)
       | 3 => S (a l) ≤ S (b l)
       | 4 => a l < b l
       | _ => a l ≤ b l) ∧
     ∀ e ∈ [(0x04, 0, 0x3F800000, 0x33800000, 0x3F800000, 0b00001#5), (0x04, 0, 0x3F800001, 0x33800000, 0x3F800002, 0b00001#5),
         (0x04, 0, 0x3F800000, 0x34000000, 0x3F800001, 0b00000#5), (0x04, 1, 0x3F800001, 0x33800000, 0x3F800001, 0b00001#5),
         (0x04, 2, 0x3F800000, 0x33000000, 0x3F800001, 0b00001#5), (0x04, 3, 0xBF800000, 0xB3000000, 0xBF800001, 0b00001#5),
         (0x04, 0, 0x7F7FFFFF, 0x7F7FFFFF, 0x7F800000, 0b00101#5), (0x04, 1, 0x7F7FFFFF, 0x7F7FFFFF, 0x7F7FFFFF, 0b00101#5),
         (0x08, 0, 0x7F800000, 0x7F800000, 0x7FC00000, 0b10000#5), (0x08, 0, 0x3F800000, 0x3F800000, 0x00000000, 0b00000#5),
         (0x08, 3, 0x3F800000, 0x3F800000, 0x80000000, 0b00000#5), (0x0C, 0, 0x40000000, 0x40400000, 0x40C00000, 0b00000#5),
         (0x0C, 0, 0x00000003, 0x3F000000, 0x00000002, 0b00011#5), (0x0C, 0, 0x80000000, 0x7F800000, 0x7FC00000, 0b10000#5),
         (0x0C, 0, 0x7FC12345, 0x3F800000, 0x7FC00000, 0b00000#5)],
       op = e.1 → md = e.2.1 → h.ftz = false → m ≠ 0#16 → f 42 2 ≠ 3 → f 28 2 ≠ 3 →
       (∀ l, l < 16 → m.getLsbD l = true → a l = e.2.2.1 ∧ b l = e.2.2.2.1) → lanes 4 e.2.2.2.2.2 fun _ => e.2.2.2.2.1)

/-- R225, R231, R125, R134: the oldest issue of the window retires once it is due, a HALT once its stores are done, in a
cycle that finds no fault; BNDRET counts it, and a HALT sets the event latch and ends the loops left. -/
def Obligations.BundleRetire : Prop :=
  ∀ (s : State) (t : Nat) (r : Retire) (rest : List Retire), t < 1024 →
    let x := s.tile t
    x.use = .running → x.freeze = none → x.bsq.window = r :: rest → r.due ≤ s.now → (r.halt = true → x.storesDone = true) →
    x.faultsNow t s.now = false →
    ∃ s', exec (.bundleRetire t) s = .next s' ∧ s.OnlyTile s' t ∧ s.SameBytes s' ∧ (s'.tile t).bsq.window = rest ∧
      (s'.tile t).seq.csr = { x.seq.csr with bndret := x.seq.csr.bndret + 1#64 } ∧
      ((s'.tile t).bsq.haltRetired = (x.bsq.haltRetired || r.halt)) ∧ (s'.tile t).bsq.loops = (if r.halt = true then [] else x.bsq.loops) ∧ ((s'.tile t).latch = (x.latch || r.halt)) ∧
      (s'.tile t).sreg = x.sreg ∧ (s'.tile t).vreg = x.vreg ∧ (∀ p, r.pops = [] → (s'.tile t).port p = x.port p)

/-- R143 to R145, R26: a result is written when it is due: an s register whole, a v register in the lanes of its mask, a
k register in its bits; its flags are added to FFLAGS of its cluster, and nothing else of the registers changes.
R177, R442: a store of a slot writes its bytes at the port when it is due, and no other byte; a VAMO lane writes the
new value and delivers the old one as a result of its issue. -/
def Obligations.BundleResults : Prop :=
  (∀ (s : State) (t : Nat) (r : PendRes), t < 1024 →
     let x := s.tile t
     x.freeze = none → x.bsq.profile4 = false → x.bsq.pend = [r] → r.due ≤ s.now → x.mat.queue = [] → r.cluster < 8 →
     ∃ s', exec (.slotResultWrite t) s = .next s' ∧ s.OnlyTile s' t ∧ s.SameBytes s' ∧ (s'.tile t).bsq.pend = [] ∧
       (∀ c, (s'.tile t).fflags c = if c = r.cluster then x.fflags c ||| r.flags else x.fflags c) ∧
       (∀ n, r.tgt = .sreg n → (∀ j, (s'.tile t).sr j = if j = n ∧ n ≠ 0 then r.data.setWidth 64 else x.sr j) ∧
         (s'.tile t).vreg = x.vreg ∧ (s'.tile t).kreg = x.kreg) ∧
       (∀ n m, r.tgt = .vreg n m → (∀ j, (s'.tile t).vr j = if j = n then mergeLanes m (x.vr n) r.data else x.vr j) ∧
         (s'.tile t).sreg = x.sreg ∧ (s'.tile t).kreg = x.kreg) ∧
       (∀ c i m, c < 8 → 0 < i → i < 8 → r.tgt = .kreg (8 * c + i) m → (s'.tile t).sreg = x.sreg ∧ (s'.tile t).vreg = x.vreg ∧
         ∀ b, ((s'.tile t).kr c i).getLsbD b = if m.getLsbD b then (r.data.setWidth 16).getLsbD b else (x.kr c i).getLsbD b)) ∧
  (∀ (s : State) (t : Nat) (p : PendStore), t < 1024 →
     let x := s.tile t
     x.freeze = none → x.bsq.profile4 = false → x.bsq.stores = [p] → p.due ≤ s.now →
     (∀ bytes full, p.st = .write bytes full → (bytes.map Prod.fst).Nodup →
       ∃ s', exec (.slotStorePerform t) s = .next s' ∧ s.OnlyTile s' t ∧ (s'.tile t).bsq.stores = [] ∧ (s'.tile t).seq = x.seq ∧
         (∀ e ∈ bytes, s'.spadAt t e.1 = e.2) ∧ (∀ off, off ∉ bytes.map Prod.fst → s'.spadAt t off = s.spadAt t off)) ∧
     (∀ fn c tgt l off v, p.st = .vamo fn c tgt [(l, off, v)] → l < 16 →
       let old := natOf ((List.range 4).map fun k => s.spadAt t (off + k))
       ∃ s', exec (.slotStorePerform t) s = .next s' ∧ s.OnlyTile s' t ∧
         (∀ a, s'.spadAt t a = if off ≤ a ∧ a < off + 4 then BitVec.ofNat 8 (amoNew fn 32 old v.toNat / 256 ^ (a - off)) else s.spadAt t a) ∧
         ∃ r ∈ (s'.tile t).bsq.pend, r.tgt = tgt ∧ r.due = p.resDue ∧ r.order = p.order ∧ laneOf r.data l = old))

/-- R187, R230, R233, R367: a fault of a bundle or a command found in a cycle freezes the tile and, where it is directed
to a handler, enters S: ECAUSE names the slot, EBADDR a bundle's address, EPC the next control instruction; results
not yet written are held with their offsets from the freeze. R234: a resume ends the freeze, and every held result
is due as many cycles from here as it was from the freeze. -/
def Obligations.FreezeAndResume : Prop :=
  (∀ (s : State) (t : Nat) (f : PendFault), t < 1024 → (s.tile t).faults = [f] → s.csqFaultNow t = false → (s.tile t).freeze = none →
     f.async = false → f.far = false →
     let x := s.tile t
     x.seq.csr.mode = 0#2 → x.seq.csr.evec ≠ 0#14 → s.hmaskHas t f.code = true →
     ∃ s', exec (.bsqFreeze t) s = .next s' ∧ s.OnlyTile s' t ∧ s.SameBytes s' ∧ (s'.tile t).faults = [] ∧ (s'.tile t).frozen = true ∧
       (s'.tile t).seq.csr.mode = 1#2 ∧ (s'.tile t).seq.csr.epc = BitVec.ofNat 14 x.seq.pc ∧
       (s'.tile t).seq.csr.ecause = BitVec.ofNat 16 (f.code + 256 * f.slot + if f.bsq then 0x2000 else 0) ∧
       (s'.tile t).seq.csr.ebaddr = (if f.bsq then BitVec.ofNat 20 f.ebaddr else x.seq.csr.ebaddr) ∧
       (s'.tile t).seq.pc = x.seq.csr.evec.toNat ∧ (s'.tile t).seq.issueAt = s.now + 3 ∧ (∀ r, (s'.tile t).seq.gr r = x.seq.gr r) ∧
       ∀ p ∈ x.bsq.pend, ({ p with due := p.due - s.now } : PendRes) ∈ (s'.tile t).bsq.pend) ∧
  (∀ (s : State) (t r : Nat) (f : Freeze), t < 1024 → (s.tile t).freeze = some f → f.resumeAt = some r → r ≤ s.now →
     (s.tile t).held = [] →
     ∃ s', exec (.bsqResume t) s = .next s' ∧ s.OnlyTile s' t ∧ s.SameBytes s' ∧ (s'.tile t).freeze = none ∧
       (s'.tile t).seq = (s.tile t).seq ∧ (s'.tile t).bsq.pend = (s.tile t).bsq.pend.map (fun p => { p with due := p.due + s.now }) ∧
       (s'.tile t).bsq.pc = (s.tile t).bsq.pc ∧ (s'.tile t).bsq.cq = (s.tile t).bsq.cq ∧ (s'.tile t).vreg = (s.tile t).vreg)

/-- R228, R229: a fetch takes the line of the next element whole, with its poison, and it may be popped 8 cycles on; the
first pushed element is written to its lanes, and to no other byte, when its two cycles are over, and its place is
freed. -/
def Obligations.Streams : Prop :=
  ∀ (s : State) (t p : Nat), t < 1024 →
    let x := s.tile t
    let q := x.port p
    (x.nextFetch s.now = some p → ∃ s' e, exec (.streamFetch t p) s = .next s' ∧ s.OnlyTile s' t ∧ s.SameBytes s' ∧
      ((s'.tile t).port p).buf = q.buf ++ [e] ∧ ((s'.tile t).port p).next = q.next + 1 ∧ e.readyAt = s.now + 8 ∧ e.ready = false ∧
      e.off = q.elemOff q.next ∧ e.poison = x.poisoned e.off ∧ e.data.toNat = natOf ((List.range 64).map fun k => s.spadAt t (e.off + k)) ∧
      ∀ n, n ≠ p → (s'.tile t).port n = x.port n) ∧
    (∀ e l, q.bound = true → q.write = false → q.buf = e :: l → e.ready = false → e.readyAt ≤ s.now →
      ∃ s', exec (.streamElementReady t p) s = .next s' ∧ s.OnlyTile s' t ∧ s.SameBytes s' ∧
        ((s'.tile t).port p).buf = { e with ready := true } :: l) ∧
    (∀ e l, q.bound = true → q.write = true → q.buf = e :: l → e.readyAt ≤ s.now → x.strongSnaps = [] →
      ∃ s', exec (.streamElementWrite t p) s = .next s' ∧ s.OnlyTile s' t ∧ ((s'.tile t).port p).buf = l ∧ (s'.tile t).seq = x.seq ∧
        ∀ off, s'.spadAt t off = if e.off ≤ off ∧ off < e.off + 64 ∧ e.lanes.getLsbD ((off - e.off) / 4) = true
          then e.data.extractLsb' (8 * (off - e.off)) 8 else s.spadAt t off)

/-- R183, R195: where a queue's head would start but for its wait, the wait is that of its first command not started,
and once it holds that command starts and consumes, in that cycle; an ACCMV takes its row there. One whose semaphore
is below its threshold does not start: that the event is then refused with notEnabled (log 13), and that increments
of the same cycle are not seen (log 26), are the model's choices. -/
def Obligations.CommandStarts : Prop :=
  ∀ (s : State) (t : Nat) (u : CmdUnit) (w : WaitSig), t < 1024 →
    let x := s.tile t
    x.use = .running → x.headWait u s.now = some w →
    ((w.wthr = 0 ∨ w.wthr ≤ x.semSeen w.wsem) → ∃ s', exec (.commandStart t u) s = .next s' ∧ s.OnlyTile s' t ∧ s.SameBytes s' ∧
      (s'.tile t).seq.g = x.seq.g ∧
      (∀ j, (s'.tile t).semVal j = if w.wcon = true ∧ j = w.wsem then x.semVal j - w.wthr else x.semVal j) ∧
      (u = .m → ∀ old c new, x.mat.queue = old ++ c :: new → (∀ d ∈ old, d.st ≠ .waiting) → c.st = .waiting →
        c.wait = w ∧ ∃ d ∈ (s'.tile t).mat.queue, d.serial = c.serial ∧ d.st = .running s.now ∧
          (c.op = 6 → ∀ j, j < 64 → d.row.getD j 0#32 = x.mat.elem c.accNo c.a j)) ∧
      (u ≠ .m → ∀ c rest, (x.cq u).cmds = c :: rest → c.wait = w ∧ ∃ d ∈ ((s'.tile t).cq u).cmds, d.serial = c.serial ∧
        d.st = .running s.now)) ∧
    (x.semSeen w.wsem < w.wthr → exec (.commandStart t u) s = .refused (.notEnabled "COMMAND_START"))

/-- R62, R190 to R198, R314: in its cycle the matrix unit writes the ACCST bytes that are due, and no others; rounds the
oldest group into its accumulator's region, zeroed first where ZERO asks it, and no other element; or works on the
running command, which writes no byte. -/
def Obligations.MatrixWork : Prop :=
  ∀ (s : State) (t : Nat), t < 1024 →
    let x := s.tile t
    (∀ p, x.mat.stores = [p] → p.due ≤ s.now → (p.bytes.map Prod.fst).Nodup →
      ∃ s', exec (.mmaGroupRound t) s = .next s' ∧ s.OnlyTile s' t ∧ (s'.tile t).seq = x.seq ∧ (s'.tile t).mat.acc = x.mat.acc ∧
        (∀ e ∈ p.bytes, s'.spadAt t e.1 = e.2) ∧ ∀ off, off ∉ p.bytes.map Prod.fst → s'.spadAt t off = s.spadAt t off) ∧
    (∀ g rest c, x.mat.stores = [] → x.freeze = none → x.mat.groups = g :: rest → g.due ≤ s.now → x.mat.undo = none →
      x.mat.queue.find? (fun d => d.serial = g.serial) = some c → c.cfg.m ≤ 64 → c.cfg.n ≤ 64 →
      ∃ s', exec (.mmaGroupRound t) s = .next s' ∧ s.OnlyTile s' t ∧ s.SameBytes s' ∧ (s'.tile t).seq.g = x.seq.g ∧
        (s'.tile t).mat.groups = rest ∧ ∀ n i j, i < 64 → j < 64 → (s'.tile t).mat.elem n i j =
          if n = c.accNo ∧ i < c.cfg.m ∧ j < c.cfg.n then
            accumulate c.cfg.s32 (if g.zero then 0#32 else x.mat.elem n i j) (g.a.getD i []) (g.b.getD j [])
          else x.mat.elem n i j) ∧
    (∀ c, x.mWork s.now = .occupy c → ∃ s', exec (.mmaGroupRound t) s = .next s' ∧ s.OnlyTile s' t ∧ s.SameBytes s' ∧
      (s'.tile t).seq = x.seq ∧ (s'.tile t).mat.acc = x.mat.acc)

/-- R85, R184, R189, R193 to R195: what completes with a matrix command: TCFG latches its block, zeroes the accumulators
and MPROG, ACCZ zeroes its own, ACCLD fills its region from the bytes it has read, ACCXP transposes, ACCMV writes
its four registers; its signal is applied, or raises SEMOVF; no byte and no g register is written. That the latching
and zeroing of a TCFG fall to its completion is the model's choice (log 43). -/
def Obligations.MatrixCompletes : Prop :=
  ∀ (s : State) (t : Nat) (c : MCmd), t < 1024 →
    let x := s.tile t
    let sum := x.semVal c.wait.ssem + (c.wait.sinc + 1)
    (∀ n, x.mat.queue = [c] → c.op = 6 → c.completeAt = some n → n ≤ s.now → c.row.length = 64 → x.freeze = none → x.bsq.pend = [] →
      ∃ s', exec (.slotResultWrite t) s = .next s' ∧ s.OnlyTile s' t ∧ s.SameBytes s' ∧ (s'.tile t).seq = x.seq ∧
        (∀ q l, q < 4 → l < 16 → laneOf ((s'.tile t).vr (c.b + q)) l = (c.row.getD (16 * q + l) 0#32).toNat) ∧
        ∀ r, r < c.b ∨ c.b + 4 ≤ r → (s'.tile t).vr r = x.vr r) ∧
    (x.mDone s.now = some c →
    ∃ s', exec (.commandComplete t .m) s = .next s' ∧ s.OnlyTile s' t ∧ s.SameBytes s' ∧ (s'.tile t).seq.g = x.seq.g ∧
      (c.op = 1 → (s'.tile t).mat.latched = c.cfg ∧ (s'.tile t).seq.csr.mprog = 0#64 ∧ ∀ n i j, (s'.tile t).mat.elem n i j = 0#32) ∧
      (c.op ≠ 1 → (s'.tile t).mat.latched = x.mat.latched) ∧
      (c.op = 3 → ∀ n i j, i < 64 → j < 64 → (s'.tile t).mat.elem n i j = if n = c.accNo then 0#32 else x.mat.elem n i j) ∧
      (c.op = 4 → c.cfg.m ≤ 64 → c.cfg.n ≤ 64 → ∀ n i j, i < 64 → j < 64 → (s'.tile t).mat.elem n i j =
        if n = c.accNo ∧ i < c.cfg.m ∧ j < c.cfg.n then
          BitVec.ofNat 32 ((List.range 4).map fun k => (c.hold.getD (4 * (i * c.cfg.n + j) + k) 0#8).toNat * 256 ^ k).sum
        else x.mat.elem n i j) ∧
      (c.op = 7 → ∀ n i j, i < 64 → j < 64 → (s'.tile t).mat.elem n i j = if n = c.accNo then x.mat.elem n j i else x.mat.elem n i j) ∧
      (c.op ∈ [2, 5, 6, 8] → (s'.tile t).mat.acc = x.mat.acc) ∧
      (x.mat.queue = [c] → (s'.tile t).mat.queue = [] ∧
        (c.wait.stgt % 2 = 0 → ∀ j, (s'.tile t).semVal j = x.semVal j) ∧
        (c.wait.stgt % 2 = 1 → sum + x.semTook c.wait.ssem ≤ 65535 → (s'.tile t).faults = x.faults ∧
          ∀ j, (s'.tile t).semVal j = if j = c.wait.ssem then sum else x.semVal j) ∧
        (c.wait.stgt % 2 = 1 → 65535 < sum + x.semTook c.wait.ssem → (∀ j, (s'.tile t).semVal j = x.semVal j) ∧
          ∃ f, (s'.tile t).faults = x.faults ++ [f] ∧ f.code = semOvf ∧ f.slot = 2)))

/-- R122, R184, R206, R134: a copy command that is done leaves its queue, sets the event latch and applies its local
signal; with nothing combined pending, no byte changes by it. A release at system scope is meant where no write to
the host is pending (R263). R202, R206, R208: a copy queue with a running command that may send a request does so: a
CPY or CFILL whose next element lies in scratchpad, at the addresses its patterns give, requests the line of its
next bytes; an element whose check fails stops its command there with that fault; a form without an index list
changes no byte by it. -/
def Obligations.CopyCommands : Prop :=
  (∀ (s : State) (t : Nat) (u : CmdUnit) (c : CCmd), t < 1024 → u ≠ .m →
     let x := s.tile t
     x.cDone u s.now = some c → x.wbuf = [] → (c.op = opCfence ∨ (sylC c.syl).scope ≠ 4 ∨ x.hostDirty.isEmpty = true ∧ s.mem.comb = []) →
     ∃ s', exec (.commandComplete t u) s = .next s' ∧ s.SameBytes s' ∧ (s'.tile t).latch = true ∧ (s'.tile t).seq = x.seq ∧
       ((s'.tile t).cq u).cmds = (x.cq u).cmds.filter (fun d => d.serial ≠ c.serial) ∧
       (c.wait.stgt % 2 = 0 → ∀ j, (s'.tile t).semVal j = x.semVal j) ∧
       (c.wait.stgt % 2 = 1 → x.semVal c.wait.ssem + x.semTook c.wait.ssem + (c.wait.sinc + 1) ≤ 65535 → ∀ j, (s'.tile t).semVal j =
         if j = c.wait.ssem then x.semVal j + (c.wait.sinc + 1) else x.semVal j)) ∧
  (∀ (s : State) (t : Nat) (u : CmdUnit) (c : CCmd), t < 1024 → (s.tile t).requester u s.now = some c →
     ∃ s', exec (.copyLineRequest t u) s = .next s' ∧ (s'.tile t).seq.g = (s.tile t).seq.g ∧ (s'.tile t).seq.pc = (s.tile t).seq.pc ∧
       (c.indexed 0 = false → c.indexed 4 = false → s.SameBytes s') ∧
       let sa := c.elemAddr 0 c.s1 c.nextElem
       let da := c.elemAddr 4 c.s2 c.nextElem
       let p := c.pieceAt c.nextElem c.nextByte sa da
       let slice (a : Word) (n : Nat) : Prop := ∃ v off, checkAddr s t a n = .ok (.slice v off)
       (c.op ∈ [opCpy, opCfill] → (c.usesSrc = true → slice sa c.srcBytes ∧ slice p.src p.len) → slice da c.dstBytes → slice p.dst p.len →
         ∃ l r rest, ((s'.tile t).cq u).lines = ((s.tile t).cq u).lines ++ [l] ∧ l.cmd = c.serial ∧ l.reqAt = s.now ∧ l.stage = .reading ∧
           l.pieces = r :: rest ∧ r.elem = p.elem ∧ r.off = p.off ∧ r.len = p.len ∧ r.src = p.src ∧ r.dst = p.dst) ∧
       ∀ code a, c.op ∉ [opCprf, opCgth, opCsct] → s.elemFault t c sa da = some (code, a) →
         s'.tile t = (s.tile t).faultC u c.serial c.nextElem code a)

/-- R204, R205, R258, R443: a copy line takes the bytes of its source where it lies; verified, or read on the die, it
goes on to its writes, and a MAC failure stops its command with INTEGRITY; its write puts just its bytes at the
destination. Said of lines of one piece in scratchpad. -/
def Obligations.CopyLines : Prop :=
  ∀ (s : State) (t v off id : Nat) (u : CmdUnit) (l : CLine) (c : CCmd) (p : Piece), t < 1024 →
    let x := s.tile t
    let line (s' : State) : Option CLine := ((s'.tile t).cq u).lines.find? fun m => m.id = id
    u ≠ .m → line s = some l → (x.cq u).cmd? l.cmd = some c → l.fault = none → l.pieces = [p] →
    (l.stage = .reading → l.due ≤ s.now → c.usesSrc = true → c.oneByOne = false → c.atomic = false → p.srcT = some (.spad v off) →
      s.tagOk v c.ctx.world.toNat = true → (s.tile v).poisoned off = false →
      ∃ s' l', exec (.copyLinePerform t u id) s = .next s' ∧ s.SameBytes s' ∧ line s' = some l' ∧ l'.stage = .writing ∧
        l'.pieces = [{ p with data := (List.range p.len).map fun k => s.spadAt v (off + k), poison := false }]) ∧
    (∀ n, l.stage = .writing → l.wdue = [(0, n)] → n ≤ s.now → (x.cq u).inOrder l 0 = true → c.op ≠ opCpyr → c.atomic = false →
      p.poison = false → c.badEl = [] → p.dstT = [.spad v off] → p.dstA.typ = 0 → p.dst.toNat % 64 = off % 64 →
      p.data ≠ [] → off % 64 + p.data.length ≤ 64 → s.tagOk v c.ctx.world.toNat = true →
      ∃ s', exec (.copyLinePerform t u id) s = .next s' ∧ line s' = none ∧ (∀ pa, s'.byteAt pa = s.byteAt pa) ∧
        ∀ w o, s'.spadAt w o = if w = v ∧ off ≤ o ∧ o < off + p.data.length then p.data.getD (o - off) 0#8 else s.spadAt w o) ∧
    (l.stage = .arriving → l.due ≤ s.now → c.st ≠ .stopped →
      ∃ s', exec (.inboundLineVerify t u id) s = .next s' ∧ s.SameBytes s' ∧
        (l.bad = false → ∃ l', line s' = some l' ∧ l'.stage = .writing ∧ l'.pieces = l.pieces) ∧
        (l.bad = true → line s' = none ∧ ∃ f, (s'.tile t).faults = x.faults ++ [f] ∧ f.code = integrity ∧ f.cmd = true ∧ f.eaddr = p.src))

/-- R136, R349, R350, R353: a walk that is due reads its next entry and goes on with the table it names 188 cycles
later, or ends: with the translation in the TLB of its die for the access that waits, with an ATS request for a
delegated page, or with its fault; a kill's removal leaves none of its context's entries in the TLBs and walk caches
of its dies; an invalidation by the host leaves none of the page in any TLB. 188 cycles for each entry, read when
they are over, with the fill at the walk's end, is the model's choice (log 17), and so are host pages of 4 KiB (log
19). R353, R354: a granted translation of a page that passes the check of what waits goes into the TLB of the die
that asked, and a page response that succeeds asks again; the first refusal of a host page sends a page request; a
failed page response raises HOSTPAGE on what waits; a response of a context killed since is only counted; every
answer to an open request is taken. Host pages of 4 KiB are the model's choice (log 19). -/
def Obligations.Translation : Prop :=
  (∀ (s : State),
     (∀ (d id : Nat) (w : Walk), (s.die d).walks.find? (fun x => x.id = id && x.dueAt.any (· ≤ s.now)) = some w →
       ∃ s', exec (.walkComplete d id) s = .next s' ∧ (∀ t, (s'.tile t).seq.g = (s.tile t).seq.g ∧ (s'.tile t).seq.pc = (s.tile t).seq.pc) ∧
         ∀ s₁ r, s.walkStep w.ctx w.dva w.level w.table = (s₁, r) →
           (∀ next, r = .ok next →
             ({ w with dueAt := some (s.now + 188), level := w.level + 1, table := next } : Walk) ∈ (s'.die d).walks ∧
             s'.agenda = s₁.agenda ++ [(.cycle (s.now + 188), .walkComplete d id)]) ∧
           (∀ q i a p, w.waiters = [.acc q i 0] → s.acc? q i = some a → a.parts = [p] →
             (∀ bits tgt attr, r = .error (.leaf bits tgt attr) →
               s₁.waiterFault d w.ctx (w.ctx.entry w.dva bits tgt attr) (.acc q i 0) = none →
               w.ctx.entry w.dva bits tgt attr ∈ (s'.die d).tlb) ∧
             (∀ code, r = .error (.fault code) → ∃ b, s'.acc? q i = some b ∧ b.fault = some (code, BitVec.ofNat 64 (a.partAddr 0)))) ∧
           ∀ attr x rest, r = .error (.delegated attr) → w.waiters = x :: rest →
             ∃ n ∈ s'.hostReqs, n.page = false ∧ n.asked = 0 ∧ n.perms = attr ∧ x ∈ n.waiters) ∧
     (∀ (id : Nat) (k : Kill), s.kills.find? (fun x => x.id = id && x.doneAt.isNone) = some k →
       ∃ s', exec (.tlbkillComplete id) s = .next s' ∧ s.SameBytes s' ∧
         (∀ d ∈ k.dies, (∀ e ∈ (s'.die d).tlb, ¬ (e.world = k.world ∧ e.asid = k.asid)) ∧
           ∀ e ∈ (s'.die d).wcache, ¬ (e.world = k.world ∧ e.asid = k.asid)) ∧
         (∀ t, t / 64 ∈ k.dies → ∀ e ∈ (s'.tile t).utlb, ¬ (e.world = k.world ∧ e.asid = k.asid)) ∧
         ∀ t, (s'.tile t).seq = (s.tile t).seq) ∧
     (∀ (vd page : Nat) (v : Vd), s.vd? vd = some v → ∃ s', exec (.atsInvalidation vd page) s = .next s' ∧ s.SameBytes s' ∧
       (∀ t, (s'.tile t).seq = (s.tile t).seq ∧ ∀ e ∈ (s'.tile t).utlb,
         ¬ (e.world = v.world ∧ e.bits = 12 ∧ e.page % 2 ^ 34 = page ∧ ∃ a, e.tgt = .host a)) ∧
       ∀ d, ∀ e ∈ (s'.die d).tlb, ¬ (e.world = v.world ∧ e.bits = 12 ∧ e.page % 2 ^ 34 = page ∧ ∃ a, e.tgt = .host a))) ∧
  (∀ (s : State) (tag : Nat) (r : HostReq),
     (s.hostReqs.find? (fun x => x.tag = tag && !x.page) = some r →
       (∀ a, ∃ s', exec (.atsCompletion tag a) s = .next s') ∧
       (∀ q id page, r.dead = false → r.waiters = [.acc q id 0] →
         let e := r.ctx.entry r.dva 12 (.host (page * 4096)) r.perms
         s.waiterFault r.die r.ctx e (.acc q id 0) = none →
         ∃ s', exec (.atsCompletion tag (.granted page true true true)) s = .next s' ∧ e ∈ (s'.die r.die).tlb) ∧
       (∀ q id, r.dead = false → r.asked = 0 → r.waiters = [.acc q id 0] → ∃ s' n, exec (.atsCompletion tag .denied) s = .next s' ∧
         n ∈ s'.hostReqs ∧ n.page = true ∧ n.asked = 1 ∧ n.waiters = r.waiters ∧ n.dva = r.dva)) ∧
     (s.hostReqs.find? (fun x => x.tag = tag && x.page) = some r →
       (r.dead = true → ∀ ok, ∃ s', exec (.priResponse tag ok) s = .next s' ∧ s'.kblock.prilate = s.kblock.prilate + 1 ∧ s'.tiles = s.tiles) ∧
       (r.dead = false → (∃ s' n, exec (.priResponse tag true) s = .next s' ∧ n ∈ s'.hostReqs ∧ n.page = false ∧ n.dva = r.dva ∧
           n.waiters = r.waiters ∧ n.asked = r.asked ∧ s'.outbox = s.outbox ++ [.ats n.vd n.tag (r.dva % 2 ^ 46 / 2 ^ 12)]) ∧
         ∀ q id a, r.waiters = [.acc q id 0] → s.acc? q id = some a → ∃ s' b, exec (.priResponse tag false) s = .next s' ∧
           s'.acc? q id = some b ∧ b.fault = some (hostPage, BitVec.ofNat 64 (a.partAddr 0)))))

/-- R372, R375: an agent timed beyond WDLIMIT ends the unit with WATCHDOG; a corrected error of tile storage is counted,
one of scratchpad poisons its line, and one elsewhere raises INTEGRITY in a running unit. The slot and EADDR of a
WATCHDOG name its agent by the model's choice (log 39). R270, R134, R138, R370: an entry of the combiner is written
back 1024 cycles after its last access, as one write of its word; an event the keeper delivers sets the latch; a
halt broadcast freezes a tile of the team where it stands. R270 allows an earlier write-back: 1024 cycles is the
model's choice (log 25). -/
def Obligations.TileErrorsAndBroadcasts : Prop :=
  (∀ (s : State) (t : Nat), t < 1024 →
     let x := s.tile t
     let d := t / 64
     let more (m : NMap Nat) : Nat := min (m.get 0 d + 1) (2 ^ 64 - 1)
     (∀ a, x.overdue a s.wall = true → x.faults = [] → ∃ s' f, exec (.watchdog t a) s = .next s' ∧ s.OnlyTile s' t ∧
       s'.tile t = { x with faults := [f] } ∧ f.code = watchdogF ∧ f.async = true ∧ f.eaddr = BitVec.ofNat 64 a ∧ f.epc = x.seq.pc) ∧
     (∃ s', exec (.tileStorageError t .corrected) s = .next s' ∧ s'.tiles = s.tiles ∧ s'.errc.sce.get 0 d = more s.errc.sce ∧
       s'.errc.sue = s.errc.sue) ∧
     (∀ l, l < 32768 → ∃ s', exec (.tileStorageError t (.scratchpad l)) s = .next s' ∧ s.SameBytes s' ∧ s'.errc.sue.get 0 d = more s.errc.sue ∧
       (s'.tile t).poisoned (64 * l) = true ∧ (s'.tile t).faults = x.faults) ∧
     (x.use = .running → ∃ s' f, exec (.tileStorageError t .other) s = .next s' ∧ s.SameBytes s' ∧ s'.errc.sue.get 0 d = more s.errc.sue ∧
       (s'.tile t).faults = x.faults ++ [f] ∧ f.code = integrity ∧ f.async = true)) ∧
  (∀ (s : State),
     (∀ a e, s.mem.comb.find? (fun x => x.addr = a) = some e → e.lastAccess + 1024 ≤ s.now → (s.raiseCounter e.addr).isSome = true →
       ∃ s', exec (.combinerWriteback a) s = .next s' ∧ s'.tiles = s.tiles ∧ (∀ x ∈ s'.mem.comb, ¬ (x.addr = e.addr ∧ x.width = e.width)) ∧
         ∀ pa, s'.byteAt pa = if e.addr ≤ pa ∧ pa < e.addr + e.width then BitVec.ofNat 8 (e.value / 256 ^ (pa - e.addr)) else s.byteAt pa) ∧
     ∀ t, t < 1024 →
       (∃ s', exec (.eventDeliveredByKeeper t) s = .next s' ∧ s.OnlyTile s' t ∧ s'.tile t = { s.tile t with latch := true }) ∧
       ∀ n, (s.tile t).team = n → (s.tile t).use ∈ [TileUse.loading, .running, .ended, .parked] →
         ∃ s', exec (.haltBroadcastArrival t n) s = .next s' ∧ s.OnlyTile s' t ∧ s.SameBytes s' ∧ (s'.tile t).frozen = true ∧
           (s'.tile t).seq.pc = (s.tile t).seq.pc ∧ (s'.tile t).seq.g = (s.tile t).seq.g ∧ (s'.tile t).use = (s.tile t).use)

/-- R321, R322, R416: a clamp that reaches a running unit of the team lowers REM of the innermost clampable loop to at
most EPI + 1, sets it to 1 in the loops outside and records ITER + REM - EPI, no less than 0; a unit without such a
loop is not clamped; a clamped unit whose waits are over ends; a drain leaves the tile as at reset. -/
def Obligations.ClampAndDrain : Prop :=
  ∀ (s : State) (t : Nat), t < 1024 →
    let x := s.tile t
    (∀ n l, s.team? n = some l → x.team = n → x.use = .running → l.st = .clamping →
      ((∀ c ∈ x.bsq.loops, c.clamp = false) → exec (.clampArrival t n) s = .next s) ∧
      ∀ inside c outside, x.bsq.loops = inside ++ c :: outside → (∀ d ∈ inside, d.clamp = false) → c.clamp = true →
        let r : Nat := min c.rem (c.epi + 1)
        ∃ s', exec (.clampArrival t n) s = .next s' ∧ s.SameBytes s' ∧ (s'.tile t).seq = x.seq ∧
          (s'.tile t).bsq = { x.bsq with loops := inside ++ { c with rem := r } :: outside.map fun d => { d with rem := 1 } } ∧
          ((s'.tile t).clamped.map Int.ofNat) = some (max 0 ((c.iter : Int) + r - c.epi))) ∧
    (x.clamped.isSome = true → x.use = .running → x.mayEnd = true → x.freeze = none → s.launch? x.launch = none →
      ∃ s', exec (.clampedUnitEnd t) s = .next s' ∧ s.OnlyTile s' t ∧ s.SameBytes s' ∧ (s'.tile t).use = .ended ∧ (s'.tile t).bsq.cq = [] ∧
        (s'.tile t).seq.on = false) ∧
    (x.use = .draining → s.launch? x.launch = none → ∃ s', exec (.tileDrainComplete t) s = .next s' ∧ s'.tile t = {} ∧
      (∀ pa, s'.byteAt pa = s.byteAt pa) ∧ ∀ u, u ≠ t → s'.tile u = s.tile u)

/-- The line of `dva` lies at `pa`, in the window of `v`'s default context (R39, R421), and nothing stands in the way of the keeper's accesses there. -/
abbrev quietLine (s : State) (v : Vd) (dva pa : Nat) : Prop :=
  dva % 64 = 0 ∧ pa % 64 = 0 ∧ dva < 2 ^ 55 ∧ s.mig = [] ∧ s.mem.comb = [] ∧ s.keyOk false v.world v.ctx.hwkey.toNat = true ∧
  (s.mem.ctrs.get {} (pa / 2048)).minors.get 0 (pa / 64 % 32) < 100 ∧ ∀ k, k < 64 → v.ctx.window (dva + k) = some (pa + k) ∧
    paTier (pa + k) ≤ 1 ∧ s.homeCheck (pa + k) v.ctx.hwkey.toNat = none ∧ s.pcmOk (quiresOf v.quires) (pa + k) = true ∧
    s.checkLine (pa + k) = (s, .good)

/-- The next record of `v` and its status block (R301, R312) lie in that window too, in other lines than `pa`'s. -/
abbrev recordsAway (v : Vd) (pa : Nat) : Prop :=
  ∀ a, (v.recordAt v.trnext ≤ a ∧ a < v.recordAt v.trnext + 32) ∨ (v.status ≤ a ∧ a < v.status + 128) →
    ∃ q, v.ctx.window a = some q ∧ q / 64 ≠ pa / 64

/-- R278, R280: the work of packet `p` has ended with reason `r`; its report may follow from the next tick on. -/
abbrev packetEnded (s s' : State) (p : PktId) (r : Nat) : Prop :=
  ∃ v x, s'.pkt? p = some (v, x) ∧ x.st = .performed ∧ x.reason = r ∧ x.reportAt = s.tick + 1

/-- R278, R280, R283 to R289, R293, R297, R306, R400, R404: packets start in their turn. A NOP is done at once; a SIGNAL
ends with its atomic; a WAITSIG ends when its condition holds, with WATCHDOG at its TIMEOUT, and waits until then;
one that has asked a peer waits for the answer. A CANCEL, PHASE or LAUNCH that cannot read what it names ends with
that fault; a CANCEL of a block that is done ends with 0, and so does one of a NEW block, which gets STATE and
REASON CANCELLED; one of a block under way ends with it or waits for its launches. A PHASE whose block is not fresh
or breaks R286 fails, one whose block passes opens it and dispatches its graphs in list order; a LAUNCH takes its
image and becomes a launch; a COPY starts on a free engine with its first chunk; a CKPT reads its descriptor and
goes on to its seal or its restore, and one without tier L ends with NO_TIER. A packet whose words went with a stack
ends with DIE_RESET (R297); that such work ends so, and the start a tick after acceptance, are logs 77 and 52, and
that a COPY's chunk is due after (6 len + 4095) / 4096 ticks stretches R280's figure: the model's choices. -/
def Obligations.PacketForms : Prop :=
  ∀ (s : State) (p : PktId) (v : Vd) (x : Pkt), s.pkt? p = some (v, x) →
    let ended (s' : State) (r : Nat) : Prop := packetEnded s s' p (if x.lost = true then dieResetReason else r)
    let waits (s' : State) : Prop := ∃ w y, s'.pkt? p = some (w, y) ∧ y.st = .started
    let s₁ := s.startPkt p id
    (x.st = .accepted → x.queued = true → x.startTick ≤ s.tick →
      (x.typ = 0 → ∃ s', exec (.nop p) s = .next s' ∧ ended s' 0) ∧
      (x.typ = 3 → (∃ s' r, exec (.signal p) s = .next s' ∧ (ended s' r ∨ waits s')) ∧
        ∀ s₂ r, s₁.vdAskAtomic v (x.word 2) (if x.word 4 = 0 then .fn 8 else .fn 0)
            (if x.word 4 = 2 then (2 ^ 64 - x.word 3) % 2 ^ 64 else x.word 3) (.pkt p) = (s₂, r) →
          ∃ s' w y, exec (.signal p) s = .next s' ∧ s'.pkt? p = some (w, y) ∧ match r with
            | .ok (some old) => ended s' 0 ∧ y.old = BitVec.ofNat 64 old
            | .ok none => y.st = .started ∧ y.stage = 1
            | .error c => ended s' c) ∧
      (x.typ = 4 → (∃ s' r, exec (.waitsig p) s = .next s' ∧ (ended s' r ∨ waits s')) ∧
        let s₀ := (s.startPkt p fun x => { x with pollAt := s.tick + 256 }).postTick (s.tick + 256) (.waitsigPoll p)
        let sr := if x.word 5 = 0 then s₀ else s₀.postTick (s.tick + x.word 5) (.waitsigTimeout p)
        ∀ s₂ r, x.stage ≠ 1 → sr.vdAskWord v (x.word 2) (.pkt p) = (s₂, r) → ∃ s', exec (.waitsig p) s = .next s' ∧ match r with
          | .ok (some n) =>
            let holds : Prop := match x.word 4 with
              | 0 => n = x.word 3
              | 1 => n ≠ x.word 3
              | 2 => n < x.word 3
              | _ => x.word 3 ≤ n
            (holds → ended s' 0) ∧ (¬ holds → waits s')
          | .ok none => waits s'
          | .error c => ended s' c) ∧
      (x.typ = 5 → (∃ s', exec (.cancel p) s = .next s') ∧
        (∀ s₂ c, s₁.vdWord v (x.word 2) = (s₂, .error c) → ∃ s', exec (.cancel p) s = .next s' ∧ ended s' (s₂.lostReason v (x.word 2) c)) ∧
        ∀ s₂ h, s₁.vdWord v (x.word 2) = (s₂, .ok h) →
          ((3 ≤ h / 256 % 256 ∨ h / 256 % 256 = 0 ∨ s₂.blockOver v (x.word 2) = true) → ∃ s', exec (.cancel p) s = .next s' ∧ ended s' 0) ∧
          (∃ s' w y, exec (.cancel p) s = .next s' ∧ (ended s' 0 ∨ s'.pkt? p = some (w, y) ∧ y.st = .started ∧ y.waits ≠ [])) ∧
          ∀ pa, h / 256 % 256 = 0 → s₂.blockOver v (x.word 2) = false → quietLine s v (x.word 2) pa → recordsAway v pa → v.vd = p.vd →
            h % 256 ∈ [2, 3, 4] → natOf (readBytes s.mem.cells (pa + 16) 16) = 0 → s.inHand v (x.word 2) = false →
            ∃ s', exec (.cancel p) s = .next s' ∧ s'.byteAt (pa + 1) = 5#8 ∧ s'.byteAt (pa + 2) = 0x80#8 ∧
              s'.byteAt (pa + 3) = s.byteAt (pa + 3) ||| 1#8) ∧
      (x.typ = 6 → (∃ s', exec (.phase p) s = .next s') ∧
        (∀ s₂ c, (s.startPkt p fun x => { x with top := x.word 2 }).vdRead v (x.word 2) 64 = (s₂, .error c) →
          ∃ s', exec (.phase p) s = .next s' ∧ ended s' (s₂.lostReason v (x.word 2) c)) ∧
        ∀ s₂ bs, (s.startPkt p fun x => { x with top := x.word 2 }).vdRead v (x.word 2) 64 = (s₂, .ok bs) → x.waits = [] →
          let h := field bs 0 8
          let n := field bs 32 8
          let fails (r : Nat) : Prop := ∃ s', exec (.phase p) s = .next s' ∧ ended s' r
          (h % 256 = 3 → h / 256 % 256 = 5 → fails 0x80) ∧
          (s.inHand v (x.word 2) = true → (h % 256 ≠ 3 ∨ h / 256 % 256 ∉ [0, 5]) → fails illegalEnc) ∧
          ∀ pa, quietLine s v (x.word 2) pa → recordsAway v pa → s.inHand v (x.word 2) = false → v.vd = p.vd →
            (∀ y ∈ v.jrnl, y.typ = 6 → y.st = .started → y.top ≠ x.word 2) → h % 256 = 3 → h / 2 ^ 24 % 2 = 0 →
            natOf (readBytes s.mem.cells (pa + 16) 16) = 0 → (h / 256 % 256 ∈ [1, 2, 3, 4] ∨ h / 256 % 256 = 0 ∧
              (n = 0 ∨ 65535 < n ∨ allZero (bs.drop 48) = false)) →
            fails illegalEnc ∧ ∃ s', exec (.phase p) s = .next s' ∧ s'.byteAt (pa + 1) = 4#8 ∧ s'.byteAt (pa + 2) = BitVec.ofNat 8 illegalEnc) ∧
      (x.typ = 6 → ∀ s₂ s₃ s₄ bs kids, (s.startPkt p fun x => { x with top := x.word 2 }).vdRead v (x.word 2) 64 = (s₂, .ok bs) →
        let c : Cause := { vd := p.vd, pkt := some (p.q, p.idx), at_ := s.tick + 1 }
        let n := field bs 32 8
        field bs 0 8 % 256 = 3 → field bs 0 8 / 256 % 256 = 0 → s₂.openJob c v (field bs 16 8) = (s₃, none) → 1 ≤ n → n ≤ 65535 → allZero (bs.drop 48) = true →
        s₃.readList v (field bs 40 8) n = (s₄, .ok kids) →
        let k : Block := { dva := x.word 2, kind := 3, parent := field bs 16 8, signal := field bs 24 8, kids := kids }
        let sb := s₄.modVd p.vd fun v => { v with blocks := v.blocks ++ [k] }
        exec (.phase p) s = .next (((sb.setOutst v (x.word 2) n).setBlockState v (x.word 2) 2).runJobs jobFuel c
          (kids.map fun g => .graph g (x.word 2)))) ∧
      (x.typ = 7 → x.stage = 0 → (∃ s', exec (.ckpt p) s = .next s') ∧
        (s.fitted.tierL = 0 → ∃ s', exec (.ckpt p) s = .next s' ∧ ended s' 0x82) ∧
        (s.fitted.tierL ≠ 0 → ∀ s₂ d, s₁.readCkpt v x = (s₂, .ok d) → (d.op ≠ 0 ∨ s₂.ckptCut d = false) →
          ∃ s' w y, exec (.ckpt p) s = .next s' ∧ s'.pkt? p = some (w, y) ∧ y.st = .started ∧ y.stage = 1)) ∧
      (x.typ = 2 → (s.idleEngine v.home = none → exec (.copy p) s = .next s) ∧
        ∀ e, s.idleEngine v.home = some e → s.nextCopy (e / 8) e = some (v, x) → ∃ s', exec (.copy p) s = .next s' ∧
          (s'.bulk e).pkt = some (x.id v.vd) ∧ (s'.bulk e).src = x.word 2 + x.bytes ∧ (s'.bulk e).dst = x.word 3 + x.bytes ∧
          (s'.bulk e).len = min 65536 (x.word 4 - x.bytes) ∧ (s'.bulk e).dueAt = s.tick + (6 * (s'.bulk e).len + 4095) / 4096) ∧
      (x.typ = 1 → s.builtBy p.vd x = none → (∃ s', exec (.launch p) s = .next s') ∧
        (∀ s₂ img, s.outranked v x = false → s.readImage v (x.word 2) = (s₂, .ok img) →
          (∃ l : Launch,
            exec (.launch p) s = .next (State.tryAll { s₂ with nextId := s₂.nextId + 1, launches := s₂.launches ++ [l] } p.vd) ∧
            l.id = s₂.nextId ∧ l.st = .waiting ∧ l.vd = p.vd ∧ l.built = true ∧ l.pkt = some (p.q, p.idx) ∧ l.image = img ∧
            l.nunits = img.teamw * img.teamh ∧ l.lseed = BitVec.ofNat 64 (x.word 3)) ∧
          ((∀ m ∈ s₂.launches, m.id ≠ s₂.nextId) → ∃ s' m, exec (.launch p) s = .next s' ∧ s'.launch? s₂.nextId = some m ∧
            m.st ∈ [.waiting, .running, .done] ∧ m.vd = p.vd ∧ m.built = true ∧ m.pkt = some (p.q, p.idx) ∧ m.image = img ∧
            m.nunits = img.teamw * img.teamh ∧ m.lseed = BitVec.ofNat 64 (x.word 3))) ∧
        ∀ s₂ c, s.outranked v x = false → s.readImage v (x.word 2) = (s₂, .error c) →
          ∃ s', exec (.launch p) s = .next s' ∧ ended s' c)) ∧
    (x.typ = 4 → x.st = .started →
      (∃ s' r, exec (.waitsigPoll p) s = .next s' ∧ (ended s' r ∨ waits s')) ∧
      (x.word 5 ≠ 0 → x.startTick + x.word 5 ≤ s.tick → ∃ s', exec (.waitsigTimeout p) s = .next s' ∧ ended s' watchdogF)) ∧
    (x.typ = 7 → x.st = .started → x.stage ≠ 0 → (∃ s', exec (.ckpt p) s = .next s') ∧
      (∀ s₂ c, s.readCkpt v x = (s₂, .error c) → ∃ s', exec (.ckpt p) s = .next s' ∧ ended s' c) ∧
      ∀ s₂ d, s.readCkpt v x = (s₂, .ok d) → exec (.ckpt p) s = .next (if d.op = 0 then s₂.sealOn p v x d else s₂.restore p v x d))

/-- R277, R278, R280, R282, R285: the report of the oldest packet of a queue, once its work has ended, takes it out of
the journal; a notify or a REFRESH begins a read of the queue that ends two ticks later, one that comes during it is
remembered, and a closed queue takes none; the WAITSIGs of the VD read their objects again. That the read begins at
the notify and ends two ticks later, and that a REFRESH during it is remembered, is the model's choice (log 51). -/
def Obligations.ReportAndNotify : Prop :=
  ∀ (s : State),
    (∀ (p : PktId) (v : Vd) (x : Pkt), s.pkt? p = some (v, x) → x.st = .performed → x.reportAt ≤ s.tick →
      (v.jrnl.find? (·.qnum = p.q)).any (·.idx = p.idx) = true →
      ∃ s', exec (.completionReport p) s = .next s' ∧ s'.pkt? p = none) ∧
    ∀ (vd n : Nat) (v : Vd) (q : Umq), s.vd? vd = some v → v.queue? n = some q →
      let after (i : Instr) (f : Umq → Prop) : Prop := ∃ s' w r, exec i s = .next s' ∧ s'.vd? vd = some w ∧ w.queue? n = some r ∧ f r
      (q.openQ = false → (∃ s', exec (.notify vd n) s = .next s' ∧ s'.vds = s.vds) ∧ ∃ s', exec (.refresh vd n) s = .next s' ∧ s'.vds = s.vds) ∧
      (∀ y ∈ v.jrnl, y.typ = 4 → y.st = .started → (∀ a, q.openQ = true → q.readAt = some a → s.tick < a) →
        ∀ i ∈ [Instr.notify vd n, .refresh vd n], ∃ s', exec i s = .next s' ∧ (.cycle s.now, .waitsigPoll (y.id vd)) ∈ s'.agenda) ∧
      (q.openQ = true → q.readAt = none →
        after (.notify vd n) (fun r => r.readAt = some (s.tick + 2) ∧ r.refresh = false) ∧
        after (.refresh vd n) (fun r => r.readAt = some (s.tick + 2) ∧ r.refresh = true)) ∧
      (∀ a, q.openQ = true → q.readAt = some a → s.tick < a →
        after (.notify vd n) (fun r => r.readAt = some a ∧ r.pending = true) ∧
        after (.refresh vd n) (fun r => r.readAt = some a ∧ r.pending = true ∧ r.pendRefresh = true)) ∧
      ∀ a, q.openQ = true → q.readAt = some a → a ≤ s.tick → ∃ s', exec (.notify vd n) s = .next s'

/-- R290, R292, R303, R304: a wave that is over is followed by the next one, for which the team's tiles drain; a launch
ends after its last unit, or after its drain where it fails, and its packet with it; what waits for tiles or for the
pool is tried again in dispatch order, and one that fits runs; for what does not fit, pre-emption is asked: no team
loses a tile by that, only teams that run are stopped, and a team chosen alone is. The tick of completion (log 53)
and the order in which pre-emption is asked (log 58) are the model's choices. R287 to R289, R294, R421: what the
completion of a block leaves where the keeper reads and writes it, in the window of its VD's default context: STATE
and REASON by the reason, by REASON where it is 0, and CANCELLED where CMARK is set; a launch that ends is done; and
of a block with a parent that has other children to come, OUTST of the parent is one less, and its REASON the first
that was not 0. -/
def Obligations.LaunchSteps : Prop :=
  (∀ (s : State) (id : Nat) (l : Launch), s.launch? id = some l →
     (l.st = .running → l.wave + 1 < l.waves → s.teamQuiet l = true →
       ∃ s' m, exec (.waveStart id) s = .next s' ∧ s'.launch? id = some m ∧ m.wave = l.wave + 1 ∧
         (∀ t ∈ l.tiles, (s.tile t).launch = id → (s'.tile t).use = .draining) ∧ ∀ pa, s'.byteAt pa = s.byteAt pa) ∧
     (l.st = .draining → (l.stopAction = 6 ∨ s.allDrained l = true ∧ l.stopAction ∈ [0, 1, 3]) →
       (∃ s', exec (.launchComplete id) s = .next s' ∧ (l.lcb = 0 → (∀ m, s'.launch? id = some m → m.st = .done) ∧
         ∀ q i v x, l.built = true → l.pkt = some (q, i) → s.vd? l.vd = some v → v.pkt? q i = some x → x.st ∈ [.accepted, .started] →
           (∀ y ∈ v.jrnl, id ∉ y.waits) → ∃ w y, s'.pkt? { vd := l.vd, q := q, idx := i } = some (w, y) ∧ y.st = .performed ∧
             y.reason = (if x.lost = true then dieResetReason else if l.stopAction = 6 then 0 else l.reason) ∧ y.reportAt = s.tick)) ∧
       exec (.launchComplete id) s = .next ((s.completeLaunch l (if l.stopAction = 6 then 0 else l.reason) s.tick).dropDone.retryAll)) ∧
     (∀ vd, s.wanting vd ≠ [] → exec (.poolAllocRetry vd) s = .next ((s.wanting vd).foldl (fun s m => s.tryLaunch m.id) s)) ∧
     (∀ v ox oy, s.vd? l.vd = some v → s.wanting l.vd = [l] → l.st = .waiting → l.allocated = true → v.st ≠ 3 →
       l.poolNeed ≤ 2 ^ 20 → s.canFit v l.image = true → findPlace v l.image.teamw l.image.teamh (s.spare v) = some (ox, oy) →
       ∃ s' m, exec (.poolAllocRetry l.vd) s = .next s' ∧ s'.launch? id = some m ∧ m.st = .running ∧
         m.tiles = teamTiles l.image.teamw l.image.teamh ox oy) ∧
     ∀ vd v, s.vd? vd = some v → (∃ m ∈ s.wanting vd, m.allocated = true ∨ m.st = .saved) →
       exec (.preemptRequest vd) s = .next (((s.wanting vd).filter fun m => m.allocated || m.st = LaunchSt.saved).foldl
         (fun s m => s.requestFor v m) s) ∧
       (∃ s', exec (.preemptRequest vd) s = .next s' ∧ ∃ m, s'.launch? id = some m ∧ m.tiles = l.tiles ∧ m.pkt = l.pkt ∧
         (m.st = l.st ∨ l.st = .running ∧ m.st ∈ [.clamping, .saving, .halting])) ∧
       ∀ m u, s.wanting vd = [m] → (m.allocated = true ∨ m.st = .saved) → s.firstThatFit v m (s.lowerTeams v (s.launchPrio m)) = some [l] →
         s.vd? l.vd = some u → l.st = .running → s.unitRuns l = true →
         ∃ s' k, exec (.preemptRequest vd) s = .next s' ∧ s'.launch? id = some k ∧ k.st ∈ [.clamping, .saving, .halting]) ∧
  (∀ (s : State) (vd n b pa r : Nat) (v : Vd), s.vd? vd = some v → v.vd = vd → quietLine s v b pa → recordsAway v pa → r < 256 →
     let byte (k : Nat) : Nat := (s.byteAt (pa + k)).toNat
     let word (k : Nat) : Nat := natOf (readBytes s.mem.cells k 8)
     let rho : Nat := if byte 3 % 2 = 1 then 0x80 else if r = 0 then byte 2 else r
     let ends (s' : State) : Prop := (s'.byteAt (pa + 1)).toNat = (if rho = 0 then 3 else if rho = 0x80 then 5 else 4) ∧
       (s'.byteAt (pa + 2)).toNat = rho ∧ ∀ k, k < 64 → k ≠ 1 → k ≠ 2 → s'.byteAt (pa + k) = s.byteAt (pa + k)
     let s' := s.complete { vd := vd, at_ := n } b r 0
     byte 1 < 3 →
     (byte 0 ∈ [2, 3, 4] → word (pa + 24) = 0 → s.inHand v b = false →
       (word (pa + 16) = 0 → ends s') ∧
       ∀ q qa, word (pa + 16) = q → q ≠ 0 → quietLine s v q qa → recordsAway v qa → qa ≠ pa → 2 ≤ word (qa + 8) →
         ends s' ∧ natOf (s'.mem.deviceBytes (qa + 8) 8) = word (qa + 8) - 1 ∧
         s'.byteAt (qa + 2) = if s.byteAt (qa + 2) = 0#8 then BitVec.ofNat 8 rho else s.byteAt (qa + 2)) ∧
     ∀ l ∈ s.launches, l.vd = vd → l.lcb = b → b ≠ 0 → l.st ≠ .done → l.lost = false → l.gcb = 0 → l.parent = 0 → l.signal = 0 → l.succ = [] →
       (∀ m ∈ s.launches, m.vd = vd → m.lcb = b → m = l) → ends (s.completeLaunch l r n) ∧
       ∀ m, (s.completeLaunch l r n).launch? l.id = some m → m.st = .done)

/-- R302, R303, R355: each tick a VD of weight w that holds n tiles gains 256 n / w of virtual time, below 2^64 - 1, and
each of its 29 buckets TOKRATE tokens up to TOKDEPTH; a period of the hotness counters ends. R299, R300, R310, R438:
VDCREATE is taken for VDs 1 to 63: a block that is admitted becomes the VD's; one that is not, or one for VD 0, is
refused and leaves the VD as it stood, with the reason in its status; one that cannot be read changes no VD (log 73:
the model's choice). A microcode image that fails its checks loads nothing; one that passes starts at its entry on
both sequencers of every die that is not held. -/
def Obligations.KeeperClocksAndSetup : Prop :=
  (∀ (s : State),
     (∀ n v, (s.vds.map Prod.fst).Pairwise (· < ·) → (∀ e ∈ s.vds, ∀ u, e.2 = some u → u.vd = e.1) → s.vd? n = some v →
       ∃ s' w, exec .vtAdvance s = .next s' ∧ s'.vd? n = some w ∧
       w.vt = if v.weight = 0 then v.vt else min (v.vt + 256 * s.tilesHeld n / v.weight) (2 ^ 64 - 2)) ∧
     (∀ n v, (s.vds.map Prod.fst).Pairwise (· < ·) → (∀ e ∈ s.vds, ∀ u, e.2 = some u → u.vd = e.1) → s.vd? n = some v →
       ∃ s' w, exec .tokenRefill s = .next s' ∧ s'.vd? n = some w ∧
       ∀ h, w.tokens.get 0 h = if h < 29 then min v.tokdepth (v.tokens.get 0 h + v.tokrate) else v.tokens.get 0 h) ∧
     (∃ s', exec .hotnessPeriod s = .next s' ∧ s.SameBytes s' ∧ s'.mem.periods = s.mem.periods + 1)) ∧
  (∀ (s : State),
     (∀ vd pa, vd < 64 → (∃ s', exec (.vdcreate vd pa) s = .next s') ∧
       (∀ s₁ c, s.paRead 0 pa 192 = (s₁, .error c) → ∃ s', exec (.vdcreate vd pa) s = .next s' ∧ s'.vds = s.vds) ∧
       ∀ s₁ b, s.paRead 0 pa 192 = (s₁, .ok b) →
         (∀ v, 1 ≤ vd → vdOf vd (s₁.homeDie (field b 0 8)) b = some v → s₁.vdAdmitted v = true → ∃ s' w, exec (.vdcreate vd pa) s = .next s' ∧ s'.vd? vd = some w ∧ w.quires = v.quires ∧
           w.world = v.world ∧ w.weight = v.weight ∧ w.ctx = v.ctx ∧ w.home = v.home) ∧
         ((vd = 0 ∨ ∀ v, vdOf vd (s₁.homeDie (field b 0 8)) b = some v → s₁.vdAdmitted v = false) →
           (s₁.vd? vd = none → ∃ s', exec (.vdcreate vd pa) s = .next s' ∧ s'.vds = s₁.vds) ∧
           ∀ u, s₁.vd? vd = some u → u.vd = vd → ∃ s' w, exec (.vdcreate vd pa) s = .next s' ∧ s'.vd? vd = some w ∧ w.quires = u.quires ∧
             w.world = u.world ∧ w.weight = u.weight ∧ w.ctx = u.ctx ∧ w.home = u.home ∧ w.lastRefusal = vdcfg)) ∧
     ∀ b, (∀ c, checkMicrocode b = .error c → ∃ s', exec (.microcodeReload b) s = .next s' ∧ s'.keepers = s.keepers) ∧
       ∀ i, checkMicrocode b = .ok i → ∃ s', exec (.microcodeReload b) s = .next s' ∧ s'.tiles = s.tiles ∧
         ∀ k, k < 32 → (s.die (k / 2)).held = false → (s'.seq (.keeper k)).on = true ∧ (s'.seq (.keeper k)).pc = i.entry ∧
           (s'.seq (.keeper k)).issueAt = s.now)

/-- R300, R305, R309, R311: the operations of the keeper's block. KPLACE places a waiting LAUNCH where R305 and R300
admit it, KRESUME a held team; KPREEMPT estimates and begins; KREJECT and KREPORT end and report a packet; KFREE
names the quire it reads; an operation that finds no such entry or team, or a VD whose decision lock is held, is
refused with reason 0x13 and nothing else. That KREJECT is refused for a reason outside R295's table (log 122), and
that it acts for the lowest VD with the entry (log 59), are the model's choices. -/
def Obligations.KeeperOperations : Prop :=
  ∀ (s : State) (k : Nat) (a : Word), k < 32 →
    let n := a.toNat
    let refused (i : Instr) : Prop := exec i s = .next { s with kblock := { s.kblock with reason := 0x13 } }
    let placed (i : Instr) (l : Launch) (ox oy : Nat) : Prop := ∃ s' m, exec i s = .next s' ∧ s'.launch? l.id = some m ∧ m.st = .running ∧
      m.tiles = teamTiles l.image.teamw l.image.teamh ox oy
    exec (.kfree k a) s = .next { s with kblock := { s.kblock with kfree := n % 64 } } ∧
    (s.entryOf k (n % 8192) = none → refused (.kplace k a) ∧ refused (.kreject k a) ∧ refused (.kreport k a)) ∧
    (s.team? (n % 65536) = none → refused (.kpreempt k a) ∧ refused (.kresume k a)) ∧
    (∀ d x, s.entryOf k (n % 8192) = some (d, x) → d.vd ∈ s.sct.locked → refused (.kplace k a) ∧ refused (.kreject k a) ∧ refused (.kreport k a)) ∧
    (∀ l d, s.team? (n % 65536) = some l → s.vd? l.vd = some d → d.vd ∈ s.sct.locked → refused (.kpreempt k a) ∧ refused (.kresume k a)) ∧
    (∀ d x, s.entryOf k (n % 8192) = some (d, x) → d.vd ∉ s.sct.locked →
      (∀ l, s.builtBy d.vd x = some l → l.st = .waiting → l.allocated = true →
        (s.admits d l.image (n / 2 ^ 13 % 32) (n / 2 ^ 18 % 32) = true → placed (.kplace k a) l (n / 2 ^ 13 % 32) (n / 2 ^ 18 % 32)) ∧
        (s.admits d l.image (n / 2 ^ 13 % 32) (n / 2 ^ 18 % 32) = false → refused (.kplace k a))) ∧
      ((x.st ≠ .accepted ∨ reasonOk (n / 2 ^ 13 % 256) = false) → refused (.kreject k a)) ∧
      (x.st = .accepted → reasonOk (n / 2 ^ 13 % 256) = true → s.builtBy d.vd x = none → s.pkt? (x.id d.vd) = some (d, x) →
        ∃ s', exec (.kreject k a) s = .next s' ∧ packetEnded s s' (x.id d.vd) (if x.lost = true then dieResetReason else n / 2 ^ 13 % 256)) ∧
      (∀ l, x.st = .accepted → reasonOk (n / 2 ^ 13 % 256) = true → s.builtBy d.vd x = some l →
        exec (.kreject k a) s = .next (s.rejectLaunch l (n / 2 ^ 13 % 256)) ∧
        (l.lcb = 0 → s.pkt? (x.id d.vd) = some (d, x) → (∀ y ∈ d.jrnl, l.id ∉ y.waits) → ∃ s', exec (.kreject k a) s = .next s' ∧
          (∀ m, s'.launch? l.id = some m → m.st = .done) ∧
          packetEnded s s' (x.id d.vd) (if x.lost = true then dieResetReason else n / 2 ^ 13 % 256))) ∧
      (x.st = .performed → (d.jrnl.find? (·.qnum = x.qnum)).any (·.idx = x.idx) = true → s.pkt? (x.id d.vd) = some (d, x) →
        ∃ s', exec (.kreport k a) s = .next s' ∧ s'.pkt? (x.id d.vd) = none)) ∧
    ∀ l d, s.team? (n % 65536) = some l → s.vd? l.vd = some d → d.vd ∉ s.sct.locked →
      (l.st = .running → s.unitRuns l = true → n / 2 ^ 50 % 2 = 0 →
        ∃ s' m, exec (.kpreempt k a) s = .next s' ∧ s'.kblock.kest = (s.estimate l).kest ∧ s'.kblock.reason = s.kblock.reason ∧
          s'.launch? l.id = some m ∧ m.st ∈ [.clamping, .saving, .halting]) ∧
      (l.st = .saved → n % 65536 ≠ 0 → l.saveData = [] → s.admits d l.image (n / 2 ^ 16 % 32) (n / 2 ^ 21 % 32) = true →
        placed (.kresume k a) l (n / 2 ^ 16 % 32) (n / 2 ^ 21 % 32)) ∧
      (l.st = .saved → n % 65536 ≠ 0 → s.admits d l.image (n / 2 ^ 16 % 32) (n / 2 ^ 21 % 32) = true → ∀ s₁,
        (∀ m, s.openArea l d = (s₁, .ok m) → exec (.kresume k a) s = .next (s₁.resumeLaunch d m (n / 2 ^ 16 % 32) (n / 2 ^ 21 % 32))) ∧
        ∀ r, s.openArea l d = (s₁, .error r) → exec (.kresume k a) s = .next (s₁.completeLaunch l r (s₁.tick + 1)))

/-- R324, R329, R335, R369: a team to be saved is saved in two stages, and its tiles drain; a discarded team leaves its
tiles; the keeper takes a fault that is due once, and a halted team by what was decided for it; a check that fails
while a team discarded or halted by a die reset drains is only posted (R370). -/
def Obligations.TeamStops : Prop :=
  ∀ (s : State) (n : Nat),
    (∀ l, s.team? n = some l → s.launch? l.id = some l → l.settled = true → s.faultOpen l = false →
      let after (i : Instr) (f : Launch → Prop) : Prop := ∃ s' m, exec i s = .next s' ∧ s'.launch? l.id = some m ∧ f m
      (l.st = .saving → l.saveTime = 0 → after (.save n) fun m => m.st = .saving ∧ s.now < m.saveTime) ∧
      (l.st = .saving → l.saveTime ≠ 0 → l.saveTime ≤ s.now → after (.save n) fun m => m.st = .draining ∧ m.saveTime = 0) ∧
      (l.st = .halting → l.stopAction ∈ [2, 3] → after (.discard n) fun m => m.st ∈ [.draining, .saved, .done]) ∧
      (l.st = .halting → l.stopAction ∈ [2, 3] → l.tiles ≠ [] → (∀ t ∈ l.tiles, (s.tile t).launch = l.id) → ∃ s' m, exec (.discard n) s = .next s' ∧
        s'.launch? l.id = some m ∧ m.st = .draining ∧ ∀ t ∈ l.tiles, (s'.tile t).use = .draining) ∧
      ∀ v, s.vd? l.vd = some v → s.dueFault n = none → l.st = .halting →
        (l.stopAction = 0 → after (.keeperContainment n) fun m => m.st = .draining) ∧
        (l.stopAction = 1 → (∀ u ∈ s.launches, u.vd = l.vd → u.st ≠ .dumping) → after (.keeperContainment n) fun m => m.st = .dumping ∧ m.dumpStep = 0 ∧ m.dumpAt = s.tick + 1)) ∧
    ∀ k, s.dueFault n = some k → (∃ s', exec (.keeperContainment n) s = .next s' ∧ s'.kfaults = s.kfaults.erase k) ∧
      (∀ l v, k.tile < 1024 → s.launch? (s.tile k.tile).launch = some l → s.vd? l.vd = some v → l.st ∈ [.running, .clamping, .saving] →
        l.firstFault = none → ∃ s' m, exec (.keeperContainment n) s = .next s' ∧ s'.launch? l.id = some m ∧ m.st = .halting ∧
          m.reason = k.fault.code ∧ m.stopAction = match v.contain with
            | 0 => if l.restart = true ∧ l.relaunched = false then 2 else 0
            | 2 => 1
            | _ => 0) ∧
      ∀ l v, k.tile < 1024 → s.launch? (s.tile k.tile).launch = some l → s.vd? l.vd = some v → k.drain = true → l.st = .halting → l.stopAction = 2 →
        ∃ s', exec (.keeperContainment n) s = .next s' ∧ s'.launch? l.id = some l

/-- R356 to R364, R410: a request that passes its checks waits for a slot; a slot takes the oldest one, or else a frame
of a rotation; a line is copied and the next one taken; with its last line a page's leaf is rewritten and killed,
and the slot is free once the kill is past; an abort likewise; a rotation ends with its last frame, and a scrubbed
key ID no frame holds becomes free. -/
def Obligations.MigrationSteps : Prop :=
  ∀ (s : State) (n : Nat),
    (∀ pa pf, (∃ s', exec (.migreq pa pf) s = .next s') ∧ ∀ s₁ b s₂ y, s.engineRead 0 pa 64 = (s₁, .ok b) → s₁.migWait.length < 512 →
      s₁.migCheck (migReqOf b pf).1 (migReqOf b pf).2 = (s₂, .ok y) →
      ∃ s' id, exec (.migreq pa pf) s = .next s' ∧ s'.migWait = s₂.migWait ++ [{ (migReqOf b pf).1 with order := id }]) ∧
    (n < 512 → s.mig.any (fun m => m.slot = n) = false → s.migWait ≠ [] →
      (∀ x ∈ s.rots, x.frames = [] ∨ 64 ≤ x.active ∨ ∀ r ∈ s.migWait.head?, r.order ≤ x.id) →
      (∃ s', exec (.migrationStart n) s = .next s' ∧ s'.migWait = s.migWait.tail) ∧
      ∀ r rest s₁ e src attr, s.migWait = r :: rest → ({ s with migWait := rest } : State).migCheck r true = (s₁, .ok (e, src, attr)) →
        ∃ s' m, exec (.migrationStart n) s = .next s' ∧ s'.mig.find? (fun m => m.slot = n) = some m ∧ m.src = src ∧ m.req.dest = r.dest ∧
          m.newKey = attr.keyId ∧ m.copying = true ∧ m.doneLines = 0 ∧ m.phase = 0) ∧
    (∀ r f rest, n < 512 → s.mig.any (fun m => m.slot = n) = false → s.migWait = [] →
      s.rots.find? (fun (r : Rotation) => !r.frames.isEmpty && r.active < 64) = some r → r.frames = f :: rest →
      s.mem.tags.get none f = some r.old → ∃ s' m, exec (.migrationStart n) s = .next s' ∧
        s'.mig.find? (fun m => m.slot = n) = some m ∧ m.src = f * 65536 ∧ m.req.rot = some r.id ∧ m.newKey = r.new ∧ m.copying = true) ∧
    (∀ m, s.mig.find? (fun m => m.slot = n) = some m →
      let gone (i : Instr) : Prop := ∃ s', exec i s = .next s' ∧ s'.mig.find? (fun m => m.slot = n) = none
      let now (i : Instr) (f : MigSlot) : Prop := ∃ s', exec i s = .next s' ∧ s'.mig.find? (fun m => m.slot = n) = some f
      (m.copying = true → m.phase = 0 → m.cause = 0 → (∃ s', exec (.migrationLineCopy n) s = .next s') ∧
        (m.early = true ∨ s.treeBad m = false ∧ s.destBad m = false ∧ (s.copyMoving m).isSome = true →
          (m.held = [] → now (.migrationLineCopy n)
            { m with doneLines := m.doneLines + 1, line := m.doneLines + 1, copying := decide (m.doneLines + 1 < 1024), early := false }) ∧
          ∃ s' k, exec (.migrationLineCopy n) s = .next s' ∧ s'.mig.find? (fun m => m.slot = n) = some k ∧ k.doneLines = m.doneLines + 1)) ∧
      (m.doneLines = 1024 → m.phase = 0 → m.cause = 0 → s.treeBad m = false → s.destBad m = false → s.scrubbedKey m.newKey = false →
        (m.req.rot = none → (∀ k ∈ s.mig, m.req.leafPa / 65536 ≠ k.src / 65536 ∧ m.req.leafPa / 65536 ≠ k.req.dest / 65536) →
          now (.migrationComplete n) { m with phase := 1 }) ∧
        (m.req.rot.isSome = true → gone (.migrationComplete n) ∧ ∃ s', exec (.migrationComplete n) s = .next s' ∧
          s'.mem.tags.get none (m.src / 65536) = some m.newKey)) ∧
      (m.doneLines = 1024 → m.req.rot = none → m.phase = 1 → m.cause = 0 → s.slotKilled n = true → gone (.migrationComplete n)) ∧
      (m.phase = 0 → ∀ c, (m.req.rot.isSome = true → gone (.migrationAbort n c)) ∧ (m.req.rot = none →
        m.held = [] → now (.migrationAbort n c) { m with copying := false, early := false, doneLines := 0, phase := 2, cause := c })) ∧
      (m.phase = 2 → s.slotKilled n = true → ∀ c, gone (.migrationAbort n c))) ∧
    (∀ r, s.rots.find? (fun (r : Rotation) => r.id = n && r.frames.isEmpty && r.active = 0) = some r →
      ∃ s', exec (.krotComplete n) s = .next s' ∧ s'.rots = s.rots.filter fun r => r.id ≠ n) ∧
    (s.sct.keys.get .free n = .scrubbed → s.keyInUse n = false →
      ∃ s', exec (.keyidFreed n) s = .next s' ∧ s.SameBytes s' ∧
        ∀ i, s'.sct.keys.get .free i = if i = n then .free else s.sct.keys.get .free i)

/-- R383 to R391, R394 to R398: a message to a peer no route or no mooring leads to fails at once; otherwise, unless a
second mooring with the peer is ending (log 65: the model's choice), it takes the lane's next number and its data
and guard leaves leave; unacknowledged after T_ack it is sent again, and at the third time given up; an ACK forgets
a write; a RETX is answered by missing leaves, guard leaves first; a LOSS fails what it names and what follows it; a
control leaf with a bad MAC is counted and dropped. -/
def Obligations.FabricSending : Prop :=
  ∀ (s : State),
    let f := s.fabric
    (∀ a b, (∃ s', exec (.frtload a b) s = .next s' ∧ ∀ n, n < a ∨ a + b ≤ n → s'.fabric.routes.get {} n = f.routes.get {} n) ∧
      ∀ s₁ bs r, a < 1024 → s.paRead 0 (f.frtsrc + 64 * a) 64 = (s₁, .ok bs) → routeOf bs = some r →
        ∃ s', exec (.frtload a 1) s = .next s' ∧ s'.fabric.routes.get {} a = r) ∧
    (∀ n up, n < 16 → ∃ s', exec (.portTrainingChange n up) s = .next s' ∧ bitOf n s'.fabric.ports = up ∧
      ∀ k, k ≠ n → bitOf k s'.fabric.ports = bitOf k f.ports) ∧
    (∀ t, f.tx = [t] → t.waiter = none →
      (t.seq = none → (s.reachable t.dst = false ∨ s.linkKey t.dst t.msg.world = none) →
        ∃ s', exec (.messageSeal t.id) s = .next s' ∧ s'.fabric.tx = []) ∧
      (t.seq = none → s.reachable t.dst = true → (s.linkKey t.dst t.msg.world).isSome = true → s.mooringEnds t.dst = false → t.notes = [] → t.noteIds = [] →
        ∃ s' u, exec (.messageSeal t.id) s = .next s' ∧ s'.fabric.tx = [u] ∧ u.seq = some (f.txLane t.lane').seq ∧ u.sealedAt = s.tick ∧
          u.d = max 1 ((carried t.msg + 255) / 256) ∧ s'.outbox.length = s.outbox.length + u.d + (f.code t.dst).2) ∧
      (t.seq.isSome = true → t.acked = false → t.sealedAt + f.tack ≤ s.tick →
        (t.expiries < 2 → ∃ s', exec (.tackExpiry t.id) s = .next s' ∧
          s'.fabric.tx = [{ t with expiries := t.expiries + 1, sealedAt := s.tick }]) ∧
        (2 ≤ t.expiries → ∃ s', exec (.tackExpiry t.id) s = .next s' ∧ s'.fabric.tx = [])) ∧
      ∀ c, c.poisoned = false → c.macOk = true → (s.sct.moorings.get {} c.src).up = true → f.ctlSeen.contains (c.src, c.no) = false → t.lane' = (c.src, c.lane, c.rsp) → t.seq = some c.seq → t.acked = false →
        (t.msg.op = .write → ∃ s', exec (.ack c) s = .next s' ∧ s'.fabric.tx = []) ∧
        (∃ s', exec (.loss c) s = .next s' ∧ s'.fabric.tx = []) ∧
        (f.spray t.dst ≠ [] → ∃ s', exec (.retx c) s = .next s' ∧ s'.fabric.tx = [t] ∧ s'.outbox.length =
          s.outbox.length + min c.n ((List.range (t.d + t.m)).filter fun i => !bitOf i c.bitmap).length)) ∧
    (∀ t, s.tx? t.id = some t →
      (t.seq = none → (s.reachable t.dst = false ∨ s.linkKey t.dst t.msg.world = none) →
        exec (.messageSeal t.id) s = .next (((s.count cTxNoRoute).failTx t).sealNext t.lane')) ∧
      (t.seq = none → s.reachable t.dst = true → (s.linkKey t.dst t.msg.world).isSome = true → s.mooringEnds t.dst = false → t.notes = [] → t.noteIds = [] →
        f.tx.find? (fun x => x.lane' = t.lane' && x.seq.isNone) = some t → f.openOn t.lane' < 64 →
        ∃ s' u, exec (.messageSeal t.id) s = .next s' ∧ s'.tx? t.id = some u ∧ u.seq = some (f.txLane t.lane').seq ∧ u.msg = t.msg ∧
          u.sealedAt = s.tick ∧ u.d = max 1 ((carried t.msg + 255) / 256) ∧ s'.outbox.length = s.outbox.length + u.d + (f.code t.dst).2) ∧
      (t.seq.isSome = true → t.acked = false → t.sealedAt + f.tack ≤ s.tick → t.expiries < 2 → ∃ s', exec (.tackExpiry t.id) s = .next s' ∧
        s'.tx? t.id = some { t with expiries := t.expiries + 1, sealedAt := s.tick })) ∧
    (∀ c t, c.poisoned = false → c.macOk = true → (s.sct.moorings.get {} c.src).up = true → f.ctlSeen.contains (c.src, c.no) = false →
      s.named c = some t →
      let s₁ := s.modFab fun g => { g with ctlSeen := g.ctlSeen ++ [(c.src, c.no)] }
      (t.acked = false → exec (.ack c) s = .next (s₁.ackTx t c.status)) ∧
      exec (.loss c) s = .next (s₁.failLane (c.src, c.lane, c.rsp) c.seq) ∧
      exec (.retx c) s = .next ((s₁.count cRetxReq).sendLeaves t (((((List.range t.m).map (· + t.d)) ++ List.range t.d).filter
        fun i => !bitOf i c.bitmap).take c.n))) ∧
    ∀ c, c.poisoned = false → (c.macOk = false ∨ (s.sct.moorings.get {} c.src).up = false) → ∀ i ∈ [Instr.ack c, .retx c, .loss c, .abandon c],
      ∃ s', exec i s = .next s' ∧ s'.fabric.tx = f.tx ∧ s'.fabric.rx = f.rx ∧ s'.fabric.ctrs.get 0 0x978 = min (f.ctrs.get 0 0x978 + 1) (2 ^ 64 - 1)

/-- R377, R379, R390 to R396, R398: a malformed leaf is counted in RXBAD and dropped, a late one has its outcome
repeated; the first leaf of a number opens a frame, a later one goes to it; a frame is decoded after its guard leaf,
or at its timer asks for leaves three times; a drained frame is free; a decoded message is delivered; an ABANDON is
obeyed; a response with poisoned lines has a poison-notify sent to every holder of each line's frame, counted in
PNOTE, and one that comes is posted. The 20 ticks from the decode of a request to its delivery are a figure of
R379's configuration, and that an ABANDON gives up the later numbers too is log 123: the model's choices. -/
def Obligations.FabricReceiving : Prop :=
  ∀ (s : State),
    (∀ p (l : Leaf), p < 16 → bitOf p s.fabric.ports = true →
      (l.zeros = false ∨ l.src ≠ l.from_ ∨ l.d = 0 ∨ 16 < l.d ∨ l.m = 0 ∨ 4 < l.m ∨ l.d + l.m ≤ l.idx → ∃ s', exec (.leafArrival p l) s = .next s' ∧
        s'.fabric.frames = s.fabric.frames ∧ s'.fabric.rx = s.fabric.rx ∧
        s'.fabric.ctrs.get 0 0x978 = min (s.fabric.ctrs.get 0 0x978 + 1) (2 ^ 64 - 1)) ∧
      (l.zeros = true → l.src = l.from_ → l.src < 1024 → 2 ≤ l.d → l.d ≤ 16 → 1 ≤ l.m → l.m ≤ 4 → l.idx < l.d + l.m → l.seq < 64 → l.lane < 16 →
        l.resync = false → l.poisoned = false → s.fabric.rx = [] → s.fabric.frames = [] →
        ∃ s' f, exec (.leafArrival p l) s = .next s' ∧ s'.frame? (l.seq % 2 * 2048) = some f ∧ f.seq = l.seq ∧ f.src = l.src ∧ f.d = l.d ∧
          f.good = [(l.idx, l.body)] ∧ f.gather = true ∧ f.timer = s.tick + s.fabric.tfrag) ∧
      (l.zeros = true → l.src = l.from_ → l.src < 1024 → 1 ≤ l.d → l.d ≤ 16 → 1 ≤ l.m → l.m ≤ 4 → l.idx < l.d + l.m → l.seq < 65536 → l.lane < 16 →
        l.resync = false →
        let k := (l.src, l.lane, l.rsp)
        let w := (s.fabric.rxLane k).place l.seq
        (w = .late → exec (.leafArrival p l) s = .next ((s.count cRxLate).repeatOutcome k l.seq)) ∧
        (w = .beyond → exec (.leafArrival p l) s = .next (s.count cRxBad)) ∧
        (∀ n f, w = .held (.active n) → s.frame? n = some f → exec (.leafArrival p l) s = .next (s.takeLeaf n f l)) ∧
        (w = .held .empty → s.fabric.freeFrame l.seq = none → exec (.leafArrival p l) s = .next (s.count cRxNoFr)) ∧
        ∀ n, w = .held .empty → s.fabric.freeFrame l.seq = some n → 2 ≤ l.d → l.poisoned = false →
          ∃ s' f, exec (.leafArrival p l) s = .next s' ∧ s'.frame? n = some f ∧ f.seq = l.seq ∧ f.src = l.src ∧ f.lane = l.lane ∧
            f.rsp = l.rsp ∧ f.d = l.d ∧ f.m = l.m ∧ f.good = [(l.idx, l.body)] ∧ f.gather = true ∧ f.timer = s.tick + s.fabric.tfrag)) ∧
    (∀ n f, s.frame? n = some f →
      (f.decodeAt.any (· ≤ s.tick) = true → exec (.guardDecode n) s = .next (s.decode n f) ∧
        ∀ m, s.open_ { f with decodeAt := none } = some m → ∃ s', exec (.guardDecode n) s = .next s' ∧
          (f.seq, s.tick + (if f.rsp = true then 0 else 20), m) ∈ (s'.fabric.rxLane f.lane').ready) ∧
      (f.gather = true → f.timer ≤ s.tick → f.decodeAt = none →
        (f.r < 3 → ∃ s' g, exec (.tfragExpiry n) s = .next s' ∧ s'.frame? n = some g ∧ g.r = f.r + 1 ∧ g.good = f.good ∧
          g.timer = s.tick + s.fabric.tfrag) ∧
        (3 ≤ f.r → exec (.tfragExpiry n) s = .next ((s.count cRxTmo).loseAt f.lane' f.seq true))) ∧
      (f.gather = false → f.timer ≤ s.tick → ∃ s', exec (.tdrainExpiry n) s = .next s' ∧ s'.frame? n = none)) ∧
    (∀ src lane rsp, ((s.fabric.rxLane (src, lane, rsp)).ready.any fun r => r.1 = (s.fabric.rxLane (src, lane, rsp)).del && r.2.1 ≤ s.tick) = true →
      ∃ s', exec (.messageDeliver src lane rsp) s = .next s' ∧
        (∀ r ∈ (s'.fabric.rxLane (src, lane, rsp)).ready, r.1 ≠ (s.fabric.rxLane (src, lane, rsp)).del) ∧
        s'.fabric.ctrs.get 0 0x930 = min (s.fabric.ctrs.get 0 0x930 + 1) (2 ^ 64 - 1)) ∧
    (∀ c, (∃ s', exec (.abandon c) s = .next s') ∧
      (c.poisoned = false → c.macOk = true → (s.sct.moorings.get {} c.src).up = true → s.fabric.ctlSeen.contains (c.src, c.no) = false →
        let k := (c.src, c.lane, c.rsp)
        let s₁ := s.modFab fun g => { g with ctlSeen := g.ctlSeen ++ [(c.src, c.no)] }
        exec (.abandon c) s = .next
          (if above c.seq (s.fabric.rxLane k).del < 2 ^ 15 then s₁.loseAt k c.seq false else s₁.repeatAck k c.seq))) ∧
    (∀ pa t, s.fabric.tx.find? (fun t => t.notes.contains pa) = some t → ∃ s' u, exec (.poisonNotifySend pa) s = .next s' ∧
      u ∈ s'.fabric.tx ∧ u.id = t.id ∧ u.msg = t.msg ∧ u.notes = t.notes.erase pa ∧
      ∀ s₁ e s₂ hs, s.lent pa = (s₁, some e) → s₁.holders e = (s₂, hs) →
        (∀ k ∈ hs, ∃ x ∈ s'.fabric.tx, x.dst = k ∧ x.rsp = false ∧ x.msg.op = .poisonNote ∧ x.msg.pa = pa) ∧
        s'.fabric.tx.length = s₂.fabric.tx.length + hs.length ∧
        ∀ h, homeOf pa = some h → s₂.errc.pnote.get 0 h.index + hs.length < 2 ^ 64 →
          s'.errc.pnote.get 0 h.index = s₂.errc.pnote.get 0 h.index + hs.length) ∧
    ∀ src pa, exec (.poisonnoteReceive src pa) s = .next (s.postEvent .pf 9 poisonF 0 noTeam pa (src % 1024))

/-- R140, R410, R413 to R415, R418, R422: the commands of the mailbox and their STATUS: 0, 0x20 for an argument out of
range, 0x21 in the wrong state, 0x22 with no resource left. WCREATE makes a PENDING world, WDESTROY an absent one;
KBIND binds the lowest free key ID at its next epoch; KSCRUB destroys one, at once (log 76: the model's choice);
FGRANT grants frames to key ID 0 or 255 or to a BOUND one, zeroed, and refuses a frame that is beyond fitted
capacity or in motion, and, with 0x20, a misaligned address (log 80: the model's choice); PCMSET replaces a quire's
bits, the low 48 of its argument (log 80: the model's choice). The next request of the queue then runs. -/
def Obligations.SctCommands : Prop :=
  ∀ (s : State) (a b c : Nat), s.sct.busy = true →
    let ends (i : Instr) (status : Nat) (f : Sct → Prop) : Prop :=
      ∃ s', exec i s = .next s' ∧ s'.sct.busy = !s.sct.queue.isEmpty ∧ s'.sct.queue = s.sct.queue.tail ∧ s'.sct.status = status ∧ f s'.sct
    let refuses (i : Instr) (status : Nat) : Prop := ends i status fun x => x.worlds = s.sct.worlds ∧ x.keys = s.sct.keys ∧ x.pcm = s.sct.pcm
    let key (i : Nat) : KeySt := s.sct.keys.get .free i
    (s.sct.stage = 0 →
      (a < 1 ∨ 254 < a → refuses (.wcreate a) 0x20) ∧
      (1 ≤ a → a ≤ 254 → (s.sct.worlds.get none a).isSome = true → refuses (.wcreate a) 0x21) ∧
      (1 ≤ a → a ≤ 254 → s.sct.worlds.get none a = none → ends (.wcreate a) 0 fun x =>
        (∃ w, x.worlds.get none a = some w ∧ w.active = false) ∧ ∀ i, i ≠ a → x.worlds.get none i = s.sct.worlds.get none i) ∧
      (s.worldUsed a = true → refuses (.wdestroy a) 0x21) ∧
      (s.worldUsed a = false → ends (.wdestroy a) 0 fun x => x.worlds.get none a = none) ∧
      ((∀ w, s.sct.worlds.get none a = some w → w.active = false) → refuses (.kbind a) 0x21) ∧
      (∀ w, s.sct.worlds.get none a = some w → w.active = true →
        ((∀ i, 1 ≤ i → i ≤ 254 → key i ≠ .free) → refuses (.kbind a) 0x22) ∧
        ∀ i, 1 ≤ i → i ≤ 254 → key i = .free → (∀ j, 1 ≤ j → j < i → key j ≠ .free) →
          ends (.kbind a) (i * 256) fun x => x.keys.get .free i = .bound a ((s.sct.epochs.get 0 i + 1) % 256)) ∧
      ((∀ w e, key a ≠ .bound w e) → refuses (.kscrub a) 0x21) ∧
      (∀ w e, key a = .bound w e → ∃ s', exec (.kscrub a) s = .next s' ∧ s'.sct.keys.get .free a = .scrubbed ∧ s'.sct.stage = 1) ∧
      ((∀ w e, key c ≠ .bound w e) → c ≠ 0 → c ≠ 255 → refuses (.fgrant a b c) 0x21) ∧
      (c = 0 ∨ c = 255 ∨ (∃ w e, key c = .bound w e) →
        (a % 65536 ≠ 0 ∨ b < 1 ∨ 2 ^ 20 < b ∨ (∃ n, n < b ∧ s.cannotGrant (a / 65536 + n) = true) → refuses (.fgrant a b c) 0x20) ∧
        (a % 65536 = 0 → 1 ≤ b → b ≤ 2 ^ 20 → (∀ n, n < b → s.cannotGrant (a / 65536 + n) = false) →
          ∃ s', exec (.fgrant a b c) s = .next s' ∧ s'.sct.stage = 1 ∧ s'.sct.busy = true ∧ s'.mem = s.mem ∧
            (.tick (s.tick + 800), .fgrant a b c) ∈ s'.agenda)) ∧
      (63 < a → refuses (.pcmset a b) 0x20) ∧
      (a ≤ 63 → s.checkedOf a = [] → s.combining a s.now = false → ends (.pcmset a b) 0 fun x => x.pcm.get 0 a = b % 2 ^ 48 ∧ ∀ q, q ≠ a → x.pcm.get 0 q = s.sct.pcm.get 0 q) ∧
      refuses (.sctBadCommand a) 0x20) ∧
    (s.sct.stage = 1 → ends (.kscrub a) 0 fun x => x.keys = s.sct.keys) ∧
    (s.sct.stage ≠ 0 → b ≤ s.sct.stage → ∃ s', exec (.fgrant a b c) s = .next s' ∧ s'.sct.busy = !s.sct.queue.isEmpty ∧ s'.sct.status = 0 ∧
      s'.mem.tags.get none (a / 65536 + s.sct.stage - 1) = some c ∧
      ∀ pa, s'.byteAt pa = if pa / 65536 = a / 65536 + s.sct.stage - 1 then 0#8 else s.byteAt pa)

/-- R427, R428: MOOR begins a mooring with a peer, which has 10 ms; a MOOR1 that passes its checks, blocks 1 to 4 equal
to this package's among them, is answered; a good MOOR2 derives the secret, confirms the transcript by its HMAC in
MOOR3, and succeeds; a MOOR3 succeeds if its HMAC is the one the transcript gives. A success replaces the link keys
and restarts every lane; a second mooring succeeds only once no message to the peer is unacknowledged. A message
that fails its checks, or a time that is over, ends it where it stood before. That a MOOR1 which crosses an own
mooring is dropped, and where MOOR2 or MOOR3 waits, is log 65: the model's choice. -/
def Obligations.MooringSteps : Prop :=
  ∀ (s : State) (p : Nat) (m : MoorMsg),
    let x := s.mooring p
    let leads (i : Instr) (f : Mooring → Prop) : Prop := ∃ s', exec i s = .next s' ∧ f (s'.mooring p)
    let before : Nat := if x.up = true then 3 else 0
    let waits : Prop := x.up = true ∧ s.unacked p = true
    let good : Prop := m.checksPass = true ∧ moorBlocksOf m = [1, 2, 3, 4].flatMap fun i => hashBytes (s.measurement i)
    let succeeds (i : Instr) (ms t : BitVec 256) : Prop := ∃ s', exec i s = .next s' ∧ (s'.mooring p).up = true ∧ (s'.mooring p).phase = 3 ∧
      (s'.mooring p).linkMs = ms ∧ (s'.mooring p).linkT = t ∧ ∀ lane rsp, s'.fabric.txLane (p, lane, rsp) = {} ∧ s'.fabric.rxLane (p, lane, rsp) = {}
    let confirms (i : Instr) (ms t : BitVec 256) : Prop := ∃ s', exec i s = .next s' ∧
      Out.moor p 3 { peer := s.fabric.mypkg, keyBytes := (hmacSha256 (kdf ms "CONF" []) (hashBytes t)).toNat } ∈ s'.outbox
    let ms := kdf (kemSecret x.pair (bytesOf 1568 m.keyBytes)) "MOOR"
      (bytesOf 32 x.nonce.toNat ++ bytesOf 32 m.nonce ++ bigBytes 2 s.fabric.mypkg ++ bigBytes 2 p)
    let t := sha256 (x.one ++ moorBytes m)
    (s.sct.busy = true → s.sct.stage = 0 →
      ((p = s.fabric.mypkg ∨ 1024 ≤ p) → ∃ s', exec (.moor p) s = .next s' ∧ s'.sct.busy = !s.sct.queue.isEmpty ∧ s'.sct.status = 0x20) ∧
      (p ≠ s.fabric.mypkg → p < 1024 → ¬ waits →
        leads (.moor p) fun y => y.phase = 1 ∧ y.initiator = true ∧ y.deadline = s.tick + 1000000 ∧ y.up = x.up) ∧
      (p ≠ s.fabric.mypkg → p < 1024 → waits → leads (.moor p) fun y => y = x)) ∧
    (m.peer = p → p < 1024 →
      (x.phase ∈ [1, 4, 5] → exec (.moor1 m) s = .next s) ∧
      (x.phase ∉ [1, 4, 5] →
        (good → leads (.moor1 m) fun y => y.phase = 2 ∧ y.initiator = false ∧ y.deadline = s.tick + 1000000 ∧ y.up = x.up) ∧
        (¬ good → leads (.moor1 m) fun y => y.up = x.up ∧ y.phase = before))) ∧
    (m.peer = p → x.phase = 1 →
      (good → waits → leads (.moor2 m) fun y => y.up = true ∧ y.phase = 4 ∧ y.linkMs = x.linkMs ∧ y.linkT = x.linkT) ∧
      (good → ¬ waits → succeeds (.moor2 m) ms t ∧ confirms (.moor2 m) ms t) ∧
      (¬ good → leads (.moor2 m) fun y => y.up = x.up ∧ y.phase = before)) ∧
    (m.peer = p → x.phase = 4 →
      (waits → leads (.moor2 m) fun y => y.up = true ∧ y.phase = 4 ∧ y.linkMs = x.linkMs ∧ y.linkT = x.linkT) ∧
      (¬ waits → succeeds (.moor2 m) x.ms x.transcript ∧ confirms (.moor2 m) x.ms x.transcript)) ∧
    (m.peer = p → x.phase = 2 ∨ x.phase = 5 →
      let agrees : Prop := m.keyBytes = (hmacSha256 (kdf x.ms "CONF" []) (hashBytes x.transcript)).toNat
      (agrees ∨ x.phase = 5 →
        (waits → leads (.moor3 m) fun y => y.up = true ∧ y.phase = 5 ∧ y.linkMs = x.linkMs ∧ y.linkT = x.linkT) ∧
        (¬ waits → succeeds (.moor3 m) x.ms x.transcript)) ∧
      (¬ agrees → x.phase = 2 → leads (.moor3 m) fun y => y.up = x.up ∧ y.phase = before)) ∧
    ((x.phase = 1 ∨ x.phase = 2) → x.deadline ≤ s.tick → leads (.moorTimeout p) fun y => y.up = x.up ∧ y.phase = before)

/-- R413, R425, R426, R438: what the part answers to each SPDM request, in the layouts of the standard, which the model
takes from outside the manual (log 66), and what a signature covers: the messages before it. A halted part answers
GET_MEASUREMENTS alone. Of the state only the transcripts and the count of random draws change, but for a SETWK with
a good body: its world becomes ACTIVE with the keys and signers it carries. -/
def Obligations.SpdmForms : Prop :=
  ∀ (s : State) (fn : Nat), fn < 64 → (fn = 0 ∨ 5 ≤ s.power.stage) →
    let l := s.sct.spdm.get {} fn
    let spoke (i : Instr) (m : List Byte) (g : SpdmLog) (p : State → Prop) : Prop := ∃ s', exec i s = .next s' ∧
      s'.outbox = s.outbox ++ [.spdm fn (field m 1 1) m] ∧ s'.sct.spdm.get {} fn = g ∧ s'.tiles = s.tiles ∧ s'.mem = s.mem ∧ s'.agenda = s.agenda ∧ p s'
    let gives (i : Instr) (m : List Byte) (g : SpdmLog) : Prop := spoke i m g fun s' => s'.sct.worlds = s.sct.worlds ∧ s'.sct.keys = s.sct.keys
    let error (code data : Nat) : List Byte := [0x13#8, 0x7F#8, BitVec.ofNat 8 code, BitVec.ofNat 8 data]
    let fresh := { l with meas := [] }
    let chain := Config.certChain
    let hash := hashBytes (sha256 chain)
    let mine := bytesOf 32 (Config.freeRandom s.fresh).toNat
    (∀ r : SpdmReq, ∀ y z body ask, r.fn = fn → s.halted = true → ∀ i ∈ [Instr.getVersion fn, .getCapabilities r, .negotiateAlgorithms r, .getDigests fn,
      .getCertificate fn 0 y z, .challenge fn y ask, .setwk fn body, .spdmUnsupported fn y], exec i s = .next s) ∧
    (s.halted = false →
      (let m := [0x10#8, 0x04#8, 0#8, 0#8, 0#8, 1#8, 0#8, 0x13#8]
       gives (.getVersion fn) m { vca := [0x10#8, 0x84#8, 0#8, 0#8] ++ m }) ∧
      (∀ r : SpdmReq, r.fn = fn →
        (let m := [0x13#8, 0x61#8, 0#8, 0#8, 0#8] ++ bytesOf 1 Config.spdmTimeout ++ bytesOf 2 0 ++ bytesOf 4 0x16 ++ bytesOf 4 Config.spdmSize ++
           bytesOf 4 Config.spdmSize
         gives (.getCapabilities r) m { fresh with vca := l.vca ++ r.bytes ++ m }) ∧
        gives (.negotiateAlgorithms r) (algorithms r.bytes) { fresh with vca := l.vca ++ r.bytes ++ algorithms r.bytes } ∧
        (field r.bytes 6 1 % 2 = 1 → field r.bytes 12 4 % 2 = 1 → (offeredAlgs r.bytes).contains (Config.spdmAlgorithm % 2 ^ 32) = true →
          algorithms r.bytes = [0x13#8, 0x63#8, 0#8, 0#8, 40#8, 0#8, 1#8, 0#8] ++ bytesOf 4 2 ++ bytesOf 4 0 ++ bytesOf 4 1 ++ bytesOf 12 0 ++
            [1#8, 0#8, 0#8, 0#8] ++ bytesOf 4 (Config.spdmAlgorithm % 2 ^ 32))) ∧
      (let m := [0x13#8, 0x01#8, 1#8, 1#8] ++ hash
       gives (.getDigests fn) m { fresh with certs := l.certs ++ [0x13#8, 0x81#8, 0#8, 0#8] ++ m }) ∧
      (∀ slot off len, (slot ≠ 0 ∨ chain.length ≤ off → gives (.getCertificate fn slot off len) (error 1 0) fresh) ∧
        (slot = 0 → off < chain.length →
          let n := min len (chain.length - off)
          let m := [0x13#8, 0x02#8, 0#8, 0#8] ++ bytesOf 2 n ++ bytesOf 2 (chain.length - off - n) ++ (chain.drop off).take n
          gives (.getCertificate fn slot off len) m
            { fresh with certs := l.certs ++ ([0x13#8, 0x82#8, 0#8, 0#8] ++ bytesOf 2 off ++ bytesOf 2 len) ++ m })) ∧
      (∀ slot (ask : SpdmAsk), (slot ≠ 0 ∨ ask.kind ∉ [0, 1, 255] → gives (.challenge fn slot ask) (error 1 0) fresh) ∧
        (slot = 0 → ask.kind ∈ [0, 1, 255] →
          let req := [0x13#8, 0x83#8, 0#8, BitVec.ofNat 8 ask.kind] ++ bytesOf 32 ask.nonce ++ bytesOf 8 ask.context
          let m := [0x13#8, 0x03#8, 0#8, 1#8] ++ hash ++ mine ++ (if ask.kind = 0 then [] else hashBytes (sha256 (s.spdmBlocks fn s.measured))) ++
            bytesOf 2 0 ++ bytesOf 8 ask.context
          gives (.challenge fn slot ask)
            (m ++ Config.slhSign s.aliasKey (spdmSigned "responder-challenge_auth signing" (l.vca ++ l.certs ++ req ++ m))) { fresh with certs := [] })) ∧
      (∀ x, gives (.spdmUnsupported fn x) (error 7 x) fresh) ∧
      ∀ body, (s.setwkWorld body = none → gives (.setwk fn body) (error 1 0) fresh) ∧
        ∀ w k, s.setwkWorld body = some (w, k) → k.active = true ∧
          spoke (.setwk fn body) ([0x13#8, 0x7E#8, 0#8, 0#8] ++ Config.spdmVendor ++ bytesOf 2 0) fresh fun s' => s'.sct.worlds.get none w = some k ∧
            ∀ v, v ≠ w → s'.sct.worlds.get none v = s.sct.worlds.get none v) ∧
    ∀ x (ask : SpdmAsk),
      (x ∉ s.measured → x ≠ 0 → x ≠ 255 → ∃ s', exec (.getMeasurements fn x ask) s = .next s' ∧ s'.outbox = s.outbox ++ [.spdm fn 0x7F (error 1 0)]) ∧
      (x ∈ s.measured ∨ x = 0 → x < 255 →
        let block := s.block fn x
        let record := if x = 0 then [] else [BitVec.ofNat 8 x, 1#8] ++ bytesOf 2 (3 + block.length) ++
          [if x = 1 then 0#8 else if x ≤ 3 then 1#8 else if x = 4 then 2#8 else 0x83#8] ++ bytesOf 2 block.length ++ block
        let m := [0x13#8, 0x60#8, if x = 0 then BitVec.ofNat 8 s.measured.length else 0#8, 0#8, if x = 0 then 0#8 else 1#8] ++
          bytesOf 3 record.length ++ record ++ mine ++ bytesOf 2 0 ++ bytesOf 8 ask.context
        let all := l.meas ++ ([0x13#8, 0xE0#8, BitVec.ofNat 8 ask.kind, BitVec.ofNat 8 x] ++
          (if ask.kind % 2 = 1 then bytesOf 32 ask.nonce ++ bytesOf 1 ask.slot else []) ++ bytesOf 8 ask.context) ++ m
        (ask.kind % 2 = 0 → gives (.getMeasurements fn x ask) m { l with meas := all }) ∧
        (ask.kind % 2 = 1 → ask.slot = 0 → gives (.getMeasurements fn x ask)
          (m ++ Config.slhSign s.aliasKey (spdmSigned "responder-measurements signing" (l.vca ++ all))) { l with meas := [] }))

/-- R433, R439: the states of an interface: a LOCK locks an unlocked one, a START runs a locked one whose IDE stream
keys are set, a STOP or an FLR stops its VD and unlocks it once its tiles have drained, which a STOP is answered for
and an FLR is not; an error event stops one that is locked or runs; a report and a request out of place change no
state. -/
def Obligations.TdispForms : Prop :=
  ∀ (s : State) (n : Nat), 1 ≤ n → n < 64 → 5 ≤ s.power.stage →
    let f := s.vf n
    let leads (i : Instr) (p : Tdisp → Prop) : Prop := ∃ s', exec i s = .next s' ∧ p (s'.vf n).tdisp ∧ ∀ k, k ≠ n → s'.vf k = s.vf k
    (f.tdisp = .unlocked → f.stopping = false → leads (.lockInterfaceRequest n) (· = .locked)) ∧
    ((f.tdisp ≠ .unlocked ∨ f.stopping = true) → leads (.lockInterfaceRequest n) (· = f.tdisp)) ∧
    (f.tdisp = .locked → f.stopping = false → leads (.startInterfaceRequest n) fun t =>
      t = if (Config.freeWord s.fresh).getLsbD 0 = true then .run else .locked) ∧
    ((f.tdisp ≠ .locked ∨ f.stopping = true) → leads (.startInterfaceRequest n) (· = f.tdisp)) ∧
    leads (.getDeviceInterfaceReport n) (· = f.tdisp) ∧
    (∀ i ∈ [Instr.stopInterfaceRequest n, .vfFlr n], ∃ s', exec i s = .next s' ∧
      ((s'.vf n).stopping = true ∨ (s'.vf n).stopping = false ∧ (s'.vf n).tdisp = .unlocked) ∧
      (f.stopping = false → ∀ v, s.vd? n = some v → ∃ w, s'.vd? n = some w ∧ w.st = if (s'.vf n).stopping = true then 3 else 1)) ∧
    (f.stopping = true → f.stopAt ≤ s.tick → s.tilesHeld n = 0 → ∃ s', exec (.stopInterfaceRequest n) s = .next s' ∧ (s'.vf n).tdisp = .unlocked ∧
      (s'.vf n).stopping = false ∧ (f.stopAsked = true → .tdisp n 0x07 [] ∈ s'.outbox)) ∧
    (f.stopping = true → s.tick < f.stopAt → ∃ s', exec (.stopInterfaceRequest n) s = .next s' ∧ s'.tiles = s.tiles ∧ s'.vds = s.vds ∧
      s'.outbox = s.outbox ∧ (s'.vf n).stopping = true ∧ (s'.vf n).stopAsked = true) ∧
    (f.stopping = true → (∀ l ∈ s.launches, l.vd = n → l.st ≠ .dumping) → exec (.vfFlr n) s = .next s) ∧
    (∀ i, f.stopping = false → f.stopAsked = false → s.vd? n = none → (∀ l ∈ s.launches, l.vd ≠ n) → s.tilesHeld n = 0 →
      i ∈ [Instr.stopInterfaceRequest n, .vfFlr n] →
      ∃ s', exec i s = .next s' ∧ s'.outbox = s.outbox ++ if i = .vfFlr n then [] else [.tdisp n 0x07 []]) ∧
    ((f.tdisp = .locked ∨ f.tdisp = .run) → ∃ s', exec (.tdispErrorEvent n) s = .next s' ∧ (s'.vf n).tdisp = .error)

/-- R432, R434 to R437, R444, R307, R430: a request on an aperture that translates performs after its translation and
the way to its home, in its turn: a read's bytes and an atomic's old value come back after the way from the home, a
posted write's bytes stand at its home; one to a peer becomes a message; an atomic of an unsupported form is
completed as such, and a request R432 refuses is counted. A channel's notify gives it an engine, or settles a RESYNC
in its entry; an engine whose chunk is due counts the bytes of its packet, which ends with the last or with a fault,
or writes DCONS of its channel. A due interrupt is sent once, or held where it is masked; a write to a register
takes effect, and one to a register not listed, or to a VF's before stage 5, does nothing. -/
def Obligations.HostAccess : Prop :=
  ∀ (s : State) (n : Nat),
    (∀ r : ApReq, 1 ≤ r.vf → r.vf < 64 → 5 ≤ s.power.stage →
      let dropped (i : Instr) : Prop := ∃ s', exec i s = .next s' ∧ s.SameBytes s' ∧ (s'.vf r.vf).apdrop = min ((s.vf r.vf).apdrop + 1) (2 ^ 64 - 1)
      let supported : Prop := (r.len = 4 ∨ r.len = 8) ∧ r.off % r.len = 0 ∧ r.fn ≤ 2
      (∃ s', exec (.apertureRead r) s = .next s') ∧ (∃ s', exec (.apertureWrite r) s = .next s') ∧ (∃ s', exec (.apertureAtomic r) s = .next s') ∧
      (¬ supported → exec (.apertureAtomic r) s = .next { s with outbox := s.outbox ++ [.apRefused r.vf r.tag] }) ∧
      (r.arrived = false → r.data ≠ [] → exec (.apertureRead r) s = .next { s with outbox := s.outbox ++ [.apReply r.vf r.tag r.data (r.fn = 1)] }) ∧
      ((s.vd? r.vf = none ∨ 2 ^ 40 < r.off + r.len) → r.arrived = true → dropped (.apertureRead r) ∧
        (r.len = r.data.length → dropped (.apertureWrite r)) ∧ (supported → dropped (.apertureAtomic r))) ∧
      ∀ u s₁ ps add, s.vd? r.vf = some u → r.off + r.len ≤ 2 ^ 40 →
        let v : Vd := { u with home := 0, acting := 0 }
        let later (i j : Instr) (p : State → Nat → Prop) : Prop := ∃ s' due, exec i s = .next s' ∧ (.cycle due, j) ∈ s'.agenda ∧ (s.vf r.vf).apWrite ≤ due ∧
          (ps ≠ [] → s.now + add ≤ due) ∧ p s' due
        (r.arrived = true →
          (s.apertureParts r v false false = (s₁, some (ps, add)) →
            later (.apertureRead r) (.apertureRead { r with arrived := false, data := [] }) fun _ _ => True) ∧
          (r.len = r.data.length → s.apertureParts r v false true = (s₁, some (ps, add)) →
            later (.apertureWrite r) (.apertureWrite { r with arrived := false }) fun s' due => (s'.vf r.vf).apWrite = due) ∧
          (supported → s.apertureParts r v true false = (s₁, some (ps, add)) →
            later (.apertureAtomic r) (.apertureAtomic { r with arrived := false }) fun _ _ => True)) ∧
        (r.arrived = false →
          let sent (i : Instr) (op : Nat) (k : MsgOp) : Prop := ∀ pkg pa key, peerRun ps = some (pkg, pa, key) → s₁.reachable pkg = true →
            ∃ s' x, exec i s = .next s' ∧ x ∈ s'.fabric.tx ∧ x.dst = pkg ∧ x.rsp = false ∧ x.msg.op = k ∧ x.msg.pa = pa ∧ x.msg.keyId = key ∧
              x.msg.len = r.len ∧ x.waiter = some (.host r op)
          (∀ s₀, s.takeTurn r 0 = (s₀, true) → r.data = [] → s₀.apertureParts r v false false = (s₁, some (ps, add)) →
            sent (.apertureRead r) 0 .readReq ∧
            ∀ p pa at_ s₂ bs bad, ps = [(p, .mem pa, at_)] → s₁.homeCheck pa at_.keyId = none → bs ≠ [] →
              s₁.homeRead true pa p.len at_.keyId = (s₂, .ok (bs, bad)) → ∃ s', exec (.apertureRead r) s = .next s' ∧
                (.cycle (s₂.now + returnLat 0 0 (.mem pa) .load), .apertureRead { r with data := bs, fn := if bad = true then 1 else 0 }) ∈ s'.agenda) ∧
          (∀ s₀, s.takeTurn r 2 = (s₀, true) → supported → s₀.apertureParts r v true false = (s₁, some (ps, add)) →
            sent (.apertureAtomic r) 2 .atomic ∧
            ∀ p pa at_ s₂ old, ps = [(p, .mem pa, at_)] → s₁.homeCheck pa at_.keyId = none →
              s₁.homeAtomic true true pa r.len at_.keyId (apertureOp r) (natOf r.data) = (s₂, .ok old) → ∃ s', exec (.apertureAtomic r) s = .next s' ∧
                (.cycle (s₂.now + returnLat 0 0 (.mem pa) .atomic), .apertureRead { r with data := bytesOf r.len old, fn := 0 }) ∈ s'.agenda) ∧
          ∀ s₀, s.takeTurn r 1 = (s₀, true) → r.len = r.data.length → s₀.apertureParts r v false true = (s₁, some (ps, add)) →
            sent (.apertureWrite r) 1 .write ∧
            ∀ p pa at_, ps = [(p, .mem pa, at_)] → p.addr = r.off → p.len = r.len → s₁.mig = [] → s₁.homeCheck pa at_.keyId = none →
              (s₁.mem.ctrs.get {} (pa / 2048)).minors.get 0 (lineOf pa % 32) < 127 → ∃ s', exec (.apertureWrite r) s = .next s' ∧
                ∀ a, s'.byteAt a = if pa ≤ a ∧ a < pa + r.len then r.data.getD (a - pa) 0#8 else s₁.byteAt a)) ∧
    (∀ c, 1 ≤ n → n < 64 → c < 16 → (∃ s', exec (.cnotify n c) s = .next s') ∧
      (s.vd? n = none ∨ (s.vf n).chancnt ≤ c → exec (.cnotify n c) s = .next s) ∧
      ∀ v s₁ h pa, s.vd? n = some v → v.vd = n → c < (s.vf n).chancnt → s.readChan v c = (s₁, some h) →
        let entry (p : State → Prop) : Prop := quietLine s₁ v ((s₁.vf n).chanAt c) pa → ∃ s', exec (.cnotify n c) s = .next s' ∧ p s'
        let dcons (s' : State) : Prop := ∀ k, k < 64 → s'.byteAt (pa + k) =
          if k = 0x2B then 1#8 else if 0x10 ≤ k ∧ k < 0x18 then (bytesOf 8 h.hcommit).getD (k - 0x10) 0#8 else s₁.byteAt (pa + k)
        (h.st = 1 →
          (s₁.bulks.any (fun b => b.2.chan = some (n, c)) = true ∨ (s₁.vf n).chans.contains c = true → exec (.cnotify n c) s = .next s₁) ∧
          (s₁.bulks.any (fun b => b.2.chan = some (n, c)) = false → (s₁.vf n).chans.contains c = false →
            (s₁.idleEngine v.home = none → ∃ s', exec (.cnotify n c) s = .next s' ∧ (s'.vf n).chans = (s₁.vf n).chans ++ [c]) ∧
            ∀ e s₂ g, s₁.idleEngine v.home = some e → s₁.readChan v c = (s₂, some g) → g.st = 1 → 1 ≤ g.log2n → g.log2n ≤ 16 → g.chunk ≠ 0 →
              g.dcons < g.hprod → ∃ s', exec (.cnotify n c) s = .next s' ∧ (s'.bulk e).chan = some (n, c) ∧ (s'.bulk e).len = 64 * g.chunk ∧
                (s'.bulk e).src = g.src + 64 * g.chunk * (g.dcons % 2 ^ g.log2n) ∧ (s'.bulk e).dst = g.dst + 64 * g.chunk * (g.dcons % 2 ^ g.log2n) ∧
                (s'.bulk e).idx = g.dcons ∧ (s'.bulk e).dueAt = s₂.tick + (6 * (64 * g.chunk) + 4095) / 4096)) ∧
        (h.st = 2 → h.hcommit < h.dcons → entry fun s' => ∀ k, k < 64 → s'.byteAt (pa + k) = if k = 0x2B then 3#8 else s₁.byteAt (pa + k)) ∧
        (h.st = 2 → h.dcons ≤ h.hcommit → entry dcons)) ∧
    (∀ e, e < 128 → s.chunkDue e = true →
      ((s.bulk e).pkt.isSome = true → ∃ s', exec (.bulkChunkBoundary (e / 8) (e % 8)) s = .next s') ∧
      (∀ c, (s.bulk e).chan = some (n, c) → ∃ s', exec (.chunkCopy n c) s = .next s') ∧
      let b := s.bulk e
      let noneWaits (s : State) : Prop := ∀ v ∈ s.vds.filterMap Prod.snd, ∀ y ∈ v.jrnl, y.typ = 2 → y.st ≠ .accepted
      (∀ p v w x s₁ o, b.pkt = some p → s.pkt? p = some (v, x) → State.bulkRun (b.len + 1) s v e = (s₁, o) → s₁.pkt? p = some (w, x) → x.st = .started →
        noneWaits s₁ →
        let ended (r : Nat) : Prop := ∃ s', exec (.bulkChunkBoundary (e / 8) (e % 8)) s = .next s' ∧
          packetEnded s₁ s' p (if x.lost = true then dieResetReason else r)
        (∀ r, o = .fault r → ended r) ∧
        (o = .done → x.word 4 ≤ x.bytes + b.len → ended 0) ∧
        (o = .done → x.bytes + b.len < x.word 4 → ∃ s' w y, exec (.bulkChunkBoundary (e / 8) (e % 8)) s = .next s' ∧ s'.pkt? p = some (w, y) ∧
          y.st = .started ∧ y.bytes = x.bytes + b.len)) ∧
      ∀ c v s₁ pa, b.pkt = none → b.chan = some (n, c) → (∀ k, k < e → ¬ ((s.bulk k).chan = some (n, c) ∧ s.chunkDue k = true)) → s.vd? n = some v →
        v.vd = n → State.bulkRun (b.len + 1) s v e = (s₁, .done) → noneWaits s₁ → quietLine s₁ v ((s₁.vf n).chanAt c) pa →
        ∃ s', exec (.chunkCopy n c) s = .next s' ∧ ∀ k, k < 64 → s'.byteAt (pa + k) =
          if 0x10 ≤ k ∧ k < 0x18 then (bytesOf 8 (b.idx + 1)).getD (k - 0x10) 0#8 else s₁.byteAt (pa + k)) ∧
    (∀ k, n < 64 → k < (if n = 0 then 3 else 65) →
      let v := (s.vf n).vectors.get {} k
      (v.count ≠ 0 → (v.dueAt ≤ s.tick ∨ v.need ≤ v.count) →
        (s.vectorHeld n v = true → ∃ s', exec (.msixSend n k) s = .next s' ∧ s'.outbox = s.outbox ∧
          ((s'.vf n).vectors.get {} k).pending = true ∧ ((s'.vf n).vectors.get {} k).count = 0) ∧
        (s.vectorHeld n v = false → ∃ s', exec (.msixSend n k) s = .next s' ∧ s'.outbox = s.outbox ++ [.msix n k] ∧
          ((s'.vf n).vectors.get {} k).count = 0)) ∧
      (∃ s', exec (.msixUnmask n k) s = .next s' ∧ ((s'.vf n).vectors.get {} k).masked = false ∧
        (v.pending = false → s'.outbox = s.outbox) ∧
        (v.pending = true → (n = 0 ∨ (s.vf n).tdisp ≠ .error) → s'.outbox = s.outbox ++ [.msix n k] ∧
          ((s'.vf n).vectors.get {} k).pending = false))) ∧
    (∀ off v, n < 64 →
      let writes (p : State → Prop) : Prop := ∃ s', exec (.registerWrite n off v) s = .next s' ∧ p s'
      writes (fun _ => True) ∧ (n ≠ 0 → s.power.stage < 5 → exec (.registerWrite n off v) s = .next s) ∧
      (n ≠ 0 → 5 ≤ s.power.stage →
        (0x3018 ≤ off → exec (.registerWrite n off v) s = .next s) ∧
        (off < 0x200 → off % 8 = 0 → v.toNat % 4 = 0 → writes fun s' => (.cycle s.now, .notify n (off / 8)) ∈ s'.agenda) ∧
        (off < 0x200 → off % 8 = 0 → v.toNat % 4 = 1 → writes fun s' => (.cycle s.now, .refresh n (off / 8)) ∈ s'.agenda) ∧
        (0x200 ≤ off → off < 0x280 → off % 8 = 0 → writes fun s' => (.cycle s.now, .cnotify n ((off - 0x200) / 8)) ∈ s'.agenda) ∧
        (off = 0x3000 → writes fun s' => (s'.vf n).coal = BitVec.ofNat 64 (v.toNat % 2 ^ 24)) ∧
        (off = 0x3008 → v.toNat % 64 = 0 → writes fun s' => (s'.vf n).chanbase = v) ∧
        (off = 0x3010 → v.toNat % 32 ≤ 16 → writes fun s' => (s'.vf n).chancnt = v.toNat % 32)) ∧
      (n = 0 →
        (0x1000 ≤ off → off < 0x1040 → off % 8 = 0 → writes fun s' => s'.sct.mailbox.get 0#64 ((off - 0x1000) / 8) = v) ∧
        (off = 0x1100 → writes fun s' => (.cycle s.now, .vdcreate (v.toNat % 64) (v.toNat / 256 * 256)) ∈ s'.agenda) ∧
        (off = 0x1300 → writes fun s' => s'.power.pwrlim = max 1000000 (min 5200000 v.toNat)) ∧
        (off = 0x1318 → 90 ≤ v.toNat → v.toNat ≤ 115 → writes fun s' => s'.power.ttrip = v.toNat)))

/-- R297, R362, R378, R417: a die reset empties the die's tiles, TLB and walks and leaves other tiles; its end brings
the die back; a link that fails is remembered; a lost expander is no longer fitted. What else a reset leaves is said
where no team, VD or stack of the die is hit, and of a package that runs none. R11, R438 to R440: package reset
leaves the state after reset; the stages of bring-up pass in order, or one halts the part; a droop and the power
limit add stretch and take no cycle; the average power stays at or below PWRLIM, by at least one cycle of stretch
where it would not (log 88: the model's choice), and a die sensed at TTRIP or above resets the package. -/
def Obligations.ResetsAndPower : Prop :=
  (∀ (s : State) (d e : Nat), d < 16 →
     (s.launches = [] → s.vds = [] → s.mig = [] → (s.die d).resetting = false → (s.die d).held = false →
       ∃ s', exec (.dieReset d) s = .next s' ∧ (s'.die d).resetting = true ∧ (s'.die d).tlb = [] ∧ (s'.die d).walks = [] ∧
         ∀ t, s'.tile t = if t / 64 = d then {} else s.tile t) ∧
     ((s.die d).resetting = false → (s.die d).held = false → ∃ s', exec (.dieReset d) s = .next s' ∧ (s'.die d).resetting = true) ∧
     ((s.die d).resetting = false → (s.die d).held = false → stackOf? d = none → (∀ l ∈ s.launches, ∀ t ∈ l.tiles, t / 64 ≠ d) →
       (∀ e ∈ s.vds, ∀ v, e.2 = some v → v.home ≠ d) → ∃ s', exec (.dieReset d) s = .next s' ∧ (s'.die d).resetting = true ∧
         (s'.die d).tlb = [] ∧ (s'.die d).walks = [] ∧ s'.launches = s.launches ∧ s'.vds = s.vds ∧ s'.mem = s.mem ∧
         (∀ k, k / 2 = d → (s'.seq (.keeper k)).on = false) ∧ ∀ t, s'.tile t = if t / 64 = d then {} else s.tile t) ∧
     ((s.die d).resetting = true → ∃ s', exec (.dieResetComplete d) s = .next s' ∧ (s'.die d).resetting = false) ∧
     (e < 16 → dieEdges d e = 1 → (min d e, max d e) ∉ s.linksDown →
       ∃ s', exec (.linkFailure d e) s = .next s' ∧ s'.linksDown = s.linksDown ++ [(min d e, max d e)] ∧ s.SameBytes s') ∧
     ∃ s', exec (.cxlLinkLoss d) s = .next s' ∧ bitOf d s'.fitted.expanders = false) ∧
  (∀ (s : State),
     (∀ c, ∃ s', exec (.packageReset c) s = .next s' ∧ (∀ t, s'.tile t = {}) ∧ s'.launches = [] ∧ s'.vds = [] ∧ s'.now = 0 ∧ s'.power.stage = 1 ∧
       (∀ pa, s'.byteAt pa = 0#8) ∧ (∀ f, s'.mem.tags.get none f = none) ∧ s'.outbox = s.outbox) ∧
     (∀ r : BootResult, s.halted = false →
       let leads (n : Nat) : Prop := ∃ s', exec (.bringUpStage r) s = .next s' ∧ s'.power.stage = n
       let halts (n : Nat) : Prop := exec (.bringUpStage r) s = .next { s with power := { s.power with bootReason := n } }
       (s.power.stage = 1 → (r.ok = true → leads 2) ∧ (r.ok = false → halts 1)) ∧
       (s.power.stage = 2 → (r.ok = true → leads 3) ∧ (r.ok = false → halts 2)) ∧
       (s.power.stage = 3 → leads 4 ∧ ∀ d ∈ r.deadDies, d < 16 → ∃ s', exec (.bringUpStage r) s = .next s' ∧ (s'.die d).held = true) ∧
       (s.power.stage = 4 → (r.ok = false → halts 4) ∧ (∀ c, checkMicrocode r.image = .error c → halts 4) ∧
         ∀ i, checkMicrocode r.image = .ok i → r.ok = true → leads 5)) ∧
     (∀ d n, d < 16 → ∃ s', exec (.supplyDroop d n) s = .next s' ∧ (s'.die d).stretch = (s.die d).stretch + n ∧ s'.now = s.now ∧ s'.tiles = s.tiles ∧
       s.wall ≤ s'.wall) ∧
     ∀ p n, ∃ s', exec (.powerLimitControl p n) s = .next s' ∧ s'.power.pwr = min p s.power.pwrlim ∧ s'.now = s.now ∧ s'.tiles = s.tiles ∧
       (∀ d, d < 16 → (s'.die d).stretch = (s.die d).stretch + if p ≤ s.power.pwrlim then n else max 1 n) ∧
       ∀ d, d < 16 → 8 * s'.power.ttrip ≤ (s'.die d).temp → (.cycle s.now, .packageReset .temperature) ∈ s'.agenda)
end

