-- ==== Sys2Proof/Laws/NMap.lean ====
section
/-! SUPPORT. Laws of sparse storage: a read after a write, and that every operation keeps the canonical form. -/
namespace Sys2Proof.NMap
variable {α : Type}

theorem find?_insert_same (m : NMap α) (k : Nat) (v : α) : (m.insert k v).find? k = some v := by
  induction m with
  | nil => simp [insert, find?]
  | cons e m ih =>
    obtain ⟨j, w⟩ := e
    simp only [insert]
    split
    · simp [find?]
    · split
      · simp [find?]
      · simp [find?, *]

theorem find?_insert_ne (m : NMap α) {k i : Nat} (v : α) (h : i ≠ k) : (m.insert k v).find? i = m.find? i := by
  induction m with
  | nil => simp [insert, find?, Ne.symm h]
  | cons e m ih =>
    obtain ⟨j, w⟩ := e
    simp only [insert]
    split
    · simp [find?, Ne.symm h]
    · split
      · subst_vars; simp [find?, Ne.symm h]
      · simp [find?, ih]

theorem find?_erase_same (m : NMap α) (k : Nat) : (m.erase k).find? k = none := by
  induction m with
  | nil => rfl
  | cons e m ih =>
    obtain ⟨j, w⟩ := e
    by_cases h : j = k <;> simp_all [erase, find?]

theorem find?_erase_ne (m : NMap α) {k i : Nat} (h : i ≠ k) : (m.erase k).find? i = m.find? i := by
  induction m with
  | nil => rfl
  | cons e m ih =>
    obtain ⟨j, w⟩ := e
    by_cases hj : j = k
    · subst hj; simp_all [erase, find?, Ne.symm h]
    · by_cases hi : j = i <;> simp_all [erase, find?]

/-- An unlisted index reads as the default. -/
@[simp] theorem get_nil (d : α) (i : Nat) : NMap.get d ([] : NMap α) i = d := rfl

variable [DecidableEq α]

/-- What was written is read back. -/
@[simp] theorem get_set_same (d : α) (m : NMap α) (k : Nat) (v : α) : (m.set d k v).get d k = v := by
  unfold set get
  split
  · simp [find?_erase_same, *]
  · simp [find?_insert_same]

/-- A write leaves every other index alone. -/
@[simp] theorem get_set_ne (d : α) (m : NMap α) {k i : Nat} (v : α) (h : i ≠ k) : (m.set d k v).get d i = m.get d i := by
  unfold set get
  split
  · simp [find?_erase_ne m h]
  · simp [find?_insert_ne m v h]

theorem get_set (d : α) (m : NMap α) (k i : Nat) (v : α) : (m.set d k v).get d i = if i = k then v else m.get d i := by
  split
  · subst_vars; simp
  · simp [*]

/-! ## The canonical form -/

theorem wf_def (d : α) (m : NMap α) : m.wf d = true ↔ (m.map Prod.fst).Pairwise (· < ·) ∧ ∀ e ∈ m, e.2 ≠ d := by
  simp [wf]

theorem wf_filter (d : α) (m : NMap α) (p : Nat × α → Bool) (h : m.wf d = true) : NMap.wf d (m.filter p) = true := by
  rw [wf_def] at *
  exact ⟨h.1.sublist (List.Sublist.map _ List.filter_sublist), fun e he => h.2 e (List.mem_of_mem_filter he)⟩

theorem wf_erase (d : α) (m : NMap α) (k : Nat) (h : m.wf d = true) : (m.erase k).wf d = true := wf_filter d m _ h

theorem mem_insert (m : NMap α) (k : Nat) (v : α) (e : Nat × α) (h : e ∈ m.insert k v) : e = (k, v) ∨ e ∈ m := by
  induction m with
  | nil => simp_all [insert]
  | cons c m ih =>
    obtain ⟨j, w⟩ := c
    simp only [insert] at h
    split at h
    · simpa using h
    · split at h
      · simp at h; tauto
      · simp at h ⊢; tauto

theorem wf_insert (d : α) (m : NMap α) (k : Nat) (v : α) (hv : v ≠ d) (h : m.wf d = true) : (m.insert k v).wf d = true := by
  induction m with
  | nil => simp [insert, wf, hv]
  | cons c m ih =>
    obtain ⟨j, w⟩ := c
    rw [wf_def] at *
    simp only [List.map_cons, List.pairwise_cons, List.mem_map, List.mem_cons] at h
    have hi := (wf_def d _).1 (ih ⟨h.1.2, fun e he => h.2 e (.inr he)⟩)
    simp only [insert]
    split
    · rename_i hk
      refine ⟨?_, ?_⟩
      · simp only [List.map_cons, List.pairwise_cons, List.mem_cons, List.mem_map]
        refine ⟨?_, h.1.1, h.1.2⟩
        rintro a (rfl | ⟨e, he, rfl⟩)
        · exact hk
        · exact lt_trans hk (h.1.1 _ ⟨e, he, rfl⟩)
      · simp only [List.mem_cons]
        rintro e (rfl | rfl | he)
        · exact hv
        · exact h.2 _ (.inl rfl)
        · exact h.2 _ (.inr he)
    · split
      · subst_vars
        refine ⟨by simpa [List.pairwise_cons] using h.1, ?_⟩
        simp only [List.mem_cons]
        rintro e (rfl | he)
        · exact hv
        · exact h.2 _ (.inr he)
      · rename_i h1 h2
        refine ⟨?_, ?_⟩
        · simp only [List.map_cons, List.pairwise_cons, List.mem_map]
          refine ⟨?_, hi.1⟩
          rintro a ⟨e, he, rfl⟩
          rcases mem_insert m k v e he with rfl | he
          · simp only; omega
          · exact h.1.1 _ ⟨e, he, rfl⟩
        · simp only [List.mem_cons]
          rintro e (rfl | he)
          · exact h.2 _ (.inl rfl)
          · exact hi.2 e he

/-- Writing keeps the canonical form. -/
theorem wf_set (d : α) (m : NMap α) (k : Nat) (v : α) (h : m.wf d = true) : (m.set d k v).wf d = true := by
  unfold set
  split
  · exact wf_erase d m k h
  · exact wf_insert d m k v ‹_› h

omit [DecidableEq α] in
/-- Storage in which every listed index holds `v`. -/
theorem get_of_all (d v : α) {l : List Nat} {i : Nat} (h : i ∈ l) : get d (l.map fun j => (j, v)) i = v := by
  unfold get
  induction l with
  | nil => cases h
  | cons j l ih =>
    simp only [List.map_cons, find?]
    split
    · rfl
    · exact ih ((List.mem_cons.1 h).resolve_left fun e => ‹¬ j = i› e.symm)

end Sys2Proof.NMap
end

