-- ==== Sys2Proof/Laws/State.lean ====
section
/-! SUPPORT. What an update of the state leaves alone: one equation for each field of each update, and the reads of what
an update wrote. No later proof unfolds a record update. -/
namespace Sys2Proof.Machine
open Sys2Proof
variable (s : State)

/-! ## `State.setTile` -/

@[simp] theorem State.setTile_now (t : Nat) (x : Tile) : (s.setTile t x).now = s.now := rfl
@[simp] theorem State.setTile_wall (t : Nat) (x : Tile) : (s.setTile t x).wall = s.wall := rfl
@[simp] theorem State.setTile_cur (t : Nat) (x : Tile) : (s.setTile t x).cur = s.cur := rfl
@[simp] theorem State.setTile_turns (t : Nat) (x : Tile) : (s.setTile t x).turns = s.turns := rfl
@[simp] theorem State.setTile_agenda (t : Nat) (x : Tile) : (s.setTile t x).agenda = s.agenda := rfl
@[simp] theorem State.setTile_fresh (t : Nat) (x : Tile) : (s.setTile t x).fresh = s.fresh := rfl
@[simp] theorem State.setTile_nextId (t : Nat) (x : Tile) : (s.setTile t x).nextId = s.nextId := rfl
@[simp] theorem State.setTile_outbox (t : Nat) (x : Tile) : (s.setTile t x).outbox = s.outbox := rfl
@[simp] theorem State.setTile_keepers (t : Nat) (x : Tile) : (s.setTile t x).keepers = s.keepers := rfl
@[simp] theorem State.setTile_kblock (t : Nat) (x : Tile) : (s.setTile t x).kblock = s.kblock := rfl
@[simp] theorem State.setTile_mem (t : Nat) (x : Tile) : (s.setTile t x).mem = s.mem := rfl
@[simp] theorem State.setTile_errc (t : Nat) (x : Tile) : (s.setTile t x).errc = s.errc := rfl
@[simp] theorem State.setTile_dies (t : Nat) (x : Tile) : (s.setTile t x).dies = s.dies := rfl
@[simp] theorem State.setTile_hostReqs (t : Nat) (x : Tile) : (s.setTile t x).hostReqs = s.hostReqs := rfl
@[simp] theorem State.setTile_kills (t : Nat) (x : Tile) : (s.setTile t x).kills = s.kills := rfl
@[simp] theorem State.setTile_mig (t : Nat) (x : Tile) : (s.setTile t x).mig = s.mig := rfl
@[simp] theorem State.setTile_migWait (t : Nat) (x : Tile) : (s.setTile t x).migWait = s.migWait := rfl
@[simp] theorem State.setTile_rots (t : Nat) (x : Tile) : (s.setTile t x).rots = s.rots := rfl
@[simp] theorem State.setTile_vds (t : Nat) (x : Tile) : (s.setTile t x).vds = s.vds := rfl
@[simp] theorem State.setTile_launches (t : Nat) (x : Tile) : (s.setTile t x).launches = s.launches := rfl
@[simp] theorem State.setTile_kfaults (t : Nat) (x : Tile) : (s.setTile t x).kfaults = s.kfaults := rfl
@[simp] theorem State.setTile_bulks (t : Nat) (x : Tile) : (s.setTile t x).bulks = s.bulks := rfl
@[simp] theorem State.setTile_fabric (t : Nat) (x : Tile) : (s.setTile t x).fabric = s.fabric := rfl
@[simp] theorem State.setTile_sct (t : Nat) (x : Tile) : (s.setTile t x).sct = s.sct := rfl
@[simp] theorem State.setTile_vfs (t : Nat) (x : Tile) : (s.setTile t x).vfs = s.vfs := rfl
@[simp] theorem State.setTile_power (t : Nat) (x : Tile) : (s.setTile t x).power = s.power := rfl
@[simp] theorem State.setTile_fitted (t : Nat) (x : Tile) : (s.setTile t x).fitted = s.fitted := rfl
@[simp] theorem State.setTile_pfEvq (t : Nat) (x : Tile) : (s.setTile t x).pfEvq = s.pfEvq := rfl
@[simp] theorem State.setTile_linksDown (t : Nat) (x : Tile) : (s.setTile t x).linksDown = s.linksDown := rfl

/-! ## `State.modTile` -/

@[simp] theorem State.modTile_now (t : Nat) (f : Tile → Tile) : (s.modTile t f).now = s.now := rfl
@[simp] theorem State.modTile_wall (t : Nat) (f : Tile → Tile) : (s.modTile t f).wall = s.wall := rfl
@[simp] theorem State.modTile_cur (t : Nat) (f : Tile → Tile) : (s.modTile t f).cur = s.cur := rfl
@[simp] theorem State.modTile_turns (t : Nat) (f : Tile → Tile) : (s.modTile t f).turns = s.turns := rfl
@[simp] theorem State.modTile_agenda (t : Nat) (f : Tile → Tile) : (s.modTile t f).agenda = s.agenda := rfl
@[simp] theorem State.modTile_fresh (t : Nat) (f : Tile → Tile) : (s.modTile t f).fresh = s.fresh := rfl
@[simp] theorem State.modTile_nextId (t : Nat) (f : Tile → Tile) : (s.modTile t f).nextId = s.nextId := rfl
@[simp] theorem State.modTile_outbox (t : Nat) (f : Tile → Tile) : (s.modTile t f).outbox = s.outbox := rfl
@[simp] theorem State.modTile_keepers (t : Nat) (f : Tile → Tile) : (s.modTile t f).keepers = s.keepers := rfl
@[simp] theorem State.modTile_kblock (t : Nat) (f : Tile → Tile) : (s.modTile t f).kblock = s.kblock := rfl
@[simp] theorem State.modTile_mem (t : Nat) (f : Tile → Tile) : (s.modTile t f).mem = s.mem := rfl
@[simp] theorem State.modTile_errc (t : Nat) (f : Tile → Tile) : (s.modTile t f).errc = s.errc := rfl
@[simp] theorem State.modTile_dies (t : Nat) (f : Tile → Tile) : (s.modTile t f).dies = s.dies := rfl
@[simp] theorem State.modTile_hostReqs (t : Nat) (f : Tile → Tile) : (s.modTile t f).hostReqs = s.hostReqs := rfl
@[simp] theorem State.modTile_kills (t : Nat) (f : Tile → Tile) : (s.modTile t f).kills = s.kills := rfl
@[simp] theorem State.modTile_mig (t : Nat) (f : Tile → Tile) : (s.modTile t f).mig = s.mig := rfl
@[simp] theorem State.modTile_migWait (t : Nat) (f : Tile → Tile) : (s.modTile t f).migWait = s.migWait := rfl
@[simp] theorem State.modTile_rots (t : Nat) (f : Tile → Tile) : (s.modTile t f).rots = s.rots := rfl
@[simp] theorem State.modTile_vds (t : Nat) (f : Tile → Tile) : (s.modTile t f).vds = s.vds := rfl
@[simp] theorem State.modTile_launches (t : Nat) (f : Tile → Tile) : (s.modTile t f).launches = s.launches := rfl
@[simp] theorem State.modTile_kfaults (t : Nat) (f : Tile → Tile) : (s.modTile t f).kfaults = s.kfaults := rfl
@[simp] theorem State.modTile_bulks (t : Nat) (f : Tile → Tile) : (s.modTile t f).bulks = s.bulks := rfl
@[simp] theorem State.modTile_fabric (t : Nat) (f : Tile → Tile) : (s.modTile t f).fabric = s.fabric := rfl
@[simp] theorem State.modTile_sct (t : Nat) (f : Tile → Tile) : (s.modTile t f).sct = s.sct := rfl
@[simp] theorem State.modTile_vfs (t : Nat) (f : Tile → Tile) : (s.modTile t f).vfs = s.vfs := rfl
@[simp] theorem State.modTile_power (t : Nat) (f : Tile → Tile) : (s.modTile t f).power = s.power := rfl
@[simp] theorem State.modTile_fitted (t : Nat) (f : Tile → Tile) : (s.modTile t f).fitted = s.fitted := rfl
@[simp] theorem State.modTile_pfEvq (t : Nat) (f : Tile → Tile) : (s.modTile t f).pfEvq = s.pfEvq := rfl
@[simp] theorem State.modTile_linksDown (t : Nat) (f : Tile → Tile) : (s.modTile t f).linksDown = s.linksDown := rfl

/-! ## `State.setSeq` -/

@[simp] theorem State.setSeq_now (q : SeqId) (x : Seq) : (s.setSeq q x).now = s.now := by cases q <;> rfl
@[simp] theorem State.setSeq_wall (q : SeqId) (x : Seq) : (s.setSeq q x).wall = s.wall := by cases q <;> rfl
@[simp] theorem State.setSeq_cur (q : SeqId) (x : Seq) : (s.setSeq q x).cur = s.cur := by cases q <;> rfl
@[simp] theorem State.setSeq_turns (q : SeqId) (x : Seq) : (s.setSeq q x).turns = s.turns := by cases q <;> rfl
@[simp] theorem State.setSeq_agenda (q : SeqId) (x : Seq) : (s.setSeq q x).agenda = s.agenda := by cases q <;> rfl
@[simp] theorem State.setSeq_fresh (q : SeqId) (x : Seq) : (s.setSeq q x).fresh = s.fresh := by cases q <;> rfl
@[simp] theorem State.setSeq_nextId (q : SeqId) (x : Seq) : (s.setSeq q x).nextId = s.nextId := by cases q <;> rfl
@[simp] theorem State.setSeq_outbox (q : SeqId) (x : Seq) : (s.setSeq q x).outbox = s.outbox := by cases q <;> rfl
@[simp] theorem State.setSeq_kblock (q : SeqId) (x : Seq) : (s.setSeq q x).kblock = s.kblock := by cases q <;> rfl
@[simp] theorem State.setSeq_mem (q : SeqId) (x : Seq) : (s.setSeq q x).mem = s.mem := by cases q <;> rfl
@[simp] theorem State.setSeq_errc (q : SeqId) (x : Seq) : (s.setSeq q x).errc = s.errc := by cases q <;> rfl
@[simp] theorem State.setSeq_dies (q : SeqId) (x : Seq) : (s.setSeq q x).dies = s.dies := by cases q <;> rfl
@[simp] theorem State.setSeq_hostReqs (q : SeqId) (x : Seq) : (s.setSeq q x).hostReqs = s.hostReqs := by cases q <;> rfl
@[simp] theorem State.setSeq_kills (q : SeqId) (x : Seq) : (s.setSeq q x).kills = s.kills := by cases q <;> rfl
@[simp] theorem State.setSeq_mig (q : SeqId) (x : Seq) : (s.setSeq q x).mig = s.mig := by cases q <;> rfl
@[simp] theorem State.setSeq_migWait (q : SeqId) (x : Seq) : (s.setSeq q x).migWait = s.migWait := by cases q <;> rfl
@[simp] theorem State.setSeq_rots (q : SeqId) (x : Seq) : (s.setSeq q x).rots = s.rots := by cases q <;> rfl
@[simp] theorem State.setSeq_vds (q : SeqId) (x : Seq) : (s.setSeq q x).vds = s.vds := by cases q <;> rfl
@[simp] theorem State.setSeq_launches (q : SeqId) (x : Seq) : (s.setSeq q x).launches = s.launches := by cases q <;> rfl
@[simp] theorem State.setSeq_kfaults (q : SeqId) (x : Seq) : (s.setSeq q x).kfaults = s.kfaults := by cases q <;> rfl
@[simp] theorem State.setSeq_bulks (q : SeqId) (x : Seq) : (s.setSeq q x).bulks = s.bulks := by cases q <;> rfl
@[simp] theorem State.setSeq_fabric (q : SeqId) (x : Seq) : (s.setSeq q x).fabric = s.fabric := by cases q <;> rfl
@[simp] theorem State.setSeq_sct (q : SeqId) (x : Seq) : (s.setSeq q x).sct = s.sct := by cases q <;> rfl
@[simp] theorem State.setSeq_vfs (q : SeqId) (x : Seq) : (s.setSeq q x).vfs = s.vfs := by cases q <;> rfl
@[simp] theorem State.setSeq_power (q : SeqId) (x : Seq) : (s.setSeq q x).power = s.power := by cases q <;> rfl
@[simp] theorem State.setSeq_fitted (q : SeqId) (x : Seq) : (s.setSeq q x).fitted = s.fitted := by cases q <;> rfl
@[simp] theorem State.setSeq_pfEvq (q : SeqId) (x : Seq) : (s.setSeq q x).pfEvq = s.pfEvq := by cases q <;> rfl
@[simp] theorem State.setSeq_linksDown (q : SeqId) (x : Seq) : (s.setSeq q x).linksDown = s.linksDown := by cases q <;> rfl

/-! ## `State.modSeq` -/

@[simp] theorem State.modSeq_now (q : SeqId) (f : Seq → Seq) : (s.modSeq q f).now = s.now := by cases q <;> rfl
@[simp] theorem State.modSeq_wall (q : SeqId) (f : Seq → Seq) : (s.modSeq q f).wall = s.wall := by cases q <;> rfl
@[simp] theorem State.modSeq_cur (q : SeqId) (f : Seq → Seq) : (s.modSeq q f).cur = s.cur := by cases q <;> rfl
@[simp] theorem State.modSeq_turns (q : SeqId) (f : Seq → Seq) : (s.modSeq q f).turns = s.turns := by cases q <;> rfl
@[simp] theorem State.modSeq_agenda (q : SeqId) (f : Seq → Seq) : (s.modSeq q f).agenda = s.agenda := by cases q <;> rfl
@[simp] theorem State.modSeq_fresh (q : SeqId) (f : Seq → Seq) : (s.modSeq q f).fresh = s.fresh := by cases q <;> rfl
@[simp] theorem State.modSeq_nextId (q : SeqId) (f : Seq → Seq) : (s.modSeq q f).nextId = s.nextId := by cases q <;> rfl
@[simp] theorem State.modSeq_outbox (q : SeqId) (f : Seq → Seq) : (s.modSeq q f).outbox = s.outbox := by cases q <;> rfl
@[simp] theorem State.modSeq_kblock (q : SeqId) (f : Seq → Seq) : (s.modSeq q f).kblock = s.kblock := by cases q <;> rfl
@[simp] theorem State.modSeq_mem (q : SeqId) (f : Seq → Seq) : (s.modSeq q f).mem = s.mem := by cases q <;> rfl
@[simp] theorem State.modSeq_errc (q : SeqId) (f : Seq → Seq) : (s.modSeq q f).errc = s.errc := by cases q <;> rfl
@[simp] theorem State.modSeq_dies (q : SeqId) (f : Seq → Seq) : (s.modSeq q f).dies = s.dies := by cases q <;> rfl
@[simp] theorem State.modSeq_hostReqs (q : SeqId) (f : Seq → Seq) : (s.modSeq q f).hostReqs = s.hostReqs := by cases q <;> rfl
@[simp] theorem State.modSeq_kills (q : SeqId) (f : Seq → Seq) : (s.modSeq q f).kills = s.kills := by cases q <;> rfl
@[simp] theorem State.modSeq_mig (q : SeqId) (f : Seq → Seq) : (s.modSeq q f).mig = s.mig := by cases q <;> rfl
@[simp] theorem State.modSeq_migWait (q : SeqId) (f : Seq → Seq) : (s.modSeq q f).migWait = s.migWait := by cases q <;> rfl
@[simp] theorem State.modSeq_rots (q : SeqId) (f : Seq → Seq) : (s.modSeq q f).rots = s.rots := by cases q <;> rfl
@[simp] theorem State.modSeq_vds (q : SeqId) (f : Seq → Seq) : (s.modSeq q f).vds = s.vds := by cases q <;> rfl
@[simp] theorem State.modSeq_launches (q : SeqId) (f : Seq → Seq) : (s.modSeq q f).launches = s.launches := by cases q <;> rfl
@[simp] theorem State.modSeq_kfaults (q : SeqId) (f : Seq → Seq) : (s.modSeq q f).kfaults = s.kfaults := by cases q <;> rfl
@[simp] theorem State.modSeq_bulks (q : SeqId) (f : Seq → Seq) : (s.modSeq q f).bulks = s.bulks := by cases q <;> rfl
@[simp] theorem State.modSeq_fabric (q : SeqId) (f : Seq → Seq) : (s.modSeq q f).fabric = s.fabric := by cases q <;> rfl
@[simp] theorem State.modSeq_sct (q : SeqId) (f : Seq → Seq) : (s.modSeq q f).sct = s.sct := by cases q <;> rfl
@[simp] theorem State.modSeq_vfs (q : SeqId) (f : Seq → Seq) : (s.modSeq q f).vfs = s.vfs := by cases q <;> rfl
@[simp] theorem State.modSeq_power (q : SeqId) (f : Seq → Seq) : (s.modSeq q f).power = s.power := by cases q <;> rfl
@[simp] theorem State.modSeq_fitted (q : SeqId) (f : Seq → Seq) : (s.modSeq q f).fitted = s.fitted := by cases q <;> rfl
@[simp] theorem State.modSeq_pfEvq (q : SeqId) (f : Seq → Seq) : (s.modSeq q f).pfEvq = s.pfEvq := by cases q <;> rfl
@[simp] theorem State.modSeq_linksDown (q : SeqId) (f : Seq → Seq) : (s.modSeq q f).linksDown = s.linksDown := by cases q <;> rfl

/-! ## `State.modDie` -/

@[simp] theorem State.modDie_now (d : Nat) (f : Die → Die) : (s.modDie d f).now = s.now := rfl
@[simp] theorem State.modDie_wall (d : Nat) (f : Die → Die) : (s.modDie d f).wall = s.wall := rfl
@[simp] theorem State.modDie_cur (d : Nat) (f : Die → Die) : (s.modDie d f).cur = s.cur := rfl
@[simp] theorem State.modDie_turns (d : Nat) (f : Die → Die) : (s.modDie d f).turns = s.turns := rfl
@[simp] theorem State.modDie_agenda (d : Nat) (f : Die → Die) : (s.modDie d f).agenda = s.agenda := rfl
@[simp] theorem State.modDie_fresh (d : Nat) (f : Die → Die) : (s.modDie d f).fresh = s.fresh := rfl
@[simp] theorem State.modDie_nextId (d : Nat) (f : Die → Die) : (s.modDie d f).nextId = s.nextId := rfl
@[simp] theorem State.modDie_outbox (d : Nat) (f : Die → Die) : (s.modDie d f).outbox = s.outbox := rfl
@[simp] theorem State.modDie_tiles (d : Nat) (f : Die → Die) : (s.modDie d f).tiles = s.tiles := rfl
@[simp] theorem State.modDie_keepers (d : Nat) (f : Die → Die) : (s.modDie d f).keepers = s.keepers := rfl
@[simp] theorem State.modDie_kblock (d : Nat) (f : Die → Die) : (s.modDie d f).kblock = s.kblock := rfl
@[simp] theorem State.modDie_mem (d : Nat) (f : Die → Die) : (s.modDie d f).mem = s.mem := rfl
@[simp] theorem State.modDie_errc (d : Nat) (f : Die → Die) : (s.modDie d f).errc = s.errc := rfl
@[simp] theorem State.modDie_hostReqs (d : Nat) (f : Die → Die) : (s.modDie d f).hostReqs = s.hostReqs := rfl
@[simp] theorem State.modDie_kills (d : Nat) (f : Die → Die) : (s.modDie d f).kills = s.kills := rfl
@[simp] theorem State.modDie_mig (d : Nat) (f : Die → Die) : (s.modDie d f).mig = s.mig := rfl
@[simp] theorem State.modDie_migWait (d : Nat) (f : Die → Die) : (s.modDie d f).migWait = s.migWait := rfl
@[simp] theorem State.modDie_rots (d : Nat) (f : Die → Die) : (s.modDie d f).rots = s.rots := rfl
@[simp] theorem State.modDie_vds (d : Nat) (f : Die → Die) : (s.modDie d f).vds = s.vds := rfl
@[simp] theorem State.modDie_launches (d : Nat) (f : Die → Die) : (s.modDie d f).launches = s.launches := rfl
@[simp] theorem State.modDie_kfaults (d : Nat) (f : Die → Die) : (s.modDie d f).kfaults = s.kfaults := rfl
@[simp] theorem State.modDie_bulks (d : Nat) (f : Die → Die) : (s.modDie d f).bulks = s.bulks := rfl
@[simp] theorem State.modDie_fabric (d : Nat) (f : Die → Die) : (s.modDie d f).fabric = s.fabric := rfl
@[simp] theorem State.modDie_sct (d : Nat) (f : Die → Die) : (s.modDie d f).sct = s.sct := rfl
@[simp] theorem State.modDie_vfs (d : Nat) (f : Die → Die) : (s.modDie d f).vfs = s.vfs := rfl
@[simp] theorem State.modDie_power (d : Nat) (f : Die → Die) : (s.modDie d f).power = s.power := rfl
@[simp] theorem State.modDie_fitted (d : Nat) (f : Die → Die) : (s.modDie d f).fitted = s.fitted := rfl
@[simp] theorem State.modDie_pfEvq (d : Nat) (f : Die → Die) : (s.modDie d f).pfEvq = s.pfEvq := rfl
@[simp] theorem State.modDie_linksDown (d : Nat) (f : Die → Die) : (s.modDie d f).linksDown = s.linksDown := rfl

/-! ## `State.modMem` -/

@[simp] theorem State.modMem_now (f : Memory → Memory) : (s.modMem f).now = s.now := rfl
@[simp] theorem State.modMem_wall (f : Memory → Memory) : (s.modMem f).wall = s.wall := rfl
@[simp] theorem State.modMem_cur (f : Memory → Memory) : (s.modMem f).cur = s.cur := rfl
@[simp] theorem State.modMem_turns (f : Memory → Memory) : (s.modMem f).turns = s.turns := rfl
@[simp] theorem State.modMem_agenda (f : Memory → Memory) : (s.modMem f).agenda = s.agenda := rfl
@[simp] theorem State.modMem_fresh (f : Memory → Memory) : (s.modMem f).fresh = s.fresh := rfl
@[simp] theorem State.modMem_nextId (f : Memory → Memory) : (s.modMem f).nextId = s.nextId := rfl
@[simp] theorem State.modMem_outbox (f : Memory → Memory) : (s.modMem f).outbox = s.outbox := rfl
@[simp] theorem State.modMem_tiles (f : Memory → Memory) : (s.modMem f).tiles = s.tiles := rfl
@[simp] theorem State.modMem_keepers (f : Memory → Memory) : (s.modMem f).keepers = s.keepers := rfl
@[simp] theorem State.modMem_kblock (f : Memory → Memory) : (s.modMem f).kblock = s.kblock := rfl
@[simp] theorem State.modMem_errc (f : Memory → Memory) : (s.modMem f).errc = s.errc := rfl
@[simp] theorem State.modMem_dies (f : Memory → Memory) : (s.modMem f).dies = s.dies := rfl
@[simp] theorem State.modMem_hostReqs (f : Memory → Memory) : (s.modMem f).hostReqs = s.hostReqs := rfl
@[simp] theorem State.modMem_kills (f : Memory → Memory) : (s.modMem f).kills = s.kills := rfl
@[simp] theorem State.modMem_mig (f : Memory → Memory) : (s.modMem f).mig = s.mig := rfl
@[simp] theorem State.modMem_migWait (f : Memory → Memory) : (s.modMem f).migWait = s.migWait := rfl
@[simp] theorem State.modMem_rots (f : Memory → Memory) : (s.modMem f).rots = s.rots := rfl
@[simp] theorem State.modMem_vds (f : Memory → Memory) : (s.modMem f).vds = s.vds := rfl
@[simp] theorem State.modMem_launches (f : Memory → Memory) : (s.modMem f).launches = s.launches := rfl
@[simp] theorem State.modMem_kfaults (f : Memory → Memory) : (s.modMem f).kfaults = s.kfaults := rfl
@[simp] theorem State.modMem_bulks (f : Memory → Memory) : (s.modMem f).bulks = s.bulks := rfl
@[simp] theorem State.modMem_fabric (f : Memory → Memory) : (s.modMem f).fabric = s.fabric := rfl
@[simp] theorem State.modMem_sct (f : Memory → Memory) : (s.modMem f).sct = s.sct := rfl
@[simp] theorem State.modMem_vfs (f : Memory → Memory) : (s.modMem f).vfs = s.vfs := rfl
@[simp] theorem State.modMem_power (f : Memory → Memory) : (s.modMem f).power = s.power := rfl
@[simp] theorem State.modMem_fitted (f : Memory → Memory) : (s.modMem f).fitted = s.fitted := rfl
@[simp] theorem State.modMem_pfEvq (f : Memory → Memory) : (s.modMem f).pfEvq = s.pfEvq := rfl
@[simp] theorem State.modMem_linksDown (f : Memory → Memory) : (s.modMem f).linksDown = s.linksDown := rfl

/-! ## `State.modFab` -/

@[simp] theorem State.modFab_now (f : Fabric → Fabric) : (s.modFab f).now = s.now := rfl
@[simp] theorem State.modFab_wall (f : Fabric → Fabric) : (s.modFab f).wall = s.wall := rfl
@[simp] theorem State.modFab_cur (f : Fabric → Fabric) : (s.modFab f).cur = s.cur := rfl
@[simp] theorem State.modFab_turns (f : Fabric → Fabric) : (s.modFab f).turns = s.turns := rfl
@[simp] theorem State.modFab_agenda (f : Fabric → Fabric) : (s.modFab f).agenda = s.agenda := rfl
@[simp] theorem State.modFab_fresh (f : Fabric → Fabric) : (s.modFab f).fresh = s.fresh := rfl
@[simp] theorem State.modFab_nextId (f : Fabric → Fabric) : (s.modFab f).nextId = s.nextId := rfl
@[simp] theorem State.modFab_outbox (f : Fabric → Fabric) : (s.modFab f).outbox = s.outbox := rfl
@[simp] theorem State.modFab_tiles (f : Fabric → Fabric) : (s.modFab f).tiles = s.tiles := rfl
@[simp] theorem State.modFab_keepers (f : Fabric → Fabric) : (s.modFab f).keepers = s.keepers := rfl
@[simp] theorem State.modFab_kblock (f : Fabric → Fabric) : (s.modFab f).kblock = s.kblock := rfl
@[simp] theorem State.modFab_mem (f : Fabric → Fabric) : (s.modFab f).mem = s.mem := rfl
@[simp] theorem State.modFab_errc (f : Fabric → Fabric) : (s.modFab f).errc = s.errc := rfl
@[simp] theorem State.modFab_dies (f : Fabric → Fabric) : (s.modFab f).dies = s.dies := rfl
@[simp] theorem State.modFab_hostReqs (f : Fabric → Fabric) : (s.modFab f).hostReqs = s.hostReqs := rfl
@[simp] theorem State.modFab_kills (f : Fabric → Fabric) : (s.modFab f).kills = s.kills := rfl
@[simp] theorem State.modFab_mig (f : Fabric → Fabric) : (s.modFab f).mig = s.mig := rfl
@[simp] theorem State.modFab_migWait (f : Fabric → Fabric) : (s.modFab f).migWait = s.migWait := rfl
@[simp] theorem State.modFab_rots (f : Fabric → Fabric) : (s.modFab f).rots = s.rots := rfl
@[simp] theorem State.modFab_vds (f : Fabric → Fabric) : (s.modFab f).vds = s.vds := rfl
@[simp] theorem State.modFab_launches (f : Fabric → Fabric) : (s.modFab f).launches = s.launches := rfl
@[simp] theorem State.modFab_kfaults (f : Fabric → Fabric) : (s.modFab f).kfaults = s.kfaults := rfl
@[simp] theorem State.modFab_bulks (f : Fabric → Fabric) : (s.modFab f).bulks = s.bulks := rfl
@[simp] theorem State.modFab_sct (f : Fabric → Fabric) : (s.modFab f).sct = s.sct := rfl
@[simp] theorem State.modFab_vfs (f : Fabric → Fabric) : (s.modFab f).vfs = s.vfs := rfl
@[simp] theorem State.modFab_power (f : Fabric → Fabric) : (s.modFab f).power = s.power := rfl
@[simp] theorem State.modFab_fitted (f : Fabric → Fabric) : (s.modFab f).fitted = s.fitted := rfl
@[simp] theorem State.modFab_pfEvq (f : Fabric → Fabric) : (s.modFab f).pfEvq = s.pfEvq := rfl
@[simp] theorem State.modFab_linksDown (f : Fabric → Fabric) : (s.modFab f).linksDown = s.linksDown := rfl

/-! ## `State.modSct` -/

@[simp] theorem State.modSct_now (f : Sct → Sct) : (s.modSct f).now = s.now := rfl
@[simp] theorem State.modSct_wall (f : Sct → Sct) : (s.modSct f).wall = s.wall := rfl
@[simp] theorem State.modSct_cur (f : Sct → Sct) : (s.modSct f).cur = s.cur := rfl
@[simp] theorem State.modSct_turns (f : Sct → Sct) : (s.modSct f).turns = s.turns := rfl
@[simp] theorem State.modSct_agenda (f : Sct → Sct) : (s.modSct f).agenda = s.agenda := rfl
@[simp] theorem State.modSct_fresh (f : Sct → Sct) : (s.modSct f).fresh = s.fresh := rfl
@[simp] theorem State.modSct_nextId (f : Sct → Sct) : (s.modSct f).nextId = s.nextId := rfl
@[simp] theorem State.modSct_outbox (f : Sct → Sct) : (s.modSct f).outbox = s.outbox := rfl
@[simp] theorem State.modSct_tiles (f : Sct → Sct) : (s.modSct f).tiles = s.tiles := rfl
@[simp] theorem State.modSct_keepers (f : Sct → Sct) : (s.modSct f).keepers = s.keepers := rfl
@[simp] theorem State.modSct_kblock (f : Sct → Sct) : (s.modSct f).kblock = s.kblock := rfl
@[simp] theorem State.modSct_mem (f : Sct → Sct) : (s.modSct f).mem = s.mem := rfl
@[simp] theorem State.modSct_errc (f : Sct → Sct) : (s.modSct f).errc = s.errc := rfl
@[simp] theorem State.modSct_dies (f : Sct → Sct) : (s.modSct f).dies = s.dies := rfl
@[simp] theorem State.modSct_hostReqs (f : Sct → Sct) : (s.modSct f).hostReqs = s.hostReqs := rfl
@[simp] theorem State.modSct_kills (f : Sct → Sct) : (s.modSct f).kills = s.kills := rfl
@[simp] theorem State.modSct_mig (f : Sct → Sct) : (s.modSct f).mig = s.mig := rfl
@[simp] theorem State.modSct_migWait (f : Sct → Sct) : (s.modSct f).migWait = s.migWait := rfl
@[simp] theorem State.modSct_rots (f : Sct → Sct) : (s.modSct f).rots = s.rots := rfl
@[simp] theorem State.modSct_vds (f : Sct → Sct) : (s.modSct f).vds = s.vds := rfl
@[simp] theorem State.modSct_launches (f : Sct → Sct) : (s.modSct f).launches = s.launches := rfl
@[simp] theorem State.modSct_kfaults (f : Sct → Sct) : (s.modSct f).kfaults = s.kfaults := rfl
@[simp] theorem State.modSct_bulks (f : Sct → Sct) : (s.modSct f).bulks = s.bulks := rfl
@[simp] theorem State.modSct_fabric (f : Sct → Sct) : (s.modSct f).fabric = s.fabric := rfl
@[simp] theorem State.modSct_vfs (f : Sct → Sct) : (s.modSct f).vfs = s.vfs := rfl
@[simp] theorem State.modSct_power (f : Sct → Sct) : (s.modSct f).power = s.power := rfl
@[simp] theorem State.modSct_fitted (f : Sct → Sct) : (s.modSct f).fitted = s.fitted := rfl
@[simp] theorem State.modSct_pfEvq (f : Sct → Sct) : (s.modSct f).pfEvq = s.pfEvq := rfl
@[simp] theorem State.modSct_linksDown (f : Sct → Sct) : (s.modSct f).linksDown = s.linksDown := rfl

/-! ## `State.modVf` -/

@[simp] theorem State.modVf_now (n : Nat) (f : Vf → Vf) : (s.modVf n f).now = s.now := rfl
@[simp] theorem State.modVf_wall (n : Nat) (f : Vf → Vf) : (s.modVf n f).wall = s.wall := rfl
@[simp] theorem State.modVf_cur (n : Nat) (f : Vf → Vf) : (s.modVf n f).cur = s.cur := rfl
@[simp] theorem State.modVf_turns (n : Nat) (f : Vf → Vf) : (s.modVf n f).turns = s.turns := rfl
@[simp] theorem State.modVf_agenda (n : Nat) (f : Vf → Vf) : (s.modVf n f).agenda = s.agenda := rfl
@[simp] theorem State.modVf_fresh (n : Nat) (f : Vf → Vf) : (s.modVf n f).fresh = s.fresh := rfl
@[simp] theorem State.modVf_nextId (n : Nat) (f : Vf → Vf) : (s.modVf n f).nextId = s.nextId := rfl
@[simp] theorem State.modVf_outbox (n : Nat) (f : Vf → Vf) : (s.modVf n f).outbox = s.outbox := rfl
@[simp] theorem State.modVf_tiles (n : Nat) (f : Vf → Vf) : (s.modVf n f).tiles = s.tiles := rfl
@[simp] theorem State.modVf_keepers (n : Nat) (f : Vf → Vf) : (s.modVf n f).keepers = s.keepers := rfl
@[simp] theorem State.modVf_kblock (n : Nat) (f : Vf → Vf) : (s.modVf n f).kblock = s.kblock := rfl
@[simp] theorem State.modVf_mem (n : Nat) (f : Vf → Vf) : (s.modVf n f).mem = s.mem := rfl
@[simp] theorem State.modVf_errc (n : Nat) (f : Vf → Vf) : (s.modVf n f).errc = s.errc := rfl
@[simp] theorem State.modVf_dies (n : Nat) (f : Vf → Vf) : (s.modVf n f).dies = s.dies := rfl
@[simp] theorem State.modVf_hostReqs (n : Nat) (f : Vf → Vf) : (s.modVf n f).hostReqs = s.hostReqs := rfl
@[simp] theorem State.modVf_kills (n : Nat) (f : Vf → Vf) : (s.modVf n f).kills = s.kills := rfl
@[simp] theorem State.modVf_mig (n : Nat) (f : Vf → Vf) : (s.modVf n f).mig = s.mig := rfl
@[simp] theorem State.modVf_migWait (n : Nat) (f : Vf → Vf) : (s.modVf n f).migWait = s.migWait := rfl
@[simp] theorem State.modVf_rots (n : Nat) (f : Vf → Vf) : (s.modVf n f).rots = s.rots := rfl
@[simp] theorem State.modVf_vds (n : Nat) (f : Vf → Vf) : (s.modVf n f).vds = s.vds := rfl
@[simp] theorem State.modVf_launches (n : Nat) (f : Vf → Vf) : (s.modVf n f).launches = s.launches := rfl
@[simp] theorem State.modVf_kfaults (n : Nat) (f : Vf → Vf) : (s.modVf n f).kfaults = s.kfaults := rfl
@[simp] theorem State.modVf_bulks (n : Nat) (f : Vf → Vf) : (s.modVf n f).bulks = s.bulks := rfl
@[simp] theorem State.modVf_fabric (n : Nat) (f : Vf → Vf) : (s.modVf n f).fabric = s.fabric := rfl
@[simp] theorem State.modVf_sct (n : Nat) (f : Vf → Vf) : (s.modVf n f).sct = s.sct := rfl
@[simp] theorem State.modVf_power (n : Nat) (f : Vf → Vf) : (s.modVf n f).power = s.power := rfl
@[simp] theorem State.modVf_fitted (n : Nat) (f : Vf → Vf) : (s.modVf n f).fitted = s.fitted := rfl
@[simp] theorem State.modVf_pfEvq (n : Nat) (f : Vf → Vf) : (s.modVf n f).pfEvq = s.pfEvq := rfl
@[simp] theorem State.modVf_linksDown (n : Nat) (f : Vf → Vf) : (s.modVf n f).linksDown = s.linksDown := rfl

/-! ## `State.modLaunch` -/

@[simp] theorem State.modLaunch_now (n : Nat) (f : Launch → Launch) : (s.modLaunch n f).now = s.now := rfl
@[simp] theorem State.modLaunch_wall (n : Nat) (f : Launch → Launch) : (s.modLaunch n f).wall = s.wall := rfl
@[simp] theorem State.modLaunch_cur (n : Nat) (f : Launch → Launch) : (s.modLaunch n f).cur = s.cur := rfl
@[simp] theorem State.modLaunch_turns (n : Nat) (f : Launch → Launch) : (s.modLaunch n f).turns = s.turns := rfl
@[simp] theorem State.modLaunch_agenda (n : Nat) (f : Launch → Launch) : (s.modLaunch n f).agenda = s.agenda := rfl
@[simp] theorem State.modLaunch_fresh (n : Nat) (f : Launch → Launch) : (s.modLaunch n f).fresh = s.fresh := rfl
@[simp] theorem State.modLaunch_nextId (n : Nat) (f : Launch → Launch) : (s.modLaunch n f).nextId = s.nextId := rfl
@[simp] theorem State.modLaunch_outbox (n : Nat) (f : Launch → Launch) : (s.modLaunch n f).outbox = s.outbox := rfl
@[simp] theorem State.modLaunch_tiles (n : Nat) (f : Launch → Launch) : (s.modLaunch n f).tiles = s.tiles := rfl
@[simp] theorem State.modLaunch_keepers (n : Nat) (f : Launch → Launch) : (s.modLaunch n f).keepers = s.keepers := rfl
@[simp] theorem State.modLaunch_kblock (n : Nat) (f : Launch → Launch) : (s.modLaunch n f).kblock = s.kblock := rfl
@[simp] theorem State.modLaunch_mem (n : Nat) (f : Launch → Launch) : (s.modLaunch n f).mem = s.mem := rfl
@[simp] theorem State.modLaunch_errc (n : Nat) (f : Launch → Launch) : (s.modLaunch n f).errc = s.errc := rfl
@[simp] theorem State.modLaunch_dies (n : Nat) (f : Launch → Launch) : (s.modLaunch n f).dies = s.dies := rfl
@[simp] theorem State.modLaunch_hostReqs (n : Nat) (f : Launch → Launch) : (s.modLaunch n f).hostReqs = s.hostReqs := rfl
@[simp] theorem State.modLaunch_kills (n : Nat) (f : Launch → Launch) : (s.modLaunch n f).kills = s.kills := rfl
@[simp] theorem State.modLaunch_mig (n : Nat) (f : Launch → Launch) : (s.modLaunch n f).mig = s.mig := rfl
@[simp] theorem State.modLaunch_migWait (n : Nat) (f : Launch → Launch) : (s.modLaunch n f).migWait = s.migWait := rfl
@[simp] theorem State.modLaunch_rots (n : Nat) (f : Launch → Launch) : (s.modLaunch n f).rots = s.rots := rfl
@[simp] theorem State.modLaunch_vds (n : Nat) (f : Launch → Launch) : (s.modLaunch n f).vds = s.vds := rfl
@[simp] theorem State.modLaunch_kfaults (n : Nat) (f : Launch → Launch) : (s.modLaunch n f).kfaults = s.kfaults := rfl
@[simp] theorem State.modLaunch_bulks (n : Nat) (f : Launch → Launch) : (s.modLaunch n f).bulks = s.bulks := rfl
@[simp] theorem State.modLaunch_fabric (n : Nat) (f : Launch → Launch) : (s.modLaunch n f).fabric = s.fabric := rfl
@[simp] theorem State.modLaunch_sct (n : Nat) (f : Launch → Launch) : (s.modLaunch n f).sct = s.sct := rfl
@[simp] theorem State.modLaunch_vfs (n : Nat) (f : Launch → Launch) : (s.modLaunch n f).vfs = s.vfs := rfl
@[simp] theorem State.modLaunch_power (n : Nat) (f : Launch → Launch) : (s.modLaunch n f).power = s.power := rfl
@[simp] theorem State.modLaunch_fitted (n : Nat) (f : Launch → Launch) : (s.modLaunch n f).fitted = s.fitted := rfl
@[simp] theorem State.modLaunch_pfEvq (n : Nat) (f : Launch → Launch) : (s.modLaunch n f).pfEvq = s.pfEvq := rfl
@[simp] theorem State.modLaunch_linksDown (n : Nat) (f : Launch → Launch) : (s.modLaunch n f).linksDown = s.linksDown := rfl

/-! ## `State.emit` -/

@[simp] theorem State.emit_now (o : Out) : (s.emit o).now = s.now := rfl
@[simp] theorem State.emit_wall (o : Out) : (s.emit o).wall = s.wall := rfl
@[simp] theorem State.emit_cur (o : Out) : (s.emit o).cur = s.cur := rfl
@[simp] theorem State.emit_turns (o : Out) : (s.emit o).turns = s.turns := rfl
@[simp] theorem State.emit_agenda (o : Out) : (s.emit o).agenda = s.agenda := rfl
@[simp] theorem State.emit_fresh (o : Out) : (s.emit o).fresh = s.fresh := rfl
@[simp] theorem State.emit_nextId (o : Out) : (s.emit o).nextId = s.nextId := rfl
@[simp] theorem State.emit_tiles (o : Out) : (s.emit o).tiles = s.tiles := rfl
@[simp] theorem State.emit_keepers (o : Out) : (s.emit o).keepers = s.keepers := rfl
@[simp] theorem State.emit_kblock (o : Out) : (s.emit o).kblock = s.kblock := rfl
@[simp] theorem State.emit_mem (o : Out) : (s.emit o).mem = s.mem := rfl
@[simp] theorem State.emit_errc (o : Out) : (s.emit o).errc = s.errc := rfl
@[simp] theorem State.emit_dies (o : Out) : (s.emit o).dies = s.dies := rfl
@[simp] theorem State.emit_hostReqs (o : Out) : (s.emit o).hostReqs = s.hostReqs := rfl
@[simp] theorem State.emit_kills (o : Out) : (s.emit o).kills = s.kills := rfl
@[simp] theorem State.emit_mig (o : Out) : (s.emit o).mig = s.mig := rfl
@[simp] theorem State.emit_migWait (o : Out) : (s.emit o).migWait = s.migWait := rfl
@[simp] theorem State.emit_rots (o : Out) : (s.emit o).rots = s.rots := rfl
@[simp] theorem State.emit_vds (o : Out) : (s.emit o).vds = s.vds := rfl
@[simp] theorem State.emit_launches (o : Out) : (s.emit o).launches = s.launches := rfl
@[simp] theorem State.emit_kfaults (o : Out) : (s.emit o).kfaults = s.kfaults := rfl
@[simp] theorem State.emit_bulks (o : Out) : (s.emit o).bulks = s.bulks := rfl
@[simp] theorem State.emit_fabric (o : Out) : (s.emit o).fabric = s.fabric := rfl
@[simp] theorem State.emit_sct (o : Out) : (s.emit o).sct = s.sct := rfl
@[simp] theorem State.emit_vfs (o : Out) : (s.emit o).vfs = s.vfs := rfl
@[simp] theorem State.emit_power (o : Out) : (s.emit o).power = s.power := rfl
@[simp] theorem State.emit_fitted (o : Out) : (s.emit o).fitted = s.fitted := rfl
@[simp] theorem State.emit_pfEvq (o : Out) : (s.emit o).pfEvq = s.pfEvq := rfl
@[simp] theorem State.emit_linksDown (o : Out) : (s.emit o).linksDown = s.linksDown := rfl

/-! ## `State.post` -/

@[simp] theorem State.post_now (n : Nat) (i : Instr) : (s.post n i).now = s.now := rfl
@[simp] theorem State.post_wall (n : Nat) (i : Instr) : (s.post n i).wall = s.wall := rfl
@[simp] theorem State.post_cur (n : Nat) (i : Instr) : (s.post n i).cur = s.cur := rfl
@[simp] theorem State.post_turns (n : Nat) (i : Instr) : (s.post n i).turns = s.turns := rfl
@[simp] theorem State.post_fresh (n : Nat) (i : Instr) : (s.post n i).fresh = s.fresh := rfl
@[simp] theorem State.post_nextId (n : Nat) (i : Instr) : (s.post n i).nextId = s.nextId := rfl
@[simp] theorem State.post_outbox (n : Nat) (i : Instr) : (s.post n i).outbox = s.outbox := rfl
@[simp] theorem State.post_tiles (n : Nat) (i : Instr) : (s.post n i).tiles = s.tiles := rfl
@[simp] theorem State.post_keepers (n : Nat) (i : Instr) : (s.post n i).keepers = s.keepers := rfl
@[simp] theorem State.post_kblock (n : Nat) (i : Instr) : (s.post n i).kblock = s.kblock := rfl
@[simp] theorem State.post_mem (n : Nat) (i : Instr) : (s.post n i).mem = s.mem := rfl
@[simp] theorem State.post_errc (n : Nat) (i : Instr) : (s.post n i).errc = s.errc := rfl
@[simp] theorem State.post_dies (n : Nat) (i : Instr) : (s.post n i).dies = s.dies := rfl
@[simp] theorem State.post_hostReqs (n : Nat) (i : Instr) : (s.post n i).hostReqs = s.hostReqs := rfl
@[simp] theorem State.post_kills (n : Nat) (i : Instr) : (s.post n i).kills = s.kills := rfl
@[simp] theorem State.post_mig (n : Nat) (i : Instr) : (s.post n i).mig = s.mig := rfl
@[simp] theorem State.post_migWait (n : Nat) (i : Instr) : (s.post n i).migWait = s.migWait := rfl
@[simp] theorem State.post_rots (n : Nat) (i : Instr) : (s.post n i).rots = s.rots := rfl
@[simp] theorem State.post_vds (n : Nat) (i : Instr) : (s.post n i).vds = s.vds := rfl
@[simp] theorem State.post_launches (n : Nat) (i : Instr) : (s.post n i).launches = s.launches := rfl
@[simp] theorem State.post_kfaults (n : Nat) (i : Instr) : (s.post n i).kfaults = s.kfaults := rfl
@[simp] theorem State.post_bulks (n : Nat) (i : Instr) : (s.post n i).bulks = s.bulks := rfl
@[simp] theorem State.post_fabric (n : Nat) (i : Instr) : (s.post n i).fabric = s.fabric := rfl
@[simp] theorem State.post_sct (n : Nat) (i : Instr) : (s.post n i).sct = s.sct := rfl
@[simp] theorem State.post_vfs (n : Nat) (i : Instr) : (s.post n i).vfs = s.vfs := rfl
@[simp] theorem State.post_power (n : Nat) (i : Instr) : (s.post n i).power = s.power := rfl
@[simp] theorem State.post_fitted (n : Nat) (i : Instr) : (s.post n i).fitted = s.fitted := rfl
@[simp] theorem State.post_pfEvq (n : Nat) (i : Instr) : (s.post n i).pfEvq = s.pfEvq := rfl
@[simp] theorem State.post_linksDown (n : Nat) (i : Instr) : (s.post n i).linksDown = s.linksDown := rfl

/-! ## `State.postIn` -/

@[simp] theorem State.postIn_now (n : Nat) (i : Instr) : (s.postIn n i).now = s.now := rfl
@[simp] theorem State.postIn_wall (n : Nat) (i : Instr) : (s.postIn n i).wall = s.wall := rfl
@[simp] theorem State.postIn_cur (n : Nat) (i : Instr) : (s.postIn n i).cur = s.cur := rfl
@[simp] theorem State.postIn_turns (n : Nat) (i : Instr) : (s.postIn n i).turns = s.turns := rfl
@[simp] theorem State.postIn_fresh (n : Nat) (i : Instr) : (s.postIn n i).fresh = s.fresh := rfl
@[simp] theorem State.postIn_nextId (n : Nat) (i : Instr) : (s.postIn n i).nextId = s.nextId := rfl
@[simp] theorem State.postIn_outbox (n : Nat) (i : Instr) : (s.postIn n i).outbox = s.outbox := rfl
@[simp] theorem State.postIn_tiles (n : Nat) (i : Instr) : (s.postIn n i).tiles = s.tiles := rfl
@[simp] theorem State.postIn_keepers (n : Nat) (i : Instr) : (s.postIn n i).keepers = s.keepers := rfl
@[simp] theorem State.postIn_kblock (n : Nat) (i : Instr) : (s.postIn n i).kblock = s.kblock := rfl
@[simp] theorem State.postIn_mem (n : Nat) (i : Instr) : (s.postIn n i).mem = s.mem := rfl
@[simp] theorem State.postIn_errc (n : Nat) (i : Instr) : (s.postIn n i).errc = s.errc := rfl
@[simp] theorem State.postIn_dies (n : Nat) (i : Instr) : (s.postIn n i).dies = s.dies := rfl
@[simp] theorem State.postIn_hostReqs (n : Nat) (i : Instr) : (s.postIn n i).hostReqs = s.hostReqs := rfl
@[simp] theorem State.postIn_kills (n : Nat) (i : Instr) : (s.postIn n i).kills = s.kills := rfl
@[simp] theorem State.postIn_mig (n : Nat) (i : Instr) : (s.postIn n i).mig = s.mig := rfl
@[simp] theorem State.postIn_migWait (n : Nat) (i : Instr) : (s.postIn n i).migWait = s.migWait := rfl
@[simp] theorem State.postIn_rots (n : Nat) (i : Instr) : (s.postIn n i).rots = s.rots := rfl
@[simp] theorem State.postIn_vds (n : Nat) (i : Instr) : (s.postIn n i).vds = s.vds := rfl
@[simp] theorem State.postIn_launches (n : Nat) (i : Instr) : (s.postIn n i).launches = s.launches := rfl
@[simp] theorem State.postIn_kfaults (n : Nat) (i : Instr) : (s.postIn n i).kfaults = s.kfaults := rfl
@[simp] theorem State.postIn_bulks (n : Nat) (i : Instr) : (s.postIn n i).bulks = s.bulks := rfl
@[simp] theorem State.postIn_fabric (n : Nat) (i : Instr) : (s.postIn n i).fabric = s.fabric := rfl
@[simp] theorem State.postIn_sct (n : Nat) (i : Instr) : (s.postIn n i).sct = s.sct := rfl
@[simp] theorem State.postIn_vfs (n : Nat) (i : Instr) : (s.postIn n i).vfs = s.vfs := rfl
@[simp] theorem State.postIn_power (n : Nat) (i : Instr) : (s.postIn n i).power = s.power := rfl
@[simp] theorem State.postIn_fitted (n : Nat) (i : Instr) : (s.postIn n i).fitted = s.fitted := rfl
@[simp] theorem State.postIn_pfEvq (n : Nat) (i : Instr) : (s.postIn n i).pfEvq = s.pfEvq := rfl
@[simp] theorem State.postIn_linksDown (n : Nat) (i : Instr) : (s.postIn n i).linksDown = s.linksDown := rfl

/-! ## `State.postTick` -/

@[simp] theorem State.postTick_now (n : Nat) (i : Instr) : (s.postTick n i).now = s.now := rfl
@[simp] theorem State.postTick_wall (n : Nat) (i : Instr) : (s.postTick n i).wall = s.wall := rfl
@[simp] theorem State.postTick_cur (n : Nat) (i : Instr) : (s.postTick n i).cur = s.cur := rfl
@[simp] theorem State.postTick_turns (n : Nat) (i : Instr) : (s.postTick n i).turns = s.turns := rfl
@[simp] theorem State.postTick_fresh (n : Nat) (i : Instr) : (s.postTick n i).fresh = s.fresh := rfl
@[simp] theorem State.postTick_nextId (n : Nat) (i : Instr) : (s.postTick n i).nextId = s.nextId := rfl
@[simp] theorem State.postTick_outbox (n : Nat) (i : Instr) : (s.postTick n i).outbox = s.outbox := rfl
@[simp] theorem State.postTick_tiles (n : Nat) (i : Instr) : (s.postTick n i).tiles = s.tiles := rfl
@[simp] theorem State.postTick_keepers (n : Nat) (i : Instr) : (s.postTick n i).keepers = s.keepers := rfl
@[simp] theorem State.postTick_kblock (n : Nat) (i : Instr) : (s.postTick n i).kblock = s.kblock := rfl
@[simp] theorem State.postTick_mem (n : Nat) (i : Instr) : (s.postTick n i).mem = s.mem := rfl
@[simp] theorem State.postTick_errc (n : Nat) (i : Instr) : (s.postTick n i).errc = s.errc := rfl
@[simp] theorem State.postTick_dies (n : Nat) (i : Instr) : (s.postTick n i).dies = s.dies := rfl
@[simp] theorem State.postTick_hostReqs (n : Nat) (i : Instr) : (s.postTick n i).hostReqs = s.hostReqs := rfl
@[simp] theorem State.postTick_kills (n : Nat) (i : Instr) : (s.postTick n i).kills = s.kills := rfl
@[simp] theorem State.postTick_mig (n : Nat) (i : Instr) : (s.postTick n i).mig = s.mig := rfl
@[simp] theorem State.postTick_migWait (n : Nat) (i : Instr) : (s.postTick n i).migWait = s.migWait := rfl
@[simp] theorem State.postTick_rots (n : Nat) (i : Instr) : (s.postTick n i).rots = s.rots := rfl
@[simp] theorem State.postTick_vds (n : Nat) (i : Instr) : (s.postTick n i).vds = s.vds := rfl
@[simp] theorem State.postTick_launches (n : Nat) (i : Instr) : (s.postTick n i).launches = s.launches := rfl
@[simp] theorem State.postTick_kfaults (n : Nat) (i : Instr) : (s.postTick n i).kfaults = s.kfaults := rfl
@[simp] theorem State.postTick_bulks (n : Nat) (i : Instr) : (s.postTick n i).bulks = s.bulks := rfl
@[simp] theorem State.postTick_fabric (n : Nat) (i : Instr) : (s.postTick n i).fabric = s.fabric := rfl
@[simp] theorem State.postTick_sct (n : Nat) (i : Instr) : (s.postTick n i).sct = s.sct := rfl
@[simp] theorem State.postTick_vfs (n : Nat) (i : Instr) : (s.postTick n i).vfs = s.vfs := rfl
@[simp] theorem State.postTick_power (n : Nat) (i : Instr) : (s.postTick n i).power = s.power := rfl
@[simp] theorem State.postTick_fitted (n : Nat) (i : Instr) : (s.postTick n i).fitted = s.fitted := rfl
@[simp] theorem State.postTick_pfEvq (n : Nat) (i : Instr) : (s.postTick n i).pfEvq = s.pfEvq := rfl
@[simp] theorem State.postTick_linksDown (n : Nat) (i : Instr) : (s.postTick n i).linksDown = s.linksDown := rfl

/-! ## Reads of what was written -/

theorem State.tile_setTile (t u : Nat) (x : Tile) : (s.setTile t x).tile u = if u = t then x else s.tile u :=
  NMap.get_set _ _ _ _ _

@[simp] theorem State.tile_setTile_same (t : Nat) (x : Tile) : (s.setTile t x).tile t = x := by simp [tile_setTile]

@[simp] theorem State.tile_setTile_ne {t u : Nat} (x : Tile) (h : u ≠ t) : (s.setTile t x).tile u = s.tile u := by
  simp [tile_setTile, h]

theorem State.tile_modTile (t u : Nat) (f : Tile → Tile) :
    (s.modTile t f).tile u = if u = t then f (s.tile t) else s.tile u := s.tile_setTile t u _

@[simp] theorem State.seq_setSeq_same (q : SeqId) (x : Seq) : (s.setSeq q x).seq q = x := by
  cases q <;> simp [setSeq, seq, tile_modTile]

@[simp] theorem State.seq_setSeq_ne {q r : SeqId} (x : Seq) (h : r ≠ q) : (s.setSeq q x).seq r = s.seq r := by
  cases q <;> cases r <;> simp_all [setSeq, seq, tile_modTile]
  · rfl

@[simp] theorem State.seq_modSeq_same (q : SeqId) (f : Seq → Seq) : (s.modSeq q f).seq q = f (s.seq q) :=
  s.seq_setSeq_same q _

@[simp] theorem State.seq_modSeq_ne {q r : SeqId} (f : Seq → Seq) (h : r ≠ q) : (s.modSeq q f).seq r = s.seq r :=
  s.seq_setSeq_ne _ h

/-- Of a tile, setting a sequencer changes at most its own. -/
theorem State.tile_setSeq (q : SeqId) (x : Seq) (u : Nat) :
    ({ (s.setSeq q x).tile u with seq := (s.tile u).seq } : Tile) = s.tile u := by
  cases q with
  | tile t =>
    simp only [setSeq, tile_modTile]
    split
    · subst_vars; rfl
    · rfl
  | keeper k => rfl

/-- The scratchpad of every tile stands when a sequencer is set. -/
@[simp] theorem State.spad_setSeq (q : SeqId) (x : Seq) (u : Nat) : ((s.setSeq q x).tile u).spad = (s.tile u).spad :=
  (congrArg Tile.spad (s.tile_setSeq q x u) :)

@[simp] theorem State.spad_modSeq (q : SeqId) (f : Seq → Seq) (u : Nat) : ((s.modSeq q f).tile u).spad = (s.tile u).spad :=
  s.spad_setSeq q _ u

@[simp] theorem State.die_modDie_same (d : Nat) (f : Die → Die) : (s.modDie d f).die d = f (s.die d) :=
  NMap.get_set_same _ _ _ _

@[simp] theorem State.vf_modVf_same (n : Nat) (f : Vf → Vf) : (s.modVf n f).vf n = f (s.vf n) := NMap.get_set_same _ _ _ _

@[simp] theorem State.mem_modMem (f : Memory → Memory) : (s.modMem f).mem = f s.mem := rfl
@[simp] theorem State.fabric_modFab (f : Fabric → Fabric) : (s.modFab f).fabric = f s.fabric := rfl
@[simp] theorem State.sct_modSct (f : Sct → Sct) : (s.modSct f).sct = f s.sct := rfl
@[simp] theorem State.outbox_emit (o : Out) : (s.emit o).outbox = s.outbox ++ [o] := rfl
@[simp] theorem State.agenda_post (n : Nat) (i : Instr) : (s.post n i).agenda = s.agenda ++ [(.cycle n, i)] := rfl
@[simp] theorem State.agenda_postTick (n : Nat) (i : Instr) : (s.postTick n i).agenda = s.agenda ++ [(.tick n, i)] := rfl
@[simp] theorem State.agenda_postIn (n : Nat) (i : Instr) : (s.postIn n i).agenda = s.agenda ++ [(.cycle (s.now + n), i)] := rfl

end Sys2Proof.Machine
end

