-- ==== Sys2Proof/Laws/Issue.lean ====
section
/-! SUPPORT. What the shared ways of a control instruction can do: issuing (R97 to R99), delivering a value, jumping,
pushing, and taking a fault. -/
namespace Sys2Proof.Machine
open Sys2Proof
variable {s : State}

/-! ## Sequencers -/

@[simp] theorem Seq.gr_zero (q : Seq) : q.gr 0#6 = 0#64 := rfl

/-- A read after a write of a g register: g0 takes nothing. -/
theorem Seq.gr_setG (q : Seq) (d r : BitVec 6) (v : Word) (n : Nat) :
    (q.setG d v n).gr r = if r = d ∧ d ≠ 0#6 then v else q.gr r := by
  unfold Seq.setG Seq.gr
  by_cases hd : d = 0#6
  · simp [hd]
  · have hd' : ¬ d = 0 := hd
    by_cases hr : r = 0#6
    · subst hr; simp [Ne.symm hd]
    · have hr' : ¬ r = 0 := hr
      by_cases h : r = d
      · subst h; simp [hd]
      · have hn : r.toNat ≠ d.toNat := fun e => h (BitVec.eq_of_toNat_eq e)
        simp [hd, hr, h, hn]

/-- Writing a g register leaves the rest of the sequencer. -/
@[simp] theorem Seq.setG_pc (q : Seq) (d : BitVec 6) (v : Word) (n : Nat) : (q.setG d v n).pc = q.pc := by
  unfold Seq.setG; split <;> rfl
@[simp] theorem Seq.setG_csr (q : Seq) (d : BitVec 6) (v : Word) (n : Nat) : (q.setG d v n).csr = q.csr := by
  unfold Seq.setG; split <;> rfl
@[simp] theorem Seq.setG_accs (q : Seq) (d : BitVec 6) (v : Word) (n : Nat) : (q.setG d v n).accs = q.accs := by
  unfold Seq.setG; split <;> rfl

theorem Seq.ready_setG (q : Seq) {d : BitVec 6} (v : Word) (n : Nat) (h : d ≠ 0#6) :
    (q.setG d v n).ready.get 0 d.toNat = n := by
  have h' : ¬ d = 0 := h
  simp [Seq.setG, h]

theorem Seq.goTo_onlyRegs (q : Seq) (now pc gap : Nat) : q.OnlyRegs now (q.goTo now pc gap) := ⟨rfl, rfl⟩

theorem Seq.setG_goTo_onlyRegs (q : Seq) (d : BitVec 6) (v : Word) (n now pc gap : Nat) :
    q.OnlyRegs now ((q.setG d v n).goTo now pc gap) := by
  unfold Seq.setG
  split
  · exact q.goTo_onlyRegs now pc gap
  · exact ⟨rfl, rfl⟩

/-- Setting the current sequencer changes nothing else. -/
theorem State.onlySeq_setSeq (x : Seq) : s.OnlySeq (s.setSeq s.cur x) := by
  refine ⟨?_, s.tile_setSeq s.cur x, fun q h => s.seq_setSeq_ne x h⟩
  cases s.cur <;> rfl

/-- A value delivered to g[d] and a new pc are all that happens. -/
theorem State.delivers_modSeq (d : BitVec 6) (v : Word) (lat pc gap : Nat) :
    s.Delivers (s.modSeq s.cur fun q => (q.setG d v (s.now + lat)).goTo s.now pc gap) d v lat pc gap := by
  refine ⟨State.onlySeq_setSeq _, ?_, ?_, ?_, ?_, ?_, ?_⟩ <;> simp only [State.seq_modSeq_same]
  · exact Seq.setG_goTo_onlyRegs _ _ _ _ _ _ _
  · rfl
  · rfl
  · rfl
  · exact fun r => Seq.gr_setG (s.seq s.cur) d r v _
  · exact fun h => Seq.ready_setG (s.seq s.cur) v _ h

/-- Only the pc moves. -/
theorem State.passes_modSeq (pc gap : Nat) : s.Passes (s.modSeq s.cur fun q => q.goTo s.now pc gap) pc gap :=
  State.delivers_modSeq (s := s) 0#6 0#64 0 pc gap

/-! ## Issue -/

/-- An instruction nothing holds back, legal and permitted, has its effect. -/
theorem issueCtl_clear {regs : List (BitVec 6)} {gate : Bool} (eff : Seq → Out') (h : s.Clear regs gate) :
    issueCtl s regs gate true true eff = eff (s.seq s.cur) := by
  unfold issueCtl; rw [h]; rfl

/-- An illegal one raises ILLEGAL_ENC (R68). -/
theorem issueCtl_illegal {regs : List (BitVec 6)} {gate permitted : Bool} (eff : Seq → Out') (h : s.Clear regs gate) :
    issueCtl s regs gate false permitted eff = .next (s.raise illegalEnc 0#64) := by
  unfold issueCtl; rw [h]; rfl

/-- A legal one that is not permitted raises PERM (R68). -/
theorem issueCtl_forbidden {regs : List (BitVec 6)} {gate : Bool} (eff : Seq → Out') (h : s.Clear regs gate) :
    issueCtl s regs gate true false eff = .next (s.raise perm 0#64) := by
  unfold issueCtl; rw [h]; rfl

/-- The ways an issue can end: it waits, takes a deferred fault, raises ILLEGAL_ENC or PERM, or has its effect. -/
theorem issueCtl_cases (s : State) (regs : List (BitVec 6)) (gate legal permitted : Bool) (eff : Seq → Out') :
    issueCtl s regs gate legal permitted eff = .next s.waitCsq ∨
    (∃ c a p, issueCtl s regs gate legal permitted eff = .next (s.raiseDeferred c a p)) ∨
    (legal = false ∧ issueCtl s regs gate legal permitted eff = .next (s.raise illegalEnc 0#64)) ∨
    (permitted = false ∧ issueCtl s regs gate legal permitted eff = .next (s.raise perm 0#64)) ∨
    (legal = true ∧ permitted = true ∧ issueCtl s regs gate legal permitted eff = eff (s.seq s.cur)) := by
  unfold issueCtl
  split
  · exact .inl rfl
  · exact .inr (.inl ⟨_, _, _, rfl⟩)
  · cases legal <;> cases permitted <;> simp

/-- A form that delivers a value does just that. -/
theorem issueValue_delivers {regs : List (BitVec 6)} {d : BitVec 6} {lat : Nat} {legal : Bool} (v : Seq → Word)
    (hl : legal = true) (h : s.Clear (d :: regs) false) :
    ∃ s', issueValue s regs d lat legal v = .next s' ∧ s.Delivers s' d (v (s.seq s.cur)) lat (s.pcNow + 1) 1 := by
  subst hl
  refine ⟨_, by unfold issueValue; rw [issueCtl_clear _ h]; rfl, ?_⟩
  simpa only [State.modSeq, Seq.retire, Seq.setG_pc] using State.delivers_modSeq (s := s) d (v (s.seq s.cur)) lat (s.pcNow + 1) 1

/-- A jump within the program goes there; one outside raises ILLEGAL_ENC (R67). -/
theorem jumpTo_inside {t : Int} (f : Seq → Seq) (h0 : 0 ≤ t) (h1 : t ≤ 16383) :
    jumpTo s t f = .next (s.modSeq s.cur fun q => (f q).goTo s.now t.toNat 3) := by
  simp [jumpTo, h0, h1]

theorem jumpTo_outside {t : Int} (f : Seq → Seq) (h : t < 0 ∨ 16383 < t) :
    jumpTo s t f = .next (s.raise illegalEnc 0#64) := by
  have : ¬ (0 ≤ t ∧ t ≤ 16383) := by omega
  simp [jumpTo, this]

/-- A tile's instruction that does `f` to the tile and retires. -/
theorem State.passesWith_retire {t : Nat} (f : Tile → Tile) (ht : s.cur = .tile t)
    (hp : (f (s.tile t)).seq.pc = (s.tile t).seq.pc) :
    ∃ s', (s.modTile t f).retireWith id = .next s' ∧ s.PassesWith s' t f := by
  refine ⟨_, rfl, ?_⟩
  have hc : (s.modTile t f).cur = .tile t := ht
  rw [hc]
  refine ⟨rfl, fun u hu => ?_, ?_, ?_, ?_, ?_, ?_, ?_⟩
  · simp [State.modSeq, State.setSeq, State.tile_modTile, hu]
  all_goals simp only [State.modSeq, State.setSeq, State.tile_modTile, State.seq, if_true, id, State.modTile_now]
  · exact Seq.goTo_onlyRegs _ _ _ _
  · rfl
  · exact congrArg (· + 1) hp
  · rfl
  · rfl

end Sys2Proof.Machine
end

