-- ==== Sys2Proof/Laws/Memory.lean ====
section
/-! SUPPORT. Every operation on memory and scratchpad keeps the canonical form, and what each leaves to be read. -/
namespace Sys2Proof
open Sys2Proof.Machine

/-! ## Byte runs -/

theorem NMap.wf_writeBytes (bs : List Byte) : ∀ (m : List Host.Cell) (a : Nat), NMap.wf 0#8 m = true → NMap.wf 0#8 (writeBytes m a bs) = true := by
  induction bs with
  | nil => exact fun _ _ h => h
  | cons b t ih => exact fun m a h => ih _ _ (NMap.wf_set 0#8 m a b h)

/-- A read after a write of bytes: theirs inside the run, what stood there outside it. -/
theorem NMap.get_writeBytes (bs : List Byte) : ∀ (m : List Host.Cell) (a k : Nat),
    NMap.get 0#8 (writeBytes m a bs) k = if a ≤ k ∧ k < a + bs.length then bs.getD (k - a) 0#8 else NMap.get 0#8 m k := by
  induction bs with
  | nil => intro m a k; simp [writeBytes]
  | cons b t ih =>
    intro m a k
    rw [writeBytes, ih, NMap.get_set]
    by_cases hk : k = a
    · subst hk; simp
    · by_cases hi : a + 1 ≤ k ∧ k < a + 1 + t.length
      · obtain ⟨n, rfl⟩ : ∃ n, k = a + 1 + n := ⟨k - (a + 1), by omega⟩
        have h1 : a + 1 + n - a = n + 1 := by omega
        have h2 : a ≤ a + 1 + n ∧ a + 1 + n < a + (b :: t).length := by simp; omega
        rw [if_pos hi, if_pos h2, h1]
        simp
      · have h2 : ¬ (a ≤ k ∧ k < a + (b :: t).length) := by simp; omega
        rw [if_neg hi, if_neg h2, if_neg hk]

/-- An entry put in its place keeps the addresses rising. -/
theorem NMap.rising_insert (k : Nat) (v : Byte) : ∀ (m : List Host.Cell), (m.map Prod.fst).Pairwise (· < ·) → ((NMap.insert m k v).map Prod.fst).Pairwise (· < ·)
  | [], _ => by simp [NMap.insert]
  | (j, w) :: t, h => by
    rw [List.map_cons, List.pairwise_cons] at h
    unfold NMap.insert
    split
    · rw [List.map_cons, List.map_cons, List.pairwise_cons, List.pairwise_cons]
      refine ⟨fun x hx => ?_, h⟩
      rcases List.mem_cons.1 hx with rfl | hx
      · assumption
      · exact Nat.lt_trans ‹k < j› (h.1 x hx)
    · split
      · subst_vars; rw [List.map_cons, List.pairwise_cons]; exact h
      · rw [List.map_cons, List.pairwise_cons]
        refine ⟨fun x hx => ?_, NMap.rising_insert k v t h.2⟩
        obtain ⟨e, he, rfl⟩ := List.mem_map.1 hx
        rcases NMap.mem_insert t k v e he with rfl | he
        · show j < k; omega
        · exact h.1 _ (List.mem_map.2 ⟨e, he, rfl⟩)

namespace Machine

/-! ## Memory -/

theorem Memory.wf_iff (m : Memory) : m.wf = true ↔ NMap.wf 0#8 m.cells = true ∧ (m.hostCells.map Prod.fst).Pairwise (· < ·) := by
  simp [Memory.wf]

/-- An update that leaves the cells leaves the form. -/
theorem Memory.wf_congr {m n : Memory} (hc : n.cells = m.cells) (hh : n.hostCells = m.hostCells) (h : m.wf = true) : n.wf = true := by
  rw [Memory.wf, hc, hh]; exact h

theorem Memory.wf_cells {m : Memory} {c : List Host.Cell} (hc : NMap.wf 0#8 c = true) (h : m.wf = true) : ({ m with cells := c } : Memory).wf = true :=
  (Memory.wf_iff _).2 ⟨hc, ((Memory.wf_iff m).1 h).2⟩

/-- A write of bytes by the host. -/
theorem Memory.wf_writeBytes {m : Memory} (a : Nat) (bs : List Byte) (h : m.wf = true) : ({ m with cells := writeBytes m.cells a bs } : Memory).wf = true :=
  Memory.wf_cells (NMap.wf_writeBytes bs _ a ((Memory.wf_iff m).1 h).1) h

/-- A write of a device. -/
theorem Memory.wf_putDevice {m : Memory} (now pa : Nat) (b : Byte) (h : m.wf = true) : (m.putDevice now pa b).wf = true := by
  unfold Memory.putDevice
  split
  · exact Memory.wf_congr rfl rfl h
  · exact Memory.wf_cells (NMap.wf_set 0#8 _ pa b ((Memory.wf_iff m).1 h).1) h

theorem Memory.wf_putDeviceBytes (bs : List Byte) : ∀ (m : Memory) (now pa : Nat), m.wf = true → (m.putDeviceBytes now pa bs).wf = true := by
  induction bs with
  | nil => exact fun _ _ _ h => h
  | cons b t ih => exact fun m now pa h => ih _ now (pa + 1) (Memory.wf_putDevice now pa b h)

/-- Bytes lost: a frame regranted, a stack lost. -/
theorem Memory.wf_drop {m : Memory} (p : Host.Cell → Bool) (h : m.wf = true) : ({ m with cells := m.cells.filter p } : Memory).wf = true :=
  Memory.wf_cells (NMap.wf_filter 0#8 _ p ((Memory.wf_iff m).1 h).1) h

/-- A host byte written or learnt. -/
theorem Memory.wf_hostByte {m : Memory} (a : Nat) (b : Byte) (h : m.wf = true) : ({ m with hostCells := NMap.insert m.hostCells a b } : Memory).wf = true :=
  (Memory.wf_iff _).2 ⟨((Memory.wf_iff m).1 h).1, NMap.rising_insert a b _ ((Memory.wf_iff m).1 h).2⟩

theorem Memory.wf_reset : (State.reset.mem).wf = true := rfl

/-! ## Scratchpad -/

theorem Tile.spadWf_writeSpad {x : Tile} (off : Nat) (bs : List Byte) (h : x.spadWf = true) : (x.writeSpad off bs).spadWf = true :=
  NMap.wf_writeBytes bs _ off h

theorem Tile.spadWf_congr {x y : Tile} (e : y.spad = x.spad) (h : x.spadWf = true) : y.spadWf = true := by
  rw [Tile.spadWf, e]; exact h

/-- The bytes a restore leaves out (R38). -/
theorem Tile.spadWf_drop {x : Tile} (p : Host.Cell → Bool) (h : x.spadWf = true) : ({ x with spad := x.spad.filter p } : Tile).spadWf = true :=
  NMap.wf_filter 0#8 _ p h

theorem Tile.spadWf_setPoison {x : Tile} (off : Nat) (b : Bool) (h : x.spadWf = true) : (x.setPoison off b).spadWf = true :=
  Tile.spadWf_congr rfl h

/-- A store of a slice, with the poison it clears. -/
theorem Tile.spadWf_storeBytes {x : Tile} (off : Nat) (bs : List Byte) (h : x.spadWf = true) : (x.storeBytes off bs).spadWf = true := by
  have key : ∀ (ls : List Nat) (y : Tile), y.spadWf = true →
      (ls.foldl (fun y l => if off ≤ 64 * l && 64 * l + 64 ≤ off + bs.length then y.setPoison (64 * l) false else y) y).spadWf = true := by
    intro ls
    induction ls with
    | nil => exact fun _ h => h
    | cons l t ih =>
      intro y hy
      refine ih _ ?_
      dsimp only
      split
      · exact Tile.spadWf_setPoison _ _ hy
      · exact hy
  exact key _ _ (Tile.spadWf_writeSpad off bs h)

/-- The loader's scratchpad (R287). -/
theorem spadWf_loaded (v : Vd) (l : Launch) (lt unit : Nat) : (loadedTile v l lt unit).spadWf = true := by
  have key : ∀ (d : List (Nat × List Byte)) (m : List Host.Cell), NMap.wf 0#8 m = true → NMap.wf 0#8 (d.foldl (fun m (off, bs) => writeBytes m off bs) m) = true := by
    intro d
    induction d with
    | nil => exact fun _ h => h
    | cons e t ih => exact fun m h => ih _ (NMap.wf_writeBytes e.2 m e.1 h)
  exact key _ _ rfl

/-! ## The package -/

theorem State.memOk_iff (s : State) : s.memOk = true ↔ s.mem.wf = true ∧ (∀ e ∈ s.tiles, e.2.spadWf = true) ∧
    ∀ l ∈ s.launches, ∀ e ∈ l.saveData, e.2.1.spadWf = true := by
  simp only [State.memOk, Bool.and_eq_true, List.all_eq_true, and_assoc]

/-- An update of memory that keeps its form. -/
theorem State.memOk_modMem {s : State} {f : Memory → Memory} (hf : s.mem.wf = true → (f s.mem).wf = true) (h : s.memOk = true) : (s.modMem f).memOk = true :=
  (State.memOk_iff _).2 ⟨hf ((State.memOk_iff s).1 h).1, ((State.memOk_iff s).1 h).2⟩

/-- The tile read from a good state has a good scratchpad. -/
theorem State.spadWf_tile {s : State} (t : Nat) (h : s.memOk = true) : (s.tile t).spadWf = true := by
  have h2 := ((State.memOk_iff s).1 h).2.1
  have key : ∀ (m : NMap Tile), (∀ e ∈ m, e.2.spadWf = true) → (NMap.get ({} : Tile) m t).spadWf = true := by
    intro m
    induction m with
    | nil => exact fun _ => rfl
    | cons e m ih =>
      intro hm
      obtain ⟨j, v⟩ := e
      unfold NMap.get NMap.find?
      split
      · exact hm _ List.mem_cons_self
      · exact ih fun e he => hm e (List.mem_cons_of_mem _ he)
  exact key _ h2

/-- An update of a tile that keeps its scratchpad's form. -/
theorem State.memOk_setTile {s : State} (t : Nat) {x : Tile} (hx : x.spadWf = true) (h : s.memOk = true) : (s.setTile t x).memOk = true := by
  refine (State.memOk_iff _).2 ⟨((State.memOk_iff s).1 h).1, fun e he => ?_, ((State.memOk_iff s).1 h).2.2⟩
  have h2 := ((State.memOk_iff s).1 h).2.1
  change e ∈ NMap.set {} s.tiles t x at he
  unfold NMap.set at he
  split at he
  · exact h2 e (List.mem_filter.1 he).1
  · rcases NMap.mem_insert _ _ _ e he with rfl | he
    · exact hx
    · exact h2 e he

theorem State.memOk_modTile {s : State} (t : Nat) {f : Tile → Tile} (hf : (s.tile t).spadWf = true → (f (s.tile t)).spadWf = true) (h : s.memOk = true) :
    (s.modTile t f).memOk = true :=
  State.memOk_setTile t (hf (State.spadWf_tile t h)) h

end Machine
end Sys2Proof
end

