-- ==== Sys2Proof/Laws/Save.lean ====
section
/-! SUPPORT. What checking lines and areas does: the lines' errors are met and counted, and the security controller's state
stands. -/
namespace Sys2Proof.Machine
open Sys2Proof

@[simp] theorem State.checkLine_sct (s : State) (pa : Nat) : (s.checkLine pa).1.sct = s.sct := by
  unfold State.checkLine
  split
  · rfl
  · split <;> simp only [State.countCe, State.countMac, State.countUe, State.poisonLine, State.modMem] <;>
      repeat' split <;> rfl

@[simp] theorem State.checkLines_sct (s : State) (l : List Nat) : (s.checkLines l).1.sct = s.sct := by
  induction l generalizing s with
  | nil => rfl
  | cons pa l ih => simp [State.checkLines, ih]

/-- R140, R324: an area whose key ID has been scrubbed cannot be used. -/
theorem State.areaCheck_scrubbed {s : State} {l : Launch} (w : Nat) (h : s.scrubbedKey l.saveKey = true) :
    (s.areaCheck l w).2 = some integrity := by
  simp_all [State.areaCheck, State.scrubbedKey]

/-- R331: a team whose area cannot be used fails with what its check found. -/
theorem State.openArea_scrubbed {s : State} {l : Launch} (v : Vd) (hd : l.saveData.isEmpty = false) (h : s.scrubbedKey l.saveKey = true) :
    (s.openArea l v).2 = .error integrity := by
  unfold State.openArea
  have := State.areaCheck_scrubbed v.world h
  split
  · simp_all
  · split <;> simp_all

end Sys2Proof.Machine
end

