-- ==== Sys2Proof/Tests/Slice0.lean ====
section
/-! SUPPORT. Tests: words of each form against the encodings of chapter 03, ill-formed terms, single steps against the
worked values of the manual, and for each obligation a state and operands that meet its hypotheses. -/
namespace Sys2Proof.Tests
open Sys2Proof Sys2Proof.Machine
set_option Elab.async false

/-! ## Helpers -/

/-- The state a step leaves. -/
def after (o : Host.Outcome State Fault Refusal) : State :=
  match o with
  | .next s => s
  | _ => {}

/-- A state in which tile 0 is `x`, and the current sequencer is its CSQ. -/
def with0 (x : Tile) : State := { tiles := [(0, x)] }

/-- Control registers of a unit in U on a team of two: tile 0 and tile 9 are its logical tiles 0 and 1. -/
def csr0 : Csr := { teamsz := 2#11, lspext := 0x100000#22, ltte := [(0, 0x8000#16), (1, 0x8009#16)] }

/-- A running tile with these g registers, its bundles done. -/
def unit (g : NMap Word) : Tile := { use := .running, team := 1, seq := { on := true, g := g, csr := csr0 }, bsq := { done := true, haltRetired := true } }

/-- A state whose tile 0 is `unit g`. -/
def regs (g : NMap Word) : State := with0 (unit g)

/-- What g register `r` of tile 0 reads after an instruction. -/
def gAfter (i : Instr) (s : State) (r : BitVec 6) : Word := (after (exec i s)).g r

/-- A VD with a heap window over the first 64 KiB of stack 0, in which these 64-bit words lie. -/
def heap (words : List (Nat × Nat)) (v : Vd → Vd := id) : State :=
  { vds := [(1, some (v { vd := 1, world := 1, quires := 1, ctx := { hwlimit := 0x10000#64, hwkey := 1#8, world := 1#8 } }))]
    fitted := { stackMap := 0xFFF, gbPerStack := 48, tierL := 1 }
    sct := { keys := [(1, .bound 1 0)], pcm := [(0, 1)] }
    mem := { tags := [(0, some 1)]
             cells := words.flatMap fun e => ((bytesOf 8 e.2).zipIdx.map fun b => (e.1 + b.2, b.1)).filter fun c => c.2 ≠ 0#8 } }

/-- The cause a fault of tile 0 leaves in ECAUSE. -/
def causeAfter (i : Instr) (s : State) : Nat := ((after (exec i s)).tile 0).seq.csr.ecause.toNat

/-- A state in which tile 0 runs a unit whose handler at 100 takes every fault: the VD's HMASK is all ones. -/
def handled (x : Tile) : State :=
  { tiles := [(0, { x with vd := 1, seq := { x.seq with csr := { x.seq.csr with evec := 100#14 } } })],
    vds := [(1, some { vd := 1, hmask := 2 ^ 64 - 1 })] }

/-! ## Words of the encoding tables (chapter 03, and the programs of chapter 25) -/

theorem test_decode_alu : decode 0x02286310#32 = .min 5#6 3#6 6#6 := by decide
theorem test_decode_imm : decode 0x04285FFD#32 = .addi 5#6 2#6 0x1FFD#13 := by decide
theorem test_decode_lcat : decode 0x1C28055C#32 = .lcat 5#6 0x0055C#19 := by decide
theorem test_decode_branch : decode 0x3A517FFE#32 = .bgeu 10#6 11#6 0x1FFE#13 := by decide
theorem test_decode_load : decode 0x5C884028#32 = .ld64 17#6 2#6 40#13 := by decide
theorem test_decode_store : decode 0x64718020#32 = .st64 14#6 12#6 32#13 := by decide
theorem test_decode_amo : decode 0x6A40E304#32 = .amo64 8#6 7#6 6#6 0#4 4#3 := by decide
theorem test_decode_fence : decode 0x76000009#32 = .qfence 9#9 := by decide
theorem test_decode_push : decode 0x8000A072#32 = .pusht 5#6 3#8 1#1 2#4 ∧ decode 0x84A00029#32 = .pusho 20#6 0x00029#19 := by decide
theorem test_decode_sem : decode 0x90010104#32 = .semwait 1#1 1#8 4#8 ∧ decode 0x9200F004#32 = .semsig 7#6 1#1 0#4 4#8 := by decide
theorem test_decode_unit : decode 0xA2000000#32 = .uend ∧ decode 0xA601E002#32 = .cbw 15#6 2#12 := by decide
theorem test_decode_system : decode 0xC2000000#32 = .eret := by decide

/-! ## Ill-formed terms, one for each check -/

theorem test_wf_extr : wf (.extr 1 2 63#6 1#6) = false ∧ wf (.extr 1 2 63#6 0#6) = true := by decide
theorem test_wf_extrz : wf (.extrz 1 2 0#6 63#6) = true ∧ wf (.extrz 1 2 1#6 63#6) = false := by decide
theorem test_wf_insr : wf (.insr 1 2 31#6 33#6) = false ∧ wf (.insr 1 2 31#6 32#6) = true := by decide
theorem test_wf_amo_function : wf (.amo32 1 2 3 9#4 0#3) = false ∧ wf (.amos64 1 2 3 8#4 4#3) = true := by decide
theorem test_wf_amo_scope : wf (.amo64 1 2 3 0#4 5#3) = false ∧ wf (.amos32 1 2 3 0#4 7#3) = false := by decide
theorem test_wf_cas_scope : wf (.cas 1 2 3 1#1 5#3) = false ∧ wf (.cas 1 2 3 0#1 4#3) = true := by decide
theorem test_wf_pushm : wf (.pushm 1 0#3 5#8) = false ∧ wf (.pushm 1 7#3 5#8) = true := by decide
theorem test_wf_semwait : wf (.semwait 1#1 0#8 3#8) = false ∧ wf (.semwait 0#1 0#8 3#8) = true := by decide
theorem test_wf_semsig : wf (.semsig 1 0#1 0#4 0#8) = false ∧ wf (.semsig 0 0#1 0#4 0#8) = true := by decide
theorem test_wf_strm : wf (.strm 1 2#2 0#6) = false ∧ wf (.strm 1 3#2 0#6) = true := by decide
theorem test_wf_unassigned : wf (.unassignedControlWord 0xA2000000#32) = false ∧ wf (.unassignedControlWord 0xA2000001#32) = true := by decide
theorem test_wf_event : wf (.bundleIssue 0) = false ∧ wf .vtAdvance = false := by decide

/-! ## Single steps against the worked values of the manual -/

/-- R104, words 1 to 3 of the worked example. -/
theorem test_lcat : gAfter (.lcat 5 0x10040#19) (regs [(5, 0x0000_0800_0000_055C#64)]) 5 = 0x4000_0000_2AE1_0040#64 := by decide +kernel
theorem test_lcat_first : gAfter (.lcat 5 0#19) (regs [(5, 0x20#64)]) 5 = 0x100_0000#64 := by decide +kernel
/-- R117: cycles 2, 3 and 15 of the worked example. -/
theorem test_min : gAfter (.min 5 3 6) (regs [(3, 150#64), (6, 64#64)]) 5 = 64#64 := by decide +kernel
theorem test_pusht : (((after (exec (.pusht 5 0#8 1#1 0#4) (regs [(5, 64#64)]))).tile 0).bsq.cq.map (·.w)) = [0x1008_0000_0000_0040#64] := by
  decide +kernel
theorem test_pusht_epilogue :
    (((after (exec (decode 0x8000A050#32) (regs [(5, 22#64)]))).tile 0).bsq.cq.map (·.w)) = [0x1028_0000_0000_0016#64] := by decide +kernel
/-- R101: the corners of division. -/
theorem test_div_corner : gAfter (.div 5 3 6) (regs [(3, 0x8000_0000_0000_0000#64), (6, 0xFFFF_FFFF_FFFF_FFFF#64)]) 5 = 0x8000_0000_0000_0000#64 := by
  decide +kernel
theorem test_rem_zero : gAfter (.rem 5 3 6) (regs [(3, 0xFFFF_FFFF_FFFF_FFF9#64)]) 5 = 0xFFFF_FFFF_FFFF_FFF9#64 := by decide +kernel
/-- R102, R103. -/
theorem test_addi_negative : gAfter (.addi 5 2 0x1FFD#13) (regs [(2, 1#64)]) 5 = 0xFFFF_FFFF_FFFF_FFFE#64 := by decide +kernel
theorem test_g0 : gAfter (.addi 0 2 1#13) (regs [(2, 1#64)]) 0 = 0#64 := by decide +kernel
theorem test_extr_sign : gAfter (.extr 5 2 7#6 4#6) (regs [(2, 0x800#64)]) 5 = 0xFFFF_FFFF_FFFF_FF80#64 := by decide +kernel
theorem test_insr : gAfter (.insr 5 2 3#6 60#6) (regs [(2, 0x2A#64), (5, 0x5555_5555_5555_5555#64)]) 5 = 0xA555_5555_5555_5555#64 := by
  decide +kernel
theorem test_extr_illegal : causeAfter (.extr 5 2 63#6 1#6) (regs []) = 0x01 := by decide +kernel
/-- R105, R106: the loop of R117's example branches from word 5 to word 2; JL links the next word. -/
theorem test_bne_taken : ((after (exec (decode 0x32181FFD#32) (with0 { unit [(3, 86#64)] with seq := { (unit [(3, 86#64)]).seq with pc := 5 } }))).seq
    (.tile 0)).pc = 2 := by decide +kernel
theorem test_jl_link : gAfter (.jl 0x10#25) (regs []) 63 = 1#64 := by decide +kernel
/-- R33, the table of addresses. -/
theorem test_addresses : (checkAddr (regs []) 0 0x8000_0000_000F_FFC0#64 64).toOption.isSome = true ∧
    (match checkAddr (regs []) 0 0x8000_0000_0010_0000#64 64 with | .error c => c | _ => 0) = spadBounds ∧
    (match checkAddr (regs []) 0 0x8000_0000_0020_0000#64 64 with | .error c => c | _ => 0) = canon := by decide +kernel
theorem test_addresses_far : (match checkAddr (regs []) 0 0x4000_0000_0060_0040#64 64 with | .error c => c | _ => 0) = spadBounds ∧
    (match checkAddr (regs []) 0 0x0100_0000_0000_0000#64 64 with | .error c => c | _ => 0) = canon ∧
    (match checkAddr (regs []) 0 0xC000_0000_0000_0000#64 64 with | .error c => c | _ => 0) = canon := by decide +kernel
/-- R119, R121: a SEMSIG of 1 adds 1, and a SEMWAIT that consumes takes its threshold. -/
theorem test_semsig : ((after (exec (.semsig 0 0#1 0#4 4#8) (regs []))).tile 0).semVal 4 = 1 := by decide +kernel
theorem test_semwait : ((after (exec (.semwait 1#1 3#8 9#8) (with0 { unit [] with sem := [(9, 3#16)] }))).tile 0).semVal 9 = 0 := by decide +kernel
/-- R27: a zero written to SRSTATE2. -/
theorem test_srstate_zero : ((after (exec (.csrw 5 0x04A#12) (regs []))).tile 0).seq.csr.srstate.get 0#64 2 = 0x9E37_79B9_7F4A_7C15#64 := by
  decide +kernel
/-- R30, R130, R131: TRAP 7 goes to the handler; ERET comes back behind it. -/
theorem test_trap : ((after (exec (.trap 7#13) (handled (unit [])))).seq (.tile 0)).pc = 100 ∧
    ((after (exec (.trap 7#13) (handled (unit [])))).seq (.tile 0)).csr.epc = 1#14 ∧
    ((after (exec (.trap 7#13) (handled (unit [])))).seq (.tile 0)).csr.eaddr = 7#64 := by decide +kernel
theorem test_eret : ((after (exec .eret (after (exec (.trap 7#13) (handled (unit [])))))).seq (.tile 0)).pc = 1 ∧
    ((after (exec .eret (after (exec (.trap 7#13) (handled (unit [])))))).seq (.tile 0)).csr.mode = 0#2 := by decide +kernel

/-! ## Numbers and bundles -/

/-- R52: the first step of the worked example of chapter 02. -/
theorem test_xorshift : xsStep 1#64 = 0x4082_2041#64 := by decide +kernel
/-- R49, R50: 1 + 7/1024 to BF16 under RS with lane 0's and lane 2's bits, and under RNE. -/
theorem test_stochastic : (roundTo .bf16 { mode := .rs, rnd := 0x2041 } (Fmt.fp32.value 0x3F80E000)).1 = 0x3F81 ∧
    (roundTo .bf16 { mode := .rs, rnd := 0 } (Fmt.fp32.value 0x3F80E000)).1 = 0x3F80 ∧
    (roundTo .bf16 {} (Fmt.fp32.value 0x3F80E000)) = (0x3F81, flagNX) := by decide +kernel
/-- R45: the block of the worked example. -/
theorem test_mxq : mxQuantise .e2m1 {} [0, 0, 0, 0]
    [.fin false 5 0, .fin false 3 (-2), .fin false 1 (-2), .fin true 0xA66666 (-22)] = (0x7F, [0x6, 0x2, 0x0, 0xD], flagUF ||| flagNX) := by
  decide +kernel
/-- R62: the group sums 1.0 and 4.0 added to 2^24. -/
theorem test_group_sum : mmaRound 0x4B800000#32 [.fin false 1 (-1), .fin false 1 (-1)] = 0x4B800000#32 ∧
    mmaRound 0x4B800000#32 (List.replicate 8 (.fin false 1 (-1))) = 0x4B800002#32 := by decide +kernel

/-- A running tile whose bundle program starts with these units. -/
def bnd (w : List Word) : Tile :=
  { unit [] with bsq := {}, bprog := ((w.zipIdx.map fun e => (e.2, e.1)).filter fun e => e.2 ≠ 0#64) }

/-- The fragment of chapter 03: LOOP with XPOP 0, an SADD of s3 and an FMA. The TRIP entry opens the loop. -/
def fragment : Tile :=
  { bnd [0x8800_00C4_0000_0000#64, 0x0040_3400_F040_0000#64, 0x2000_5000_4002_0014#64] with
    bsq := { cq := [{ w := 0x1039_0000_0000_0007#64, pushedAt := 0, pos := 0 }] } }
theorem test_fragment_loop : ((after (exec (.bundleIssue 0) { with0 fragment with now := 2 })).tile 0).bsq.issued = 1 ∧
    ((after (exec (.bundleIssue 0) { with0 fragment with now := 2 })).tile 0).bsq.cq = [] := by decide +kernel
theorem test_fragment_results : ((after (exec (.bundleIssue 0) { with0 fragment with now := 2 })).tile 0).bsq.pend.map (fun p => (p.tgt, p.data)) =
    [(.sreg 3, 64#512), (.vreg 5 0xFFFF#16, 0#512)] := by decide +kernel

/-! ## The hypotheses of the statements can be met -/

theorem test_meets_DecodeOfEncode : wf (.amos64 63 63 63 8#4 4#3) = true ∧ wf (.extr 1 2 63#6 0#6) = true ∧
    wf (.unassignedControlWord 0xFFFF_FFFF#32) = true := by decide

theorem test_meets_StepRunsTheDecodedWord :
    (State.reset.withFetchWord 32 0x04285FFD).turns = [.csq (.tile 0) .any] ∧
    (State.reset.withFetchWord 32 0x04285FFD).csqLive (.tile 0) = true ∧
    ((State.reset.withFetchWord 32 0x04285FFD).seq (.tile 0)).pc < 16384 ∧
    decode (((State.reset.withFetchWord 32 0x04285FFD).seq (.tile 0)).prog.get 0#32 0) = .addi 5 2 0x1FFD#13 := by decide +kernel
/-- The other clause: the pc just past the program, in the middle of the cycle. -/
theorem test_meets_StepRunsTheDecodedWord_past :
    let s := { with0 { unit [] with seq := { (unit []).seq with pc := 16384 } } with turns := [.csq (.tile 0) .mid] }
    s.csqLive (.tile 0) = true ∧ 16384 ≤ (s.seq (.tile 0)).pc ∧ CsqSlot.mid = csqSlotOf (s.seq (.tile 0)) s.now (.unassignedControlWord 0#32) := by
  decide +kernel

/-- A state that lists a byte, and a step that goes on. -/
theorem test_meets_EveryStepKeepsMemory :
    let s := { State.reset.withFetchWord 32 0x04285FFD with mem := { cells := [(64, 7#8)], hostCells := [(5, 0#8)] } }
    s.memOk = true ∧ s.goesOn = true := by decide +kernel

theorem test_meets_ModesStayLegal : State.reset.ModesLegal ∧ ∃ s', exec (decode 0x04285FFD#32) State.reset = .next s' :=
  ⟨fun q => match q with
    | .tile _ => .inl rfl
    | .keeper _ => .inr rfl, _, rfl⟩

theorem test_meets_RegisterForms : (regs [(6, 64#64)]).Clear [5, 3, 6] false ∧ (regs [(6, 64#64)]).Clear [5, 3] false ∧
    (regs [(6, 64#64)]).g 6 ≠ 0#64 ∧ (regs [(6, 64#64)]).g 3 = 0#64 := by simp only [State.Clear]; decide +kernel

theorem test_meets_ImmediateAndFieldForms : (regs []).Clear [5, 3] false ∧ (regs []).Clear [5] false ∧
    (63#6).toNat + ((0#6).toNat + 1) ≤ 64 ∧ 64 < (1#6).toNat + ((63#6).toNat + 1) := by simp only [State.Clear]; decide +kernel

/-- Targets 0, −1, 16 383 and 16 384; a condition that holds and one that does not. -/
theorem test_meets_ControlTransfers :
    let at_ (n : Nat) : State := with0 { unit [(3, 7#64), (4, 16383#64), (5, 16384#64)] with seq := { (unit [(3, 7#64), (4, 16383#64), (5, 16384#64)]).seq with pc := n } }
    (at_ 5).Clear [3, 0] false ∧ (at_ 5).g 3 ≠ (at_ 5).g 0 ∧ ((at_ 5).pcNow : Int) + (0x1FFB#13).toInt = (0 : Nat) ∧
    ((at_ 5).pcNow : Int) + (0x1FFA#13).toInt < 0 ∧ ((at_ 16383).pcNow : Int) + (1#13).toInt = (16384 : Nat) ∧
    ((at_ 16382).pcNow : Int) + (1#25).toInt = (16383 : Nat) ∧ (at_ 5).Clear [63] false ∧ (at_ 5).Clear [] false ∧
    ((at_ 5).g 4 + BitVec.ofInt 64 (0#13).toInt).toNat ≤ 16383 ∧ 16383 < ((at_ 5).g 5 + BitVec.ofInt 64 (0#13).toInt).toNat := by
  simp only [State.Clear]; decide +kernel

theorem test_meets_FaultIsTaken : ((handled (unit [])).tile 0).seq.csr.mode = 0#2 ∧ ((handled (unit [])).tile 0).seq.csr.evec ≠ 0#14 ∧
    (handled (unit [])).hmaskHas 0 0x12 = true ∧ ((handled (unit [])).tile 0).keeperStopped = false ∧
    ((regs []).tile 0).keeperStopped = false ∧ ((regs []).tile 0).seq.csr.evec = 0#14 := by decide +kernel

theorem test_meets_ResultsAreAwaited :
    let s := { with0 { unit [] with seq := { (unit []).seq with ready := [(1, 10), (63, 10)] } } with now := 9 }
    (∀ r ∈ [1#6, 63#6], r ≠ 0#6 ∧ s.now < (s.seq s.cur).ready.get 0 r.toNat) ∧ (s.seq s.cur).accs = [] := by decide +kernel

/-- A keeper sequencer that runs, with these g registers. -/
def keeper (g : NMap Word) : State := { cur := .keeper 3, keepers := [(3, { on := true, g := g, csr := { mode := 1#2 } })] }

theorem test_meets_RefusedForms : (regs []).Clear [1, 2, 3] false ∧ (regs []).Clear [1, 2] false ∧ (regs []).Clear [1] false ∧
    (regs []).Clear [] false ∧ (regs []).pcNow < 16384 ∧ 8 < (9#4).toNat ∧ 4 < (5#3).toNat ∧ ((regs []).seq (regs []).cur).mode = 0#2 ∧
    (keeper [(2, 255#64)]).Clear [1, 2] false ∧ ((keeper [(2, 255#64)]).g 1).toNat = 0 ∧ 254 < ((keeper [(2, 255#64)]).g 2).toNat ∧
    ((regs [(2, 2#64)]).tile 0).team ≠ ((regs [(2, 2#64)]).g 2).toNat % 2 ^ 16 := by simp only [State.Clear]; decide +kernel

theorem test_meets_AddressChecks : (0xC000_0000_0000_0000#64).toNat / 2 ^ 62 = 3 ∧ (0x3FFF_FFFF_FFFF_FFFF#64).toNat / 2 ^ 62 = 0 ∧
    (0x8000_0000_0000_0000#64).toNat / 2 ^ 62 = 2 ∧ (0x7FFF_FFFF_FFFF_FFFF#64).toNat / 2 ^ 62 = 1 := by decide

/-- The first failing part of an access, as `AccessIssue` says it. -/
def firstBad (s : State) (a : Word) (w : Nat) : Option (Nat × Nat) :=
  (splitLines a.toNat w).findSome? fun p =>
    match checkSeqAddr s s.cur (BitVec.ofNat 64 p.addr) p.len with
    | .error c => some (c, p.addr)
    | .ok _ => none

/-- The last doubleword of the live extent, and one that crosses its end. -/
theorem test_meets_AccessIssue : (regs []).Clear [5, 3] false ∧ (regs []).Clear [5, 3, 6] false ∧
    firstBad (regs []) 0x8000_0000_000F_FFF8#64 8 = none ∧
    firstBad (regs []) 0x8000_0000_000F_FFFC#64 8 = some (spadBounds, 0x8000_0000_0010_0000) ∧
    ((regs []).seq (regs []).cur).csr.ptile 1 = some 9 := by simp only [State.Clear]; decide +kernel

/-- A tile with one access of eight bytes at `addr`, translated to its own scratchpad at `off`. -/
def oneAccess (kind : AccKind) (q addr off rd : Nat) : State :=
  with0 { unit [] with seq := { (unit []).seq with
    accs := [{ id := 0, q := q, kind := kind, addr := BitVec.ofNat 64 addr, width := 8, rd := rd, pc := 0, issuedAt := 0
               parts := (splitLines addr 8).map fun p => { p with tgt := some (.spad 0 (off + (p.addr - addr))) } }], nextAcc := 1 } }

/-- An access across a line at the end of the slice, and one inside a line. -/
theorem test_meets_ScratchpadAccess :
    let s := oneAccess (.load true) 0 (0x8000_0000_0000_0000 + 0x1F_FFF8) 0x1F_FFF8 5
    let u := oneAccess .store 1 (0x8000_0000_0000_0000 + 60) 60 5
    (∃ x, s.acc? (.tile 0) 0 = some x ∧ s.accDue (.tile 0) x = true ∧ x.q = 0 ∧ 0x1F_FFF8 + x.width ≤ 2 ^ 21 ∧
      0x1F_FFF8 % 64 = x.addr.toNat % 64 ∧ s.tagOk 0 x.ctx.world.toNat = true ∧ (∀ p ∈ x.parts, (s.tile 0).poisoned 0x1F_FFF8 = false)) ∧
    ∃ x, u.acc? (.tile 0) 0 = some x ∧ u.accDue (.tile 0) x = true ∧ x.kind = .store ∧ x.parts.length = 2 ∧ u.tagOk 0 x.ctx.world.toNat = true :=
  ⟨⟨_, rfl, by decide +kernel⟩, ⟨_, rfl, by decide +kernel⟩⟩

theorem test_meets_ScratchpadAtomic :
    let s := oneAccess (.amo 8) 2 (0x8000_0000_0000_0000 + 0x1F_FFF8) 0x1F_FFF8 5
    ∃ x p, s.acc? (.tile 0) 0 = some x ∧ s.accDue (.tile 0) x = true ∧ x.parts = [p] ∧ p.tgt = some (.spad 0 0x1F_FFF8) ∧ p.got = none ∧
      p.attr.typ = 0 ∧ s.tagOk 0 x.ctx.world.toNat = true ∧ (s.tile 0).poisoned 0x1F_FFF8 = false ∧ x.data.toNat < 2 ^ (8 * 8) :=
  ⟨_, _, rfl, by decide +kernel, rfl, by decide +kernel⟩

theorem test_meets_MarkAndFence :
    let s := oneAccess .store 1 (0x8000_0000_0000_0000 + 64) 64 5
    (s.Clear [] true ∧ (s.tile 0).wbuf = [] ∧ (s.tile 0).seq.fence = none ∧
      (s.tile 0).seq.accs.all (fun a => a.q = 1 && !a.performed && a.fault.isNone && a.id < (s.tile 0).seq.nextAcc) = true) ∧
    (regs []).Clear [] true ∧ (((regs []).tile 0).seq.accs.all fun a => a.performed || a.fault.isSome) = true ∧ (2#9).getLsbD 1 = true := by
  simp only [State.Clear]; decide +kernel

theorem test_meets_Pushes :
    let e : CqEnt := { w := 0#64, pushedAt := 0, pos := 0 }
    let full := with0 { unit [] with bsq := { cq := List.replicate 64 e } }
    let last := with0 { unit [] with bsq := { cq := List.replicate 63 e } }
    full.Clear [5] false ∧ 64 ≤ (full.tile 0).bsq.cq.length ∧ last.Clear [5] false ∧ last.Clear [] false ∧ (last.tile 0).bsq.cq.length < 64 := by
  simp only [State.Clear]; decide +kernel

/-- Semaphore 4 at 65 535; g5 names logical tile 1, g6 one that is absent, and g7 and g8 lie about the limit. -/
theorem test_meets_Semaphores :
    let s := with0 { unit [(5, 1#64), (6, 2#64), (7, 65535#64), (8, 65536#64)] with sem := [(3, 65534#16), (4, 65535#16)] }
    s.Clear [] false ∧ s.Clear [] true ∧ s.Clear [5] true ∧ s.Clear [6] true ∧ s.Clear [7] false ∧ s.Clear [8] false ∧
    (s.tile 0).semSeen 5 < (1#8).toNat ∧ (255#8).toNat ≤ (s.tile 0).semSeen 4 ∧ (s.g 7).toNat ≤ 65535 ∧ 65535 < (s.g 8).toNat ∧
    (s.tile 0).semVal 3 + (0#4).toNat + 1 ≤ 65535 ∧ 65535 < (s.tile 0).semVal 4 + (0#4).toNat + 1 ∧
    (s.seq s.cur).csr.ptile (s.g 5).toNat = some 9 ∧ (s.seq s.cur).csr.ptile (s.g 6).toNat = none ∧ s.linksDown = [] ∧
    ((s.tile 0).seq.accs.all (·.performed)) = true ∧ (s.tile 0).wbuf = [] := by simp only [State.Clear]; decide +kernel

theorem test_meets_FarIncrement :
    let s := with0 { unit [] with sem := [(4, 65535#16)] }
    s.tagOk 0 0 = true ∧ s.tagOk 0 1 = false ∧ (s.tile 0).semVal 4 + 0 ≤ 65535 ∧ 65535 < (s.tile 0).semVal 4 + 1 ∧
    (s.tile 0).use = .running ∧ (s.tile 0).freeze = none ∧ (with0 { use := .parked }).tagOk 0 0 = true := by decide +kernel

/-- Logical tile 1 is physical tile 9, parked; logical tile 2 is absent. -/
theorem test_meets_SpawnForm :
    let s : State := { tiles := [(0, unit [(5, 1#64), (6, 16383#64), (7, 16384#64), (4, 2#64)]), (9, { use := .parked, team := 1 })] }
    s.Clear [5, 6, 8, 9, 10, 11, 12, 13, 14, 15] true ∧ s.Clear [4, 6, 8, 9, 10, 11, 12, 13, 14, 15] true ∧
    (s.tile 0).seq.csr.ptile (s.g 5).toNat = some 9 ∧ (s.g 5).toNat < (s.tile 0).seq.csr.teamsz.toNat ∧ (s.tile 0).seq.csr.ptile (s.g 4).toNat = none ∧
    (s.g 6).toNat ≤ 16383 ∧ 16383 < (s.g 7).toNat ∧ (s.tile 9).use = .parked ∧ ((s.tile 0).seq.accs.all (·.performed)) = true ∧
    (s.tile 0).wbuf = [] ∧ (s.tile 0).use ≠ .parked := by simp only [State.Clear]; decide +kernel

/-- A tile that is loading, and one whose UEND may end its unit in this cycle. -/
theorem test_meets_Units :
    let s := with0 { use := .loading, spawned := true }
    let u := with0 { unit [] with seq := { (unit []).seq with endAt := some 0 } }
    let w := with0 { unit [] with bsq := {} }
    let c := with0 { unit [] with bsq := { done := true, haltRetired := true, cq := [{ w := 0#64, pushedAt := 0, pos := 0 }] } }
    let d := with0 { c.tile 0 with clamped := some 4, seq := { (c.tile 0).seq with endAt := some 0 } }
    (s.tile 0).use = .loading ∧ (s.tile 0).spawned = true ∧
    u.Clear [] true ∧ (u.tile 0).mayEnd = true ∧ (u.tile 0).clamped = none ∧ (u.tile 0).bsq.cq = [] ∧ (u.tile 0).seq.endAt = some u.now ∧
    u.launch? (u.tile 0).launch = none ∧
    w.Clear [] true ∧ (w.tile 0).mayEnd = false ∧ c.Clear [] true ∧ (c.tile 0).mayEnd = true ∧ (c.tile 0).bsq.cq ≠ [] ∧ (c.tile 0).seq.endAt ≠ some c.now ∧
    d.Clear [] true ∧ (d.tile 0).mayEnd = true ∧ (d.tile 0).clamped.isSome = true ∧ (d.tile 0).bsq.cq ≠ [] ∧ (d.tile 0).seq.endAt = some d.now := by
  simp only [State.Clear]; decide +kernel

/-- g4 names the last block of the bank, g5 one past it, g6 one that is not aligned; the bank holds no other bits. -/
theorem test_meets_ConstantsAndStreams :
    let x := unit [(4, 4080#64), (5, 4096#64), (6, 8#64)]
    let s := with0 x
    let u := with0 { x with seq := { x.seq with strmUntil := some 0 } }
    let c := with0 { x with bsq := { x.bsq with cq := [{ w := 0#64, pushedAt := 0, pos := 0 }] } }
    s.Clear [5] false ∧ s.Clear [] false ∧ (s.tile 0).seq.strmUntil = none ∧ (s.tile 0).strmReady 0 63 s.now = true ∧
    4080 < (s.g 5).toNat ∧ (s.g 6).toNat % 16 ≠ 0 ∧ (s.g 4).toNat ≤ 4080 ∧
    (c.tile 0).seq.strmUntil = none ∧ (c.tile 0).bsq.cq ≠ [] ∧ c.Clear [5] false ∧
    (u.tile 0).seq.strmUntil = some 0 ∧ (((u.tile 0).constView.descriptor 4080 true).any fun y => y.outside (u.tile 0).live = none) = true ∧
    u.Clear [4] false := by simp only [State.Clear]; decide +kernel

theorem test_meets_TrapAndReturn :
    let s := handled (unit [])
    let in_ (e : BitVec 2) : State := with0
      { unit [] with
        freeze := some { since := 0, kind := .handler }
        seq := { (unit []).seq with csr := { csr0 with mode := 1#2, estatus := e } } }
    s.Clear [] true ∧ (s.tile 0).seq.csr.mode = 0#2 ∧ (s.tile 0).seq.csr.evec ≠ 0#14 ∧ s.hmaskHas 0 trapF = true ∧ (s.tile 0).keeperStopped = false ∧
    (in_ 0).Clear [] false ∧ (in_ 0).cur = .tile 0 ∧ ((in_ 0).tile 0).seq.csr.mode ≠ 0#2 ∧ ((in_ 0).tile 0).seq.csr.estatus = 0#2 ∧
    (in_ 2).Clear [] false ∧ ((in_ 2).tile 0).seq.csr.estatus = 2#2 ∧ ((in_ 0).tile 0).seq.csr.epcPast = false := by simp only [State.Clear]; decide +kernel

/-- A tile with a bundle result still due is not quiescent. -/
theorem test_meets_ControlRegisterRead :
    let s := regs []
    let p : PendRes := { tgt := .none, due := 9, refDue := 9, order := 0 }
    let u := with0 { unit [] with bsq := { done := true, pend := [p] }, seq := { (unit []).seq with csr := { csr0 with mode := 1#2 } } }
    s.Clear [5] false ∧ ((s.seq s.cur).csr).mode = 0#2 ∧ s.quiet s.cur = true ∧ (0x7FF#12).toNat = 0x400 + 1023 ∧
    u.Clear [5] false ∧ u.quiet u.cur = false ∧ ((u.seq u.cur).csr).mode ≠ 0#2 := by simp only [State.Clear]; decide +kernel

/-- g5 is 2 MiB, g6 just above, g7 no multiple of 64. -/
theorem test_meets_ControlRegisterWrite :
    let x := unit [(5, 0x20_0000#64), (6, 0x20_0040#64), (7, 0x1F_FFFF#64)]
    let s := with0 x
    let u := with0 { x with seq := { x.seq with csr := { csr0 with mode := 1#2 } } }
    s.Clear [5] false ∧ s.quiet s.cur = true ∧ (s.tile 0).seq.csr.mode = 0#2 ∧ u.Clear [5] false ∧ u.Clear [6] false ∧ u.Clear [7] false ∧
    u.quiet u.cur = true ∧ (u.tile 0).seq.csr.mode ≠ 0#2 ∧ (u.tile 0).otherContexts ≤ 4 ∧ (u.g 5).toNat % 64 = 0 ∧ (u.g 5).toNat ≤ 0x200000 ∧
    (u.tile 0).seq.csr.lspext.toNat ≤ (u.g 5).toNat ∧ 0x200000 < (u.g 6).toNat ∧ (u.g 7).toNat % 64 ≠ 0 := by
  simp only [State.Clear]; decide +kernel

theorem test_meets_TimeAndEvents : (regs []).Clear [5] false ∧ (regs []).Clear [] false ∧ ((regs []).tile 0).latch = false ∧
    (with0 { unit [] with latch := true }).Clear [] false ∧ ((with0 { unit [] with latch := true }).tile 0).latch = true := by
  simp only [State.Clear]; decide +kernel

/-- Key IDs 1 and 254 on a keeper sequencer, one of whose kills is still out; a handler's HALTB of its own team. -/
theorem test_meets_KillsHaltsAndKeys :
    let s := keeper [(1, 1#64), (2, 254#64), (4, 1#64)]
    let k : State := { s with kills := [{ id := 1, by_ := some (.keeper 3), asid := 0, world := 0, dies := [0] }] }
    let h := with0 { unit [(4, 1#64)] with seq := { (unit [(4, 1#64)]).seq with csr := { csr0 with mode := 1#2 } } }
    let l : State := { s with launches := [{ id := 1, vd := 1, lcb := 0, team := 1, tiles := [0, 9], st := .running }] }
    s.Clear [1, 2] false ∧ s.Clear [1] false ∧ s.Clear [] false ∧ (s.seq s.cur).mode ≠ 0#2 ∧ 1 ≤ (s.g 1).toNat ∧ (s.g 2).toNat ≤ 254 ∧
    s.rotRefusal 1 254 = none ∧ s.kills = [] ∧ k.Clear [] false ∧ (k.kills.all fun x => x.by_ = some k.cur && x.doneAt.isNone) = true ∧
    h.Clear [4] false ∧ (h.seq h.cur).mode ≠ 0#2 ∧ (h.tile 0).team = (h.g 4).toNat % 2 ^ 16 ∧
    l.Clear [4] false ∧ (l.team? ((l.g 4).toNat % 2 ^ 16)).isSome = true ∧ (l.g 4).toNat % 2 ^ 16 ≠ 0 := by
  simp only [State.Clear]; decide +kernel

theorem test_meets_KeeperLacksTileForms : (keeper []).Clear [5] false ∧ (keeper []).Clear [] false ∧ (keeper []).Clear [] true ∧
    (keeper []).cur = .keeper 3 := by simp only [State.Clear]; decide +kernel

/-- What the next issue of a tile comes to. -/
def planOf (x : Tile) : Nat :=
  match x.plan 0 0 with
  | .stall => 0
  | .lock => 1
  | .fault _ _ _ => 2
  | .go _ => 3

/-- A NEXT bundle issues, one with a low header bit faults, a LOOP with an empty CQ stalls, and under profile 4 an SADD of
s3 waits for a result of s3 that is due. -/
theorem test_meets_BundleIssue :
    let p : PendRes := { tgt := .sreg 3, due := 9, refDue := 0, order := 0 }
    let lock := { bnd [0x8000_0000_0000_0000#64, 0x0040_3400_F040_0000#64] with bsq := { profile4 := true, pend := [p] } }
    planOf (bnd []) = 3 ∧ planOf (bnd [1#64]) = 2 ∧ planOf (bnd [0x4_0000_0000#64]) = 0 ∧ planOf lock = 1 ∧
    ((bnd []).use = .running ∧ (bnd []).freeze = none ∧ (bnd []).bsq.done = false ∧ (bnd []).bsq.skip = none ∧ (bnd []).faults = []) := by
  decide +kernel

/-- Each flow code, a CQ entry that is old enough, and a loop stack that is full. -/
theorem test_meets_BundleFlow :
    let w (f : Nat) : Word := BitVec.ofNat 64 (f * 2 ^ 34)
    ((List.range 8).all fun f => (bnd [w f]).header.flow = f && (bnd [w f]).header.low = 0 && (bnd [w f]).header.pres = 0) = true ∧
    (bnd [w 8]).header.flow = 8 ∧ (bnd [w 8]).bsq.pc + (bnd [w 8]).header.units ≤ 24576 ∧
    (∀ n < 8, (bnd [w n]).bsq.issued = 0 ∧ (bnd [w n]).bsq.first = true ∧ (bnd [w n]).bsq.slots = [] ∧ (bnd [w n]).bsq.profile4 = false) := by
  decide +kernel

theorem test_meets_BundleRetire :
    let r : Retire := { due := 13, cq := [], pops := [], resv := [], halt := true }
    let x := { unit [] with bsq := { window := [r] } }
    x.use = .running ∧ x.freeze = none ∧ x.bsq.window = [r] ∧ r.due ≤ 13 ∧ x.storesDone = true ∧ x.faultsNow 0 13 = false := by decide +kernel

theorem test_meets_BundleResults :
    let r : PendRes := { tgt := .kreg 63 0xFFFF#16, due := 6, refDue := 6, order := 0, cluster := 7 }
    let p : PendStore := { st := .write [(0x1F_FFFF, 7#8)] none, due := 6, order := 0 }
    let x := { unit [] with bsq := { pend := [r], stores := [p] } }
    x.freeze = none ∧ x.bsq.profile4 = false ∧ r.due ≤ 6 ∧ x.mat.queue = [] ∧ r.cluster < 8 ∧ 63 = 8 * 7 + 7 ∧ ([(0x1F_FFFF, 7#8)].map Prod.fst).Nodup := by
  decide +kernel

theorem test_meets_FreezeAndResume :
    let f : PendFault := { code := 0x04, slot := 1, bsq := true, ebaddr := 24575 }
    let s := handled { unit [] with faults := [f] }
    let u := with0 { unit [] with freeze := some { since := 0, kind := .handler, resumeAt := some 9 } }
    (s.tile 0).faults = [f] ∧ s.csqFaultNow 0 = false ∧ (s.tile 0).freeze = none ∧ f.async = false ∧ f.far = false ∧
    (s.tile 0).seq.csr.mode = 0#2 ∧ (s.tile 0).seq.csr.evec ≠ 0#14 ∧ s.hmaskHas 0 f.code = true ∧
    (u.tile 0).freeze = some { since := 0, kind := .handler, resumeAt := some 9 } ∧ (u.tile 0).held = [] := by decide +kernel

/-- A read port with its last element still to fetch, one whose element arrives, and a write port with one to write. -/
theorem test_meets_Streams :
    let n : Dims := { d0 := 2, d1 := 1, d2 := 1, d3 := 1 }
    let e : Elem := { off := 64, readyAt := 8 }
    let x := { unit [] with ports := [(0, { bound := true, cnt := n, next := 1 }), (5, { bound := true, cnt := n, next := 2, buf := [e] }),
      (63, { bound := true, write := true, buf := [e] })] }
    x.nextFetch 8 = some 0 ∧ (x.port 5).bound = true ∧ (x.port 5).write = false ∧ (x.port 5).buf = [e] ∧ e.ready = false ∧ e.readyAt ≤ 8 ∧
    (x.port 63).bound = true ∧ (x.port 63).write = true ∧ (x.port 63).buf = [e] ∧ x.strongSnaps = [] := by decide +kernel

/-- A command of each queue at its head, its wait met and not met. -/
theorem test_meets_CommandStarts :
    let c : CCmd := { serial := 0, op := opCsig, syl := 0#64, s1 := 0#64, s2 := 0#64, baddr := 0, issuedAt := 0 }
    let m : MCmd := { serial := 0, op := 3, syl := 0#64, baddr := 0, issuedAt := 0 }
    let k : CCmd := { c with syl := 0x0400_0000_0000#64 }
    let x := { unit [] with mat := { queue := [m] }, c0 := { cmds := [c] }, c1 := { cmds := [k] } }
    x.use = .running ∧ ((x.headWait .m 1).any fun w => w.wthr = 0) = true ∧ ((x.headWait .c0 1).any fun w => w.wthr = 0) = true ∧
    ((x.headWait .c1 1).any fun w => x.semSeen w.wsem < w.wthr) = true := by decide +kernel

theorem test_meets_MatrixWork :
    let c : MCmd := { serial := 0, op := opMma, syl := 0#64, baddr := 0, issuedAt := 0, st := .running 1, sent := true, cfg := { m := 64, n := 64 } }
    let g : Group := { serial := 0, due := 2, zero := true, a := [], b := [] }
    let x := { unit [] with mat := { queue := [c], groups := [g] } }
    let y := { unit [] with mat := { stores := [{ due := 2, bytes := [(0, 1#8), (1, 2#8)], full := [] }] } }
    let z := { unit [] with mat := { queue := [{ c with sent := false }] } }
    x.mat.stores = [] ∧ x.freeze = none ∧ g.due ≤ 2 ∧ x.mat.undo = none ∧ x.mat.queue.find? (fun d => d.serial = g.serial) = some c ∧ c.cfg.m ≤ 64 ∧
    y.mat.stores.length = 1 ∧ ([(0, 1#8), (1, 2#8)].map (Prod.fst : Nat × Byte → Nat)).Nodup ∧
    (match z.mWork 2 with | .occupy _ => true | _ => false) = true := by decide +kernel

theorem test_meets_MatrixCompletes :
    let c (op : Nat) : MCmd := { serial := 0, op := op, syl := 0#64, baddr := 0, issuedAt := 0, st := .running 1, completeAt := some 5 }
    ([1, 2, 3, 5, 6, 7, 8].all fun op => ({ unit [] with mat := { queue := [c op] } } : Tile).mDone 5 = some (c op)) = true := by decide +kernel

/-- A CFILL of no element is done, also with a release at system scope; a CPY may send the request of its only element, to the last
line of the live extent, and one beyond it fails. -/
theorem test_meets_CopyCommands :
    let c : CCmd := { serial := 0, op := opCfill, syl := 0#64, s1 := 0#64, s2 := 0#64, baddr := 0, issuedAt := 0, st := .running 1 }
    let d : CCmd := { c with op := opCpy, nextElem := 0, pat := List.replicate 8 0x100_0000_0000#64 }
    ({ unit [] with c0 := { cmds := [c] } } : Tile).cDone .c0 2 = some c ∧ (sylC c.syl).scope ≠ 4 ∧ c.wait.stgt % 2 = 0 ∧
    ({ unit [] with c1 := { cmds := [d] } } : Tile).requester .c1 2 = some d ∧ d.indexed 0 = false ∧ d.indexed 4 = false ∧
    (sylC (0x80#64)).scope = 4 ∧ ((unit []).hostDirty.isEmpty = true ∧ (regs []).mem.comb = []) ∧
    ([d.srcBytes, (d.pieceAt 0 0 0x8000_0000_0000_0000#64 0x8000_0000_000F_FFFF#64).len].all fun n =>
      [0x8000_0000_0000_0000#64, 0x8000_0000_000F_FFFF#64].all fun a =>
        match checkAddr (regs []) 0 a n with | .ok (.slice _ _) => true | _ => false) = true ∧
    (regs []).elemFault 0 d 0x8000_0000_0000_0000#64 0x8000_0000_0010_0000#64 = some (spadBounds, 0x8000_0000_0010_0000#64) := by decide +kernel

/-- The last line of the slice, read, arriving and written. -/
theorem test_meets_CopyLines :
    let c : CCmd := { serial := 0, op := opCpy, syl := 0#64, s1 := 0#64, s2 := 0#64, baddr := 0, issuedAt := 0, st := .running 1 }
    let p : Piece := { elem := 0, off := 0, len := 64, srcT := some (.spad 9 0x1F_FFC0), dstT := [.spad 9 0x1F_FFC0], data := List.replicate 64 1#8
                       dst := 0x8000_0000_001F_FFC0#64 }
    let l : CLine := { id := 0, cmd := 0, reqAt := 0, base := 0, pieces := [p], due := 3 }
    let w : CLine := { l with stage := .writing, wdue := [(0, 3)] }
    let s (l : CLine) : State := with0 { unit [] with c0 := { cmds := [c], lines := [l] } }
    (((s l).tile 0).cq .c0).lines.find? (fun m => m.id = 0) = some l ∧ (((s l).tile 0).cq .c0).cmd? 0 = some c ∧ c.usesSrc = true ∧
    c.oneByOne = false ∧ c.atomic = false ∧ (s l).tagOk 9 c.ctx.world.toNat = true ∧ ((s l).tile 9).poisoned 0x1F_FFC0 = false ∧
    (((s w).tile 0).cq .c0).inOrder w 0 = true ∧ c.badEl = [] ∧ p.dst.toNat % 64 = 0x1F_FFC0 % 64 ∧ p.data ≠ [] ∧ 0x1F_FFC0 % 64 + p.data.length ≤ 64 ∧ c.st ≠ .stopped := by
  decide +kernel

theorem test_meets_Translation :
    let k : Kill := { id := 1, by_ := none, asid := 1, world := 1, dies := [0, 15] }
    let w : Walk := { id := 2, die := 15, dva := 0, ctx := {}, waiters := [], dueAt := some 5 }
    let a : Acc := { id := 0, q := 0, kind := .load false, addr := 0#64, width := 8, rd := 1, pc := 0, issuedAt := 0, parts := [{ addr := 0, len := 8 }] }
    let r : HostReq := { tag := 3, die := 0, vd := 1, ctx := {}, dva := 0, page := false, asked := 0, perms := {}, waiters := [.acc (.tile 0) 0 0] }
    let s : State := { with0 { unit [] with seq := { (unit []).seq with accs := [a] } } with
      now := 5, kills := [k], dies := [(15, { walks := [w] })], hostReqs := [r, { r with page := true }, { r with tag := 4, page := true, dead := true }], vds := [(1, some { vd := 1 })] }
    (s.die 15).walks.find? (fun x => x.id = 2 && x.dueAt.any (· ≤ s.now)) = some w ∧ s.kills.find? (fun x => x.id = 1 && x.doneAt.isNone) = some k ∧
    (s.vd? 1).isSome = true ∧ s.hostReqs.find? (fun x => x.tag = 3 && !x.page) = some r ∧ r.dead = false ∧
    s.hostReqs.find? (fun x => x.tag = 3 && x.page) = some { r with page := true } ∧ (s.acc? (.tile 0) 0).isSome = true ∧
    (s.hostReqs.find? (fun x => x.tag = 4 && x.page)).any (·.dead) = true := by decide +kernel

/-- A walk at level `level` whose next entry is `entry`, for one access. -/
def walking (level entry : Nat) : State :=
  let c : TransCtx := { hwkey := 1#8, world := 1#8 }
  let a : Acc := { id := 0, q := 0, kind := .load false, addr := 0#64, width := 8, rd := 1, pc := 0, issuedAt := 0, ctx := c, parts := [{ addr := 0, len := 8 }] }
  { heap [(0, entry)] with
    tiles := [(0, { unit [] with seq := { (unit []).seq with accs := [a] } })]
    dies := [(15, { walks := [{ id := 2, die := 15, dva := 0, ctx := c, waiters := [.acc (.tile 0) 0 0], dueAt := some 0, level := level, table := 0 }] })] }

/-- What the due walk's next entry comes to: a table 1, a page that passes the waiting access's check 2, a delegated page 3,
a fault 4. -/
def walkEnd (s : State) : Nat :=
  match (s.die 15).walks with
  | [w] => match s.walkStep w.ctx w.dva w.level w.table with
    | (_, .ok _) => 1
    | (s₁, .error (.leaf b t a)) => if (s₁.waiterFault 15 w.ctx (w.ctx.entry w.dva b t a) (.acc (.tile 0) 0 0)).isNone then 2 else 0
    | (_, .error (.delegated _)) => 3
    | (_, .error (.fault _)) => 4
  | _ => 0

/-- A table, a leaf of 64 GiB, a delegated page and an invalid entry; a host page that passes the check of what waits. -/
theorem test_meets_Translation_ends :
    walkEnd (walking 1 1) = 1 ∧ walkEnd (walking 2 0x41F) = 2 ∧ walkEnd (walking 1 0x3FC1F) = 3 ∧ walkEnd (walking 1 0) = 4 ∧
    ((walking 1 0).acc? (.tile 0) 0 |>.any fun a => a.parts.length = 1) = true ∧
    let c : TransCtx := { hwkey := 1#8, world := 1#8 }
    (walking 1 0).waiterFault 0 c (c.entry 0 12 (.host 4096) { keyId := 255 }) (.acc (.tile 0) 0 0) = none := by decide +kernel

theorem test_meets_TileErrorsAndBroadcasts :
    let x := { unit [] with seq := { (unit []).seq with waitFrom := some 0, csr := { csr0 with wdlimit := 10#32 } } }
    let e : CombEnt := { addr := 64, width := 8, value := 7, lastAccess := 0, keyId := 0 }
    let s : State := { with0 x with now := 1024, mem := { comb := [e] } }
    x.overdue 0 1024 = true ∧ x.faults = [] ∧ x.use = .running ∧ s.mem.comb.find? (fun y => y.addr = 64) = some e ∧ e.lastAccess + 1024 ≤ s.now ∧
    (s.raiseCounter e.addr).isSome = true ∧ x.team = 1 ∧ x.use ∈ [TileUse.loading, .running, .ended, .parked] := by decide +kernel

theorem test_meets_ClampAndDrain :
    let l : Launch := { id := 1, vd := 1, lcb := 0, team := 1, tiles := [0], st := .clamping }
    let lp : Loop := { rem := 5, iter := 2, start := 1, epi := 1, clamp := true, loopId := 0 }
    let s : State := { with0 { unit [] with bsq := { loops := [lp] } } with launches := [l] }
    let u := with0 { unit [] with clamped := some 4 }
    s.team? 1 = some l ∧ (s.tile 0).team = 1 ∧ (s.tile 0).use = .running ∧ l.st = .clamping ∧ (s.tile 0).bsq.clampNow.isSome = true ∧
    (u.tile 0).clamped.isSome = true ∧ (u.tile 0).mayEnd = true ∧ (u.tile 0).freeze = none ∧ u.launch? (u.tile 0).launch = none ∧
    ((with0 { use := .draining }).tile 0).use = .draining := by decide +kernel

/-- A VD with one packet in its journal. -/
def packet (typ : Nat) (st : PktSt) (f : Pkt → Pkt := id) : State :=
  { vds := [(1, some { vd := 1, jrnl := [f { qnum := 2, idx := 7, words := [BitVec.ofNat 64 typ], st := st, queued := true }], queues := [{ qnum := 2, qcb := 0 }] })] }

/-- Packets of every type about to start, and a WAITSIG whose time is over. -/
theorem test_meets_PacketForms :
    let p : PktId := { vd := 1, q := 2, idx := 7 }
    ((List.range 8).all fun n => (packet n .accepted).pkt? p |>.any fun (_, x) => x.typ = n && x.queued && x.startTick ≤ 0 && x.stage = 0) = true ∧
    ((packet 4 .started fun x => { x with words := [4, 0, 0, 0, 0, 1] }).pkt? p |>.any fun (_, x) => x.word 5 ≠ 0) = true ∧
    ((packet 7 .started fun x => { x with stage := 1 }).pkt? p |>.any fun (_, x) => x.typ = 7 && x.stage ≠ 0) = true ∧
    (packet 2 .accepted).idleEngine 0 = some 0 ∧ ((packet 2 .accepted).nextCopy 0 0).isSome = true ∧ (packet 7 .accepted).fitted.tierL = 0 ∧
    ((packet 1 .accepted).pkt? p |>.any fun (v, x) => ((packet 1 .accepted).builtBy 1 x).isNone && !(packet 1 .accepted).outranked v x) = true := by
  decide +kernel

/-- A VD that reads its heap, with one packet of these words. -/
def job (ws : List Nat) (words : List (Nat × Nat)) (f : Pkt → Pkt := id) : State :=
  heap words fun v => { v with jrnl := [f { qnum := 2, idx := 7, words := ws.map (BitVec.ofNat 64), queued := true }], queues := [{ qnum := 2, qcb := 0 }] }

/-- What a test of the packet, its VD and the state it starts in says. -/
def jobIs (s : State) (f : State → Vd → Pkt → Bool) : Bool :=
  match s.pkt? { vd := 1, q := 2, idx := 7 } with
  | some (v, x) => f (s.startPkt { vd := 1, q := 2, idx := 7 } id) v x
  | none => false

/-- A word read as it should be. -/
def reads (r : State × Except Nat Nat) (p : Nat → Bool) : Bool :=
  match r.2 with
  | .ok n => p n
  | .error _ => false

/-- SIGNAL, WAITSIG and CANCEL with a word that can be read: the old value 77, a condition that holds, and headers of a NEW block, of one that
runs and of one that is done. -/
theorem test_meets_PacketForms_words :
    jobIs (job [3, 0, 0x100, 5] [(0x100, 77)]) (fun s v x => reads (s.vdAtomic v (x.word 2) (.fn 8) (x.word 3)) (· = 77)) = true ∧
    jobIs (job [4, 0, 0x100, 77] [(0x100, 77)]) (fun s v x => reads (s.vdWord v (x.word 2)) fun n => waitCond (x.word 4) n (x.word 3)) = true ∧
    (∀ h ∈ [0x000, 0x202, 0x302], jobIs (job [5, 0, 0x1000] [(0x1000, h)]) (fun s v x => reads (s.vdWord v (x.word 2)) (· = h) &&
      !(s.vdWord v (x.word 2)).1.blockOver v (x.word 2)) = true) := by decide +kernel

/-- PHASE of a block of one graph, and CKPT of a group of three: a restore that begins, and one under way. -/
theorem test_meets_PacketForms_blocks :
    jobIs (job [6, 0, 0x2000] [(0x2000, 3), (0x2020, 1), (0x2028, 0x4000), (0x4000, 0x5000)]) (fun s v x =>
      match s.vdRead v (x.word 2) 64 with
      | (_, .error _) => false
      | (s₂, .ok bs) =>
        let o := s₂.openJob { vd := 1, pkt := some (2, 7), at_ := 1 } v (field bs 16 8)
        field bs 0 8 = 3 && field bs 32 8 = 1 && allZero (bs.drop 48) && o.2.isNone && match (o.1.readList v (field bs 40 8) 1).2 with
          | .ok k => k = [0x5000]
          | .error _ => false) = true ∧
    (∀ g ∈ [0, 1], jobIs (job [7, 0, 0x800, 1, 1, 0x900] [(0x800, 0x301), (0x808, 0x1000), (0x810, 0x1_0000_0100), (0x840, 0x2_0001_0000),
        (0x900, 0x3000), (0x908, 256)] fun x => { x with stage := g, st := if g = 0 then .accepted else .started }) (fun s v x =>
      s.fitted.tierL ≠ 0 && x.stage = g && match (s.readCkpt v x).2 with
        | .ok d => d.op = 1
        | .error _ => false) = true) ∧
    jobIs (job [0] [] fun x => { x with lost := true }) (fun _ _ x => x.lost) = true := by decide +kernel

/-- What a VD with neither heap window nor tables makes of an address: the read that fails for CANCEL, PHASE and LAUNCH. -/
theorem test_meets_PacketForms_unreadable :
    (match ((packet 5 .accepted).vdWord { vd := 1 } (2 ^ 60)).2 with | .error _ => true | .ok _ => false) = true ∧
    (match ((packet 6 .accepted).vdRead { vd := 1 } (2 ^ 60) 64).2 with | .error _ => true | .ok _ => false) = true ∧
    (match ((packet 1 .accepted).readImage { vd := 1 } (2 ^ 60)).2 with | .error _ => true | .ok _ => false) = true := by decide +kernel

theorem test_meets_ReportAndNotify :
    let p : PktId := { vd := 1, q := 2, idx := 7 }
    let s := packet 0 .performed
    let q (f : Umq → Umq) : State := { vds := [(1, some { vd := 1, queues := [f { qnum := 2, qcb := 0 }] })] }
    (s.pkt? p |>.any fun (v, x) => x.st = .performed && x.reportAt ≤ 0 && (v.jrnl.find? (·.qnum = 2)).any (·.idx = 7)) = true ∧
    ((q fun r => { r with openQ := false }).vd? 1 |>.any fun v => (v.queue? 2).any fun r => !r.openQ) = true ∧
    ((q id).vd? 1 |>.any fun v => (v.queue? 2).any fun r => r.openQ && r.readAt.isNone) = true ∧
    ((q fun r => { r with readAt := some 1 }).vd? 1 |>.any fun v => (v.queue? 2).any fun r => r.openQ && r.readAt = some 1) = true ∧
    ((q fun r => { r with readAt := some 0 }).vd? 1 |>.any fun v => (v.queue? 2).any fun r => r.openQ && r.readAt = some 0) = true := by decide +kernel

theorem test_meets_LaunchSteps :
    let l : Launch := { id := 1, vd := 1, lcb := 0, team := 1, tiles := [0], nunits := 2, st := .running }
    let s : State := { with0 { use := .ended, launch := 1, team := 1 } with launches := [l], vds := [(1, some { vd := 1 })] }
    let d : State := { launches := [{ l with st := .draining }] }
    let w : State := { launches := [{ l with st := .waiting, allocated := true }], vds := [(1, some { vd := 1 })] }
    s.launch? 1 = some l ∧ l.wave + 1 < l.waves ∧ s.teamQuiet l = true ∧ (s.tile 0).launch = 1 ∧ d.allDrained { l with st := .draining } = true ∧
    w.wanting 1 ≠ [] ∧ (∃ m ∈ w.wanting 1, m.allocated = true) ∧ d.allDrained { l with st := .draining } = true ∧
    let v : Vd := { vd := 1, quires := 1 }
    let r : State := { w with vds := [(1, some v)] }
    r.wanting 1 = [{ l with st := .waiting, allocated := true }] ∧ v.st ≠ 3 ∧ l.poolNeed ≤ 2 ^ 20 ∧ r.canFit v l.image = true ∧
    findPlace v l.image.teamw l.image.teamh (r.spare v) = some (0, 0) := by decide +kernel

/-- VDs in order; a VDCREATE block of an active world, one of a world that is not, and one outside memory. The clauses here, in `PacketForms` and in
`ResetsAndPower` that begin with a good image are about one whose SLH-DSA signature verifies: no such image is small enough to write
out here. -/
theorem test_meets_KeeperClocksAndSetup :
    let s : State := { vds := [(63, some { vd := 63, weight := 1 })] }
    s.vds = [(63, some { vd := 63, weight := 1 })] ∧ (match (s.paRead 0 (2 ^ 60) 192).2 with | .error _ => true | .ok _ => false) = true ∧
    ((s.vds.map Prod.fst).Pairwise (· < ·) ∧ ∀ e ∈ s.vds, ∀ u ∈ e.2, u.vd = e.1) ∧
    ([true, false].all fun act =>
      let h := heap [(0, 1), (8, 3 * 2 ^ 48), (0x10, 0x100), (0x48, 2 ^ 40), (0x68, 6), (0x78, 2 ^ 38)]
      let t : State := { h with vds := [], mem := { h.mem with tags := [(0, some 0)] }, sct := { pcm := [(0, 9)], worlds := [(3, some { active := act })] } }
      match t.paRead 0 0 192 with
      | (u, .ok b) => (vdOf 1 (u.homeDie (field b 0 8)) b).any fun v => u.vdAdmitted v = act
      | (_, .error _) => false) = true ∧
    (match checkMicrocode [] with | .error _ => true | .ok _ => false) = true := by decide +kernel

/-- A waiting LAUNCH at place 0 of a journal the first keeper sequencer serves, a running team and a held one. -/
theorem test_meets_KeeperOperations :
    let l : Launch := { id := 1, vd := 1, lcb := 0, built := true, pkt := some (2, 7), allocated := true, team := 1, tiles := [0] }
    let v : Vd := { vd := 1, quires := 1, jrnl := [{ qnum := 2, idx := 7, words := [1#64] }] }
    let s (l : Launch) : State := { with0 { unit [] with launch := 1 } with launches := [l], vds := [(1, some v)] }
    let r := s { l with st := .running }
    let h : State := { launches := [{ l with st := .saved }], vds := [(1, some v)] }
    (s l).entryOf 0 0 = some (v, { qnum := 2, idx := 7, words := [1#64] }) ∧ (s l).entryOf 0 1 = none ∧ (s l).team? 2 = none ∧
    (s l).builtBy 1 { qnum := 2, idx := 7, words := [1#64] } = some l ∧ l.st = .waiting ∧ (s l).admits v l.image 0 0 = false ∧
    (s l).admits v l.image 1 0 = true ∧ r.team? 1 = some { l with st := .running } ∧ r.unitRuns { l with st := .running } = true ∧
    h.team? 1 = some { l with st := .saved } ∧ h.admits v l.image 0 0 = true ∧ (h.vd? 1).isSome = true ∧
    (match (h.openArea { l with st := .saved } v).2 with | .ok m => m = { l with st := .saved } | .error _ => false) = true := by decide +kernel
/-- KRESUME of a team whose area's key ID has been scrubbed. -/
theorem test_meets_KeeperOperations_area :
    let s : State := { sct := { keys := [(1, .scrubbed)] } }
    (s.openArea { id := 1, vd := 1, lcb := 0, saveKey := 1, saveData := [(0, {}, 0)] } { vd := 1 }).2 = .error integrity :=
  State.openArea_scrubbed _ rfl (by decide)
/-- KREJECT and KREPORT: an entry that is accepted, and one that has performed. -/
theorem test_meets_KeeperOperations_entries :
    ((packet 0 .accepted).entryOf 0 0).isSome = true ∧ ((packet 0 .performed).entryOf 0 0).isSome = true ∧
    ((packet 0 .accepted).pkt? { vd := 1, q := 2, idx := 7 }).isSome = true ∧ reasonOk 1 = true ∧ reasonOk 0 = false ∧
    ((packet 0 .accepted).pkt? { vd := 1, q := 2, idx := 7 } |>.any fun (_, x) => ((packet 0 .accepted).builtBy 1 x).isNone) = true := by decide +kernel

theorem test_meets_TeamStops :
    let l : Launch := { id := 1, vd := 1, lcb := 0, team := 1, tiles := [0], st := .saving, settled := true }
    let s (l : Launch) : State := { with0 { unit [] with launch := 1 } with launches := [l], vds := [(1, some { vd := 1 })], now := 9 }
    let k : KFault := { tick := 0, tile := 0, cycle := 0, fault := { code := 1, slot := 0 }, due := 9 }
    (s l).team? 1 = some l ∧ (s l).faultOpen l = false ∧ (s { l with saveTime := 9 }).team? 1 = some { l with saveTime := 9 } ∧
    (s { l with st := .halting, stopAction := 3 }).team? 1 = some { l with st := .halting, stopAction := 3 } ∧ (s l).dueFault 1 = none ∧
    ((s l).vd? 1).isSome = true ∧ (s l).launch? 1 = some l ∧ ((s l).tile 0).launch = 1 ∧ l.tiles ≠ [] ∧ (∀ u ∈ (s l).launches, u.st ≠ .dumping) ∧
    let d : State := { s { l with st := .running } with kfaults := [k] }
    d.dueFault 1 = some k ∧ d.launch? (d.tile k.tile).launch = some { l with st := .running } ∧ l.firstFault = none := by decide +kernel

/-- A slot at its last line, one whose lines are done, of a page and of a rotated frame, and one whose kill is past; a frame
that is to be rotated. -/
theorem test_meets_MigrationSteps :
    let m : MigSlot := { slot := 511, req := { dest := 0x10000 }, src := 0, newKey := 0, copying := true, doneLines := 1023 }
    let s : State := { mig := [m] }
    let r : Rotation := { id := 5, old := 1, new := 2, frames := [] }
    let w : State := { migWait := [{}], rots := [r], sct := { keys := [(254, .scrubbed)] } }
    let f : State := { rots := [{ r with frames := [7] }], mem := { tags := [(7, some 1)] } }
    s.mig.find? (fun m => m.slot = 511) = some m ∧ m.cause = 0 ∧ s.treeBad m = false ∧ s.scrubbedKey m.newKey = false ∧
    (∀ k ∈ s.mig, 2 ^ 40 / 65536 ≠ k.src / 65536 ∧ 2 ^ 40 / 65536 ≠ k.req.dest / 65536) ∧
    ({ m with req := { m.req with rot := some 5 } } : MigSlot).req.rot.isSome = true ∧ f.migWait = [] ∧
    f.rots.find? (fun (r : Rotation) => !r.frames.isEmpty && r.active < 64) = some { r with frames := [7] } ∧ f.mem.tags.get none 7 = some r.old ∧ s.destBad m = false ∧ (s.copyMoving m).isSome = true ∧ m.req.rot = none ∧ s.slotKilled 511 = true ∧
    w.mig.any (fun m => m.slot = 511) = false ∧ w.migWait ≠ [] ∧
    w.rots.find? (fun (r : Rotation) => r.id = 5 && r.frames.isEmpty && r.active = 0) = some r ∧ w.sct.keys.get .free 254 = .scrubbed ∧
    w.keyInUse 254 = false := by decide +kernel

/-- MIGREQ of the page whose leaf lies at 0x200, from frame 1 to frame 2. -/
theorem test_meets_MigrationSteps_request :
    let h := heap [(0x100, 0x200), (0x110, 0x1010000), (0x118, 0x20000), (0x200, 0x1000000407)]
    let s : State := { h with mem := { h.mem with tags := [(0, some 1), (1, some 1)] } }
    ({ s with mem := { s.mem with tags := [(0, some 0)] } } : State).migWait.length < 512 ∧
    (match (s.paRead 1 0x100 64).2 with
      | .ok b => match (s.migCheck (migReqOf b false).1 (migReqOf b false).2).2 with
        | .ok (e, src, _) => e = 0x1000000407 && src = 0x10000
        | .error _ => false
      | .error _ => false) = true := by decide +kernel

/-- A package moored with peer 1023 over port 15, and a message for it. -/
def fabric (f : TxMsg → TxMsg) : State :=
  { fabric := { routes := [(1023, { paths := [0x800F_0000#32], dcfg := 8#64 })], ports := 2 ^ 15
                tx := [f { id := 1, dst := 1023, lane := 0, rsp := false, msg := { op := .write, data := [1#8] }, waiter := none }] }
    sct := { moorings := [(1023, { up := true })] }, wall := 540000 }

theorem test_meets_FabricSending :
    let s := fabric id
    let u := fabric fun t => { t with seq := some 63 }
    let c : ControlLeaf := { src := 1023, lane := 0, seq := 63 }
    s.reachable 1023 = true ∧ (s.linkKey 1023 0).isSome = true ∧ s.reachable 5 = false ∧ s.fabric.tx.length = 1 ∧
    (u.fabric.tx.all fun t => t.seq.isSome && !t.acked && t.sealedAt + u.fabric.tack ≤ u.tick && t.lane' = (c.src, c.lane, c.rsp)) = true ∧
    s.tx? 1 = s.fabric.tx.head? ∧ s.fabric.openOn (1023, 0, false) < 64 ∧
    s.fabric.tx.find? (fun x => x.lane' = (1023, 0, false) && x.seq.isNone) = s.fabric.tx.head? ∧ (u.named c).isSome = true ∧
    c.poisoned = false ∧ c.macOk = true ∧ u.fabric.ctlSeen.contains (c.src, c.no) = false ∧ (u.sct.moorings.get {} c.src).up = true ∧ u.fabric.spray 1023 ≠ [] ∧ (u.sct.moorings.get {} 5).up = false := by decide +kernel
/-- FRTLOAD: an image of zeros in fitted memory is a route. -/
theorem test_meets_FabricSending_routes :
    let s : State := { fitted := { stackMap := 0xFFF, gbPerStack := 48 }, mem := { tags := [(0, some 0)] } }
    (match (s.paRead 0 (s.fabric.frtsrc + 64 * 1023) 64).2 with | .ok b => (routeOf b).isSome | .error _ => false) = true := by decide +kernel

/-- A frame that is decoded to a message opens under a link key (R388): AES-GCM is too long for the kernel to show one here. -/
theorem test_meets_FabricReceiving :
    let l : Leaf := { src := 1023, from_ := 1023, lane := 15, seq := 63, idx := 19, d := 16, m := 4, body := {} }
    let f : Frame := { src := 1023, lane := 0, rsp := false, seq := 0, d := 2, m := 1, timer := 0, decodeAt := some 0 }
    let s : State := { fabric := { ports := 2 ^ 15, frames := [(0, some f), (1, some { f with decodeAt := none }), (2, some { f with gather := false })]
                                   rx := [((1023, 0, false), { ready := [(0, 0, { op := .write })] })]
                                   tx := [{ id := 1, dst := 1, lane := 0, rsp := true, msg := { op := .readRsp }, waiter := none, notes := [64] }] } }
    bitOf 15 s.fabric.ports = true ∧ l.zeros = true ∧ l.src = l.from_ ∧ l.idx < l.d + l.m ∧ ({ fabric := { ports := 2 ^ 15 } } : State).fabric.rx = [] ∧
    s.frame? 0 = some f ∧ s.frame? 1 = some { f with decodeAt := none } ∧ s.frame? 2 = some { f with gather := false } ∧
    (((s.fabric.rxLane (1023, 0, false)).ready.any fun r => r.1 = (s.fabric.rxLane (1023, 0, false)).del && r.2.1 ≤ s.tick) = true) ∧
    s.fabric.tx.any (fun t => t.notes.contains 64) = true := by decide +kernel

/-- A window at BASE 0: a number that is closed, one that gathers, the last that may come, the first beyond, and one before. -/
theorem test_meets_FabricReceiving_windows :
    let k : Nat × Nat × Bool := (1023, 15, false)
    let s : State := { fabric := { rx := [(k, { win := [(5, .closed false), (6, .active 3)] })], frames := [(3, some { src := 1023, lane := 15, rsp := false, seq := 6, d := 2, m := 1, timer := 0 })] } }
    let c : ControlLeaf := { src := 1023, lane := 0, seq := 0 }
    let u : State := { sct := { moorings := [(1023, { up := true })] } }
    (s.fabric.rxLane k).place 5 = .late ∧ (s.fabric.rxLane k).place 6 = .held (.active 3) ∧ (s.fabric.rxLane k).place 63 = .held .empty ∧
    (s.fabric.rxLane k).place 64 = .beyond ∧ (s.fabric.rxLane k).place 65535 = .late ∧ (s.frame? 3).isSome = true ∧ s.fabric.freeFrame 63 = some 2048 ∧
    c.poisoned = false ∧ c.macOk = true ∧ (u.sct.moorings.get {} c.src).up = true ∧ u.fabric.ctlSeen.contains (c.src, c.no) = false := by decide +kernel

/-- No frame is free for an even number. -/
theorem test_meets_FabricReceiving_noFrame :
    ({ frames := (List.range 2048).map fun i => (i, some { src := 1023, lane := 15, rsp := false, seq := 0, d := 2, m := 1, timer := 0 }) } : Fabric).freeFrame
      62 = none := by
  simp only [Fabric.freeFrame, List.find?_eq_none, List.mem_map, List.mem_range]
  rintro _ ⟨n, hn, rfl⟩
  rw [NMap.get_of_all _ _ (by simpa using hn)]
  simp

/-- World 3 is active, world 4 pending; key ID 1 is bound to world 3 and key ID 2 free. -/
theorem test_meets_SctCommands :
    let s : State := { sct := { busy := true, worlds := [(3, some { active := true }), (4, some {})], keys := [(1, .bound 3 0)] }
                       fitted := { stackMap := 0xFFF, gbPerStack := 48 } }
    let all : State := { sct := { busy := true, keys := (List.range 254).map fun i => (i + 1, .scrubbed) } }
    s.sct.stage = 0 ∧ s.sct.busy = true ∧ (s.sct.worlds.get none 3).isSome = true ∧ s.sct.worlds.get none 254 = none ∧ s.worldUsed 3 = true ∧
    s.worldUsed 4 = false ∧ (s.sct.worlds.get none 4).any (·.active) = false ∧ s.sct.keys.get .free 1 ≠ .free ∧ s.sct.keys.get .free 2 = .free ∧
    (∀ n, n < 1 → s.cannotGrant (0x10000 / 65536 + n) = false) ∧ s.checkedOf 63 = [] ∧ s.combining 63 s.now = false ∧
    ((List.range 254).all fun i => all.sct.keys.get .free (i + 1) ≠ .free) = true := by decide +kernel

theorem test_meets_MooringSteps :
    let s (m : Mooring) : State := { sct := { busy := true, moorings := [(1023, m)] } }
    (s {}).sct.stage = 0 ∧ (s {}).fabric.mypkg = 0 ∧ ((s { up := true }).mooring 1023).up = true ∧ (s { up := true }).unacked 1023 = false ∧
    (fabric fun t => { t with seq := some 0 }).unacked 1023 = true ∧ ((s { phase := 1 }).mooring 1023).phase = 1 ∧
    ((s { phase := 2 }).mooring 1023).phase = 2 ∧ ((s { phase := 1 }).mooring 1023).deadline ≤ (s { phase := 1 }).tick := by decide +kernel

/-- A request after bring-up; a SETWK that names no world. (One with good keys opens a body sealed under ML-KEM, too long for the kernel to
show here.) -/
theorem test_meets_SpdmForms :
    let s : State := { power := { stage := 5 } }
    s.halted = false ∧ 5 ≤ s.power.stage ∧ 1 ∈ s.measured ∧ s.setwkWorld [] = none := by decide +kernel

theorem test_meets_TdispForms :
    let s (f : Vf) : State := { vfs := [(63, f)], power := { stage := 5 } }
    5 ≤ (s {}).power.stage ∧ ((s { tdisp := .locked }).vf 63).tdisp = .locked ∧ ((s { tdisp := .run }).vf 63).tdisp = .run ∧
    ((s { stopping := true }).vf 63).stopping = true ∧ (s { stopping := true }).tilesHeld 63 = 0 ∧ (s {}).bulks = [] ∧
    ((s {}).vf 63).tdisp = .unlocked ∧ ((s {}).vf 63).stopping = false ∧ (({ s {} with vds := [(63, some { vd := 63 })] } : State).vd? 63).isSome = true := by
  decide +kernel

theorem test_meets_HostAccess :
    let s : State := { power := { stage := 5 }, bulks := [(127, { pkt := some { vd := 1, q := 2, idx := 7 } }), (5, { chan := some (1, 15) })]
                       vfs := [(0, { vectors := [(2, { entry := 0#128, count := 1 })] }), (63, { vectors := [(64, { count := 1 })] })] }
    (s.vd? 63 = none) ∧ (s.vf 63).chancnt ≤ 15 ∧ s.chunkDue 127 = true ∧ (s.bulk 127).pkt.isSome = true ∧ s.chunkDue 5 = true ∧ (s.bulk 5).chan = some (1, 15) ∧
    s.vectorHeld 0 ((s.vf 0).vectors.get {} 2) = false ∧ s.vectorHeld 63 ((s.vf 63).vectors.get {} 64) = true ∧
    ((s.vf 63).vectors.get {} 64).dueAt ≤ s.tick := by decide +kernel

/-- Function 1 runs, with a VD whose heap holds 7 at 0x40 and a channel table: one channel open, one whose RESYNC is to be settled with data to
come, and one without. -/
def hosted : State :=
  { heap [(0x40, 7), (0x828, 0x1000001), (0x848, 3), (0x850, 5), (0x868, 0x2000001), (0x888, 5), (0x890, 3), (0x8A8, 0x2000001)] with
    power := { stage := 5 }, vfs := [(1, { tdisp := .run, chanbase := 0x800#64, chancnt := 3 })]
    bulks := [(5, { chan := some (1, 0), src := 0x40, dst := 0x200, len := 64 })] }

theorem test_meets_HostAccess_requests :
    let v := (hosted.vd? 1).getD { vd := 1 }
    let r : ApReq := { vf := 1, off := 0x40, len := 8, ide := true }
    hosted.vd? 1 = some v ∧ r.len ∈ [4, 8] ∧ r.off % r.len = 0 ∧ r.fn ≤ 2 ∧
    ([(false, false), (true, false), (false, true)].all fun m => match hosted.apertureParts r v m.1 m.2 with
      | (s, some ([(p, .mem pa, a)], _)) => pa = 0x40 && p.len = 8 && (s.homeCheck pa a.keyId).isNone &&
        (match (s.homeRead true pa p.len a.keyId).2 with | .ok _ => true | _ => false) &&
        (match (s.homeAtomic true true pa r.len a.keyId (apertureOp r) 1).2 with | .ok old => old = 7 | _ => false)
      | _ => false) = true := by decide +kernel

theorem test_meets_HostAccess_channels :
    let v := (hosted.vd? 1).getD { vd := 1 }
    ([(0, 1), (1, 2), (2, 2)].all fun c => (hosted.readChan v c.1).2.any fun h => h.st = c.2 && (h.hcommit < h.dcons) = (c.1 = 1)) = true ∧
    hosted.chunkDue 5 = true ∧ (hosted.bulk 5).pkt = none ∧ (hosted.bulk 5).chan = some (1, 0) ∧
    (match (State.bulkRun 65 hosted v 5).2 with | .done => true | _ => false) = true ∧
    let s : State := { job [2, 0, 0x100, 0x200, 64] [(0x100, 77)] fun x => { x with st := .started } with
      bulks := [(127, { pkt := some { vd := 1, q := 2, idx := 7 }, src := 0x100, dst := 0x200, len := 64 })] }
    jobIs s (fun _ v x => x.typ = 2 && match (State.bulkRun 65 s v 127).2 with | .done => true | _ => false) = true := by decide +kernel

theorem test_meets_ResetsAndPower :
    let s : State := { dies := [(15, { resetting := true })] }
    s.launches = [] ∧ s.vds = [] ∧ s.mig = [] ∧ stackOf? 5 = none ∧ (s.die 5).resetting = false ∧ (s.die 5).held = false ∧ (s.die 0).resetting = false ∧ (s.die 0).held = false ∧ (s.die 15).resetting = true ∧ dieEdges 0 1 = 1 ∧
    (min 0 1, max 0 1) ∉ s.linksDown ∧ s.halted = false ∧ s.power.stage = 1 ∧ ({ power := { stage := 4 } } : State).halted = false ∧
    (match checkMicrocode [] with | .error _ => true | .ok _ => false) = true := by decide +kernel

/-! ## Witnesses of the clauses on values, pops and repeats -/

/-- The signal of an AMOS that has performed: none, one to its own tile, one that overflows, one to logical tile 1. -/
theorem test_meets_ScratchpadAtomic_signals :
    let a (w : Nat) : Acc :=
      { id := 0, q := 2, kind := .amos 8, addr := 0#64, width := 8, rd := 5, pc := 0, issuedAt := 0, performed := true, stage := .signalling
        cmp := BitVec.ofNat 64 w }
    let s (w : Nat) : State := with0 { unit [] with sem := [(4, 65535#16)], seq := { (unit []).seq with accs := [a w], nextAcc := 1 } }
    (∀ w ∈ [4, 0x1003, 0x1004, 0x6004], (s w).acc? (.tile 0) 0 = some (a w) ∧ (a w).performAt ≤ (s w).now) ∧
    ((s 0).tile 0).semTook 3 + (((s 0).tile 0).semVal 3 + 1) ≤ 65535 ∧ 65535 < ((s 0).tile 0).semTook 4 + (((s 0).tile 0).semVal 4 + 1) ∧
    ((s 0).tile 0).seq.csr.ptile (0x6004 / 2 ^ 14 % 1024) = some 9 ∧ (s 0).linksDown = [] ∧
    let o := oneAccess (.amos 8) 2 0x8000_0000_0000_0000 0 5
    (o.acc? (.tile 0) 0 |>.any fun x => o.accDue (.tile 0) x && x.kind = .amos 8 && x.scope ≠ 4) = true := by decide +kernel

/-- AMOS with an absent FTILE, and one on a keeper sequencer that signals its own tile. -/
theorem test_meets_AccessIssue_amos :
    let s := regs [(5, 0xA000#64), (3, 0x8000_0000_0000_0000#64)]
    let k := keeper [(5, 0x1000#64)]
    s.Clear [5, 3, 6] false ∧ (s.g 5).toNat / 2 ^ 13 % 2 = 1 ∧ (s.seq s.cur).csr.ptile ((s.g 5).toNat / 2 ^ 14 % 1024) = none ∧
    firstBad s (s.g 3) 8 = none ∧ k.Clear [5, 3, 6] false ∧ firstBad k (k.g 3) 4 = none ∧ (k.g 5).toNat / 2 ^ 12 % 2 = 1 ∧
    (k.g 5).toNat / 2 ^ 13 % 2 = 0 := by simp only [State.Clear]; decide +kernel

/-- Descriptors in the bank: of no element; of one element in the last line of the live extent, and one just beyond it; with a
stride that is no multiple of 64. -/
theorem test_meets_ConstantsAndStreams_descriptors :
    let x (base stride : Nat) : Tile := { unit [] with const := [(0, BitVec.ofNat 32 base), (2, 1#32), (3, 1#32), (4, 1#32), (5, 1#32), (6, BitVec.ofNat 32 stride)] }
    let w (x : Tile) (i : Nat) : Nat := (x.constView.constWord i).toNat
    let good (x : Tile) : Prop := w x 0 + w x 1 * 2 ^ 32 < 2 ^ 21 ∧ (∀ i, i < 6 → w x (10 + i) = 0) ∧ ∀ i, i < 4 → (BitVec.ofNat 32 (w x (6 + i))).toInt % 64 = 0
    good (unit []) ∧ (∀ i, i < 4 → w (unit []) (2 + i) = 0) ∧ good (x 0xF_FFC0 64) ∧ good (x 0xF_FFC4 64) ∧ ¬ good (x 0 65) ∧ (∀ i, i < 4 → 0 < w (x 0 0) (2 + i)) ∧
    ((w (x 0xF_FFC0 64) 0 : Int) + 64 ≤ (x 0 0).live ∧ ((x 0 0).live : Int) < w (x 0xF_FFC4 64) 0 + 64) := by decide +kernel

/-- Numbers beside the ranges of R35, and at their ends; a bound port and a cut of LSPEXT that its descriptor does not outlive. -/
theorem test_meets_ControlRegisters_ranges :
    let l := [(0x000, 0x004), (0x008, 0x015), (0x020, 0x026), (0x030, 0x032), (0x040, 0x054), (0x400, 0x7FF)]
    (∀ k ∈ [0x005, 0x007, 0x016, 0x01F, 0x027, 0x02F, 0x033, 0x03F, 0x055, 0x3FF, 0x800, 0xFFF], ¬ ∃ r ∈ l, r.1 ≤ k ∧ k ≤ r.2) ∧
    (∀ k ∈ [0x000, 0x004, 0x008, 0x015, 0x026, 0x054, 0x7FF], ∃ r ∈ l, r.1 ≤ k ∧ k ≤ r.2) ∧
    let n : Dims := { d0 := 2, d1 := 1, d2 := 1, d3 := 1 }
    let x := { unit [(5, 0x80#64), (6, 0x40#64)] with ports := [(0, { bound := true, cnt := n, base := 0, str := { d0 := 64, d1 := 0, d2 := 0, d3 := 0 } })] }
    x.otherContexts ≤ 4 ∧ (x.seq.gr 6).toNat < x.live ∧ ((x.seq.gr 6).toNat : Int) < 0 + max 0 ((2 - 1) * 64) + 64 ∧
    ¬ ((x.seq.gr 5).toNat : Int) < 0 + max 0 ((2 - 1) * 64) + 64 ∧ (x.port 0).total ≠ 0 := by decide +kernel

/-- A CQ entry that is old enough. -/
def cqEnt (w : Nat) : CqEnt := { w := BitVec.ofNat 64 w, pushedAt := 0, pos := 0 }

/-- A header with XPOP 2 over a MASK and a VAL, over a TRIP, and over one entry alone. -/
theorem test_meets_BundleFlow_pops :
    let x (l : List CqEnt) : Tile := { bnd [0x2_0000_0000#64] with bsq := { cq := l } }
    let es := [cqEnt 0x2000_0000_0703_ABCD, cqEnt 0x5000_001F_FFFF_FFFF]
    (x es).header.xpop = 2 ∧ (x es).header.pres = 0 ∧ (x es).header.rep = 0 ∧ (x es).header.low = 0 ∧ (x es).header.flow = 0 ∧
    (x (es ++ [cqEnt 0])).bsq.cq = es ++ [cqEnt 0] ∧ es.length = 2 ∧ (∀ e ∈ es, e.pushedAt + 2 ≤ 2) ∧ (es.map fun e => e.w.toNat / 2 ^ 60) = [2, 5] ∧
    (cqEnt 0x1000_0000_0000_0000).w.toNat / 2 ^ 60 = 1 ∧ (x [cqEnt 0]).bsq.cq.length < 2 := by decide +kernel

/-- Bundles with REP 63: LOOP, ENDL and NEXT at their first issue, in between and at their last; one at 24 576, one whose slots end
beyond it, and one of flow code 8. -/
theorem test_meets_BundleFlow_repeats :
    let x (w : Nat) (b : Bsq) : Tile := { bnd [BitVec.ofNat 64 w] with bsq := b }
    let o : Loop := { rem := 1, iter := 2, start := 1, epi := 0, clamp := false, loopId := 0 }
    (∀ f ∈ [0, 1, 2, 3, 4, 5, 6, 7], (x (f * 2 ^ 34 + 63 * 2 ^ 38) {}).header.flow = f ∧ (x (f * 2 ^ 34 + 63 * 2 ^ 38) {}).header.rep = 63 ∧
      (x (f * 2 ^ 34 + 63 * 2 ^ 38) {}).header.low = 0 ∧ (x (f * 2 ^ 34 + 63 * 2 ^ 38) {}).header.xpop = 0) ∧
    (x (2 * 2 ^ 34) { loops := [o, { o with rem := 2 }] }).bsq.loops = [o, { o with rem := 2 }] ∧ 62 < 63 ∧
    (cqEnt 0x1000_0000_0000_0007).w.toNat / 2 ^ 60 = 1 ∧ (cqEnt 0x1000_0000_0000_0007).w.toNat % 2 ^ 32 ≠ 0 ∧ (cqEnt 0x1000_0000_0000_0007).pushedAt + 2 ≤ 2 ∧
    (x (8 * 2 ^ 34) {}).header.flow = 8 ∧ (x 1 {}).header.low = 1 ∧ 24576 < 24575 + (x (2 ^ 44) {}).header.units ∧
    (bnd []).faults = [] ∧ (bnd []).bsq.slots = [] ∧ (bnd []).bsq.profile4 = false ∧ (bnd []).bsq.first = true ∧ (bnd []).bsq.issued = 0 := by
  decide +kernel

/-- An SADD alone in its bundle, and an integer sum, a shift and a floating-point sum in the vector slots 4 and 19. -/
theorem test_meets_SlotValues :
    let s := bnd [0x8000_0000_0000_0000#64, 0x0040_3400_F040_0000#64]
    (s.header.pres = 2 ^ 19 ∧ s.header.rep = 0 ∧ s.header.flow = 0 ∧ s.header.xpop = 0 ∧ s.header.low = 0 ∧ slotCheck 0 (s.bprog.get 0#64 1) = none ∧
      (s.bprog.get 0#64 1).toNat / 2 ^ 54 = 1 ∧ s.bsq.pc + 2 ≤ 24576) ∧
    (∀ i ∈ [4, 19], ∀ e ∈ [(0x48, 0), (0x48, 1), (0x5D, 0), (0x04, 0), (0x04, 3)],
      let x := bnd [BitVec.ofNat 64 (2 ^ (63 - i)), BitVec.ofNat 64 (e.1 * 2 ^ 57 + e.2 * 2 ^ 54)]
      x.header.pres = 2 ^ (19 - i) ∧ slotCheck i (x.bprog.get 0#64 1) = none ∧ (x.bprog.get 0#64 1).toNat / 2 ^ 57 % 2 ^ 7 = e.1 ∧
        (x.bprog.get 0#64 1).toNat / 2 ^ 54 % 2 ^ 3 = e.2 ∧ x.header.ftz = false ∧ x.kr ((i - 4) / 2) 0 ≠ 0#16 ∧ (x.port 63).bound = false ∧ x.ports = []) := by
  decide +kernel

/-- An ACCMV whose row is due, and commands whose signal is applied and overflows. -/
theorem test_meets_MatrixCompletes_signals :
    let c : MCmd := { serial := 0, op := 6, syl := 0#64, baddr := 0, issuedAt := 0, st := .running 1, completeAt := some 5, row := List.replicate 64 7#32 }
    let x := { unit [] with mat := { queue := [c] } }
    let sig : MCmd := { c with op := 3, syl := 0x800_0000#64, row := [] }
    x.mat.queue = [c] ∧ c.row.length = 64 ∧ x.freeze = none ∧ x.bsq.pend = [] ∧
    (∀ v ∈ [0, 65535], let y := { unit [] with sem := [(0, BitVec.ofNat 16 v)], mat := { queue := [sig] } }
      y.mDone 5 = some sig ∧ sig.wait.stgt % 2 = 1 ∧ y.semTook sig.wait.ssem = 0) ∧
    sig.cfg.m ≤ 64 ∧ sig.cfg.n ≤ 64 := by decide +kernel

/-- A clampable loop between one that is not and one outside; a team that is clamped in no loop. -/
theorem test_meets_ClampAndDrain_loops :
    let lp : Loop := { rem := 5, iter := 2, start := 1, epi := 1, clamp := true, loopId := 0 }
    let l := [{ lp with clamp := false }, lp, { lp with rem := 9 }]
    l = [{ lp with clamp := false }] ++ lp :: [{ lp with rem := 9 }] ∧ (∀ d ∈ [{ lp with clamp := false }], d.clamp = false) ∧ min lp.rem (lp.epi + 1) = 2 := by
  decide +kernel

/-- A status block and a next record below 256 lie in the window, in other lines than `pa`'s. -/
theorem away {v : Vd} {pa : Nat} (h : v.status + 128 ≤ 256 ∧ v.recordAt v.trnext + 32 ≤ 256)
    (w : ∀ a, a < 256 → v.ctx.window a = some a ∧ a / 64 ≠ pa / 64) : recordsAway v pa :=
  fun a _ => ⟨a, w a (by omega)⟩

/-- The VD of `heap`. -/
def heapVd (s : State) : Vd := (s.vd? 1).getD { vd := 1 }

/-- CANCEL of a NEW block and PHASEs of blocks that are not fresh or name no graph: nothing stands in the way of the keeper's accesses. -/
theorem test_meets_PacketForms_lines : ∀ e ∈ [(5, 2), (6, 0x103), (6, 0x403), (6, 3)],
    quietLine (job [e.1, 0, 0x1000] [(0x1000, e.2)]) (heapVd (job [e.1, 0, 0x1000] [(0x1000, e.2)])) 0x1000 0x1000 ∧
    (job [e.1, 0, 0x1000] [(0x1000, e.2)]).inHand (heapVd (job [e.1, 0, 0x1000] [(0x1000, e.2)])) 0x1000 = false ∧
    natOf (readBytes (job [e.1, 0, 0x1000] [(0x1000, e.2)]).mem.cells 0x1010 16) = 0 := by decide +kernel

/-- A block that runs, with a parent that has another child to come. -/
def family : State := heap [(0x1000, 2), (0x1010, 0x2000), (0x2000, 3), (0x2008, 2)]
/-- A launch of a block that no graph holds. -/
def single : State := { heap [(0x1000, 1)] with launches := [{ id := 1, vd := 1, lcb := 0x1000, team := 1, tiles := [], st := .draining }] }
theorem test_meets_LaunchSteps_blocks :
    (∀ a ∈ [0x1000, 0x2000], quietLine family (heapVd family) a a) ∧ natOf (readBytes family.mem.cells 0x1010 8) = 0x2000 ∧ natOf (readBytes family.mem.cells 0x2008 8) = 2 := by decide +kernel
theorem test_meets_LaunchSteps_single : quietLine single (heapVd single) 0x1000 0x1000 ∧ (single.launch? 1).isSome = true := by decide +kernel
theorem test_meets_HostAccess_lines :
    (∀ c ∈ [1, 2], quietLine (hosted.readChan (heapVd hosted) c).1 (heapVd hosted) ((hosted.vf 1).chanAt c) (0x800 + 64 * c)) ∧
    quietLine (State.bulkRun 65 hosted (heapVd hosted) 5).1 (heapVd hosted) 0x800 0x800 := by decide +kernel
theorem test_meets_records_away : recordsAway (heapVd (heap [])) 0x1000 ∧ recordsAway (heapVd (heap [])) 0x2000 :=
  ⟨away (by decide) (by decide +kernel), away (by decide) (by decide +kernel)⟩

/-- A SIGNAL whose word the keeper reads itself, a PHASE of a block that a CANCEL has ended, and one of a block in hand. -/
theorem test_meets_PacketForms_ends :
    jobIs (job [3, 0, 0x100, 5] [(0x100, 77)]) (fun s v x => match (s.vdAskAtomic v (x.word 2) (.fn 8) (x.word 3) (.pkt { vd := 1, q := 2, idx := 7 })).2 with
      | .ok (some old) => old = 77
      | _ => false) = true ∧
    jobIs (job [6, 0, 0x1000] [(0x1000, 0x503)]) (fun s v x => match (s.vdRead v (x.word 2) 64).2 with
      | .ok bs => field bs 0 8 % 256 = 3 && field bs 0 8 / 256 % 256 = 5
      | .error _ => false) = true ∧
    (let s := job [6, 0, 0x1000] [(0x1000, 0x204)]
     let t := s.modVd 1 fun v => { v with blocks := [{ dva := 0x1000, kind := 4, parent := 0, signal := 0 }] }
     t.inHand (heapVd t) 0x1000 = true) := by decide +kernel

/-- A WAITSIG under way in the journal of a VD whose queue reads nothing. -/
theorem test_meets_ReportAndNotify_waits :
    let s := packet 4 .started
    ((s.vd? 1).any fun v => v.jrnl.any (fun y => y.typ = 4 && y.st = .started) && (v.queue? 2).any fun q => q.readAt.isNone) = true := by decide +kernel

/-- A VD whose decision lock the security controller holds, with an entry and a team. -/
theorem test_meets_KeeperOperations_locked :
    let l : Launch := { id := 1, vd := 1, lcb := 0, team := 1, tiles := [0] }
    let s : State := { packet 0 .accepted with launches := [l], sct := { locked := [1] } }
    (s.entryOf 0 0).any (fun e => s.sct.locked.contains e.1.vd) = true ∧ s.team? 1 = some l ∧ (s.vd? l.vd).any (fun d => s.sct.locked.contains d.vd) = true := by
  decide +kernel

/-- A check that fails in the drain of a team that a die reset has halted. -/
theorem test_meets_TeamStops_drain :
    let l : Launch := { id := 1, vd := 1, lcb := 0, team := 1, tiles := [0], st := .halting, stopAction := 2 }
    let k : KFault := { tick := 0, tile := 0, cycle := 0, fault := { code := 1, slot := 0 }, due := 9, drain := true }
    let s : State := { with0 { unit [] with launch := 1 } with launches := [l], vds := [(1, some { vd := 1 })], now := 9, kfaults := [k] }
    s.dueFault 1 = some k ∧ s.launch? (s.tile k.tile).launch = some l ∧ (s.vd? l.vd).isSome = true := by decide +kernel

/-- A request older than the rotation under way; a slot that keeps no update. -/
theorem test_meets_MigrationSteps_order :
    let s : State := { migWait := [{ order := 3 }], rots := [{ id := 5, old := 1, new := 2, frames := [7] }] }
    (∀ x ∈ s.rots, x.frames = [] ∨ 64 ≤ x.active ∨ ∀ r ∈ s.migWait.head?, r.order ≤ x.id) ∧ s.migWait ≠ [] ∧
    ({ slot := 0, req := {}, src := 0, newKey := 0, copying := true } : MigSlot).held = [] := by decide +kernel

/-- No mooring ends; a poisoned line of a frame lent to packages 3 and 1023. -/
theorem test_meets_FabricReceiving_notes :
    (fabric id).mooringEnds 1023 = false ∧
    let s : State :=
      { fitted := { stackMap := 0xFFF, gbPerStack := 48 }
        mem := { tags := [(0, some 0)], cells := (heap [(0x100, 0x20000), (0x108, 1), (0x110, 0x200), (0x200, 8), (0x278, 2 ^ 63)]).mem.cells }
        fabric := { xtbase := 0x100, xtcount := 1
                    tx := [{ id := 1, dst := 1, lane := 0, rsp := true, msg := { op := .readRsp }, waiter := none, notes := [0x20040] }] } }
    (s.fabric.tx.find? fun t => t.notes.contains 0x20040) = s.fabric.tx.head? ∧ (homeOf 0x20040).isSome = true ∧
    (match s.lent 0x20040 with | (s₁, some e) => (s₁.holders e).2 = [3, 1023] | _ => false) = true := by decide +kernel

/-- Leaves that are malformed in each way. -/
theorem test_meets_FabricReceiving_malformed :
    let l : Leaf := { src := 1023, from_ := 1023, lane := 15, seq := 63, idx := 19, d := 16, m := 4, body := {} }
    ([{ l with zeros := false }, { l with from_ := 5 }, { l with d := 0 }, { l with d := 17 }, { l with m := 0 }, { l with m := 5 }, { l with idx := 20 }].all
      fun l => l.zeros = false || l.src ≠ l.from_ || l.d = 0 || 16 < l.d || l.m = 0 || 4 < l.m || l.d + l.m ≤ l.idx) = true := by decide +kernel

/-- A frame that may be granted and one that may not, for key ID 255 and a bound one. -/
theorem test_meets_SctCommands_grants :
    let s : State := { sct := { busy := true, keys := [(254, .bound 3 0)] }, fitted := { stackMap := 0xFFF, gbPerStack := 48 } }
    s.sct.keys.get .free 254 = .bound 3 0 ∧ s.cannotGrant 1 = false ∧ s.cannotGrant (2 ^ 32) = true ∧ s.sct.keys.get .free 2 = .free := by decide +kernel

/-- A package in each phase of a mooring with a peer that has answered all, and with one that has not. -/
theorem test_meets_MooringSteps_phases :
    let s (m : Mooring) (seq : Option Nat) : State := { fabric fun t => { t with seq := seq } with sct := { busy := true, moorings := [(1023, m)] } }
    (∀ n ∈ [0, 1, 2, 3, 4, 5], ((s { phase := n, up := true } (some 0)).mooring 1023).phase = n ∧ (s { phase := n, up := true } (some 0)).unacked 1023 = true ∧
      (s { phase := n, up := true } none).unacked 1023 = false) := by decide +kernel
/-- A mooring message that passes its checks and carries this package's blocks, in any state. -/
theorem test_meets_MooringSteps_good (s : State) : ∃ m : MoorMsg, m.peer = 1023 ∧ m.checksPass = true ∧
    moorBlocksOf m = [1, 2, 3, 4].flatMap fun i => hashBytes (s.measurement i) := by
  refine ⟨{ peer := 1023, rest := ([1, 2, 3, 4].flatMap fun i => hashBytes (s.measurement i)) ++ List.replicate moorSigLen 0#8 }, rfl, rfl, ?_⟩
  have h (x : BitVec 256) : (hashBytes x).length = 32 := by simp [hashBytes, bytesOf]
  have n : ([1, 2, 3, 4].flatMap fun i => hashBytes (s.measurement i)).length = 128 := by simp [h]
  rw [moorBlocksOf, List.length_append, List.length_replicate, Nat.add_sub_cancel, n, Nat.sub_self, List.drop_zero]
  exact List.take_left' n

/-- A part that halted in bring-up; interfaces whose STOP waits. -/
theorem test_meets_SpdmForms_halted :
    ({ power := { stage := 4, bootReason := 4 } } : State).halted = true ∧
    let s (f : Vf) : State := { vfs := [(63, f)], power := { stage := 5 } }
    (s { stopping := true, stopAt := 5 }).tick < ((s { stopping := true, stopAt := 5 }).vf 63).stopAt ∧
    ((s {}).vf 63).stopAsked = false ∧ (s {}).vd? 63 = none ∧ (s {}).launches = [] ∧ (s {}).tilesHeld 63 = 0 := by decide +kernel

/-- Requests whose turn it is; a page of a peer's; a free engine for a channel with data to come. -/
theorem test_meets_HostAccess_turns :
    let r : ApReq := { vf := 1, off := 0x40, len := 8, ide := true, arrived := false }
    (∀ op ∈ [0, 1, 2], (hosted.takeTurn r op).2 = true) ∧ peerRun [({ addr := 0x40, len := 8 }, .peer 1023 0x80, { keyId := 1 })] = some (1023, 0x80, 1) ∧
    (hosted.vds.filterMap Prod.snd).all (fun v => v.jrnl.all fun y => y.typ ≠ 2 || y.st ≠ .accepted) = true ∧
    (∀ k, k < 5 → ¬ ((hosted.bulk k).chan = some (1, 0) ∧ hosted.chunkDue k = true)) ∧
    let s : State := { hosted with bulks := [], mem := (heap [(0x800, 2), (0x818, 0x400), (0x820, 0x1000), (0x828, 0x1000104)]).mem }
    s.idleEngine 0 = some 0 ∧ (s.readChan (heapVd s) 0).2.any (fun g => g.st = 1 && g.log2n = 4 && g.chunk = 1 && decide (g.dcons < g.hprod)) = true ∧
    s.bulks.any (fun b => b.2.chan = some (1, 0)) = false ∧ (s.vf 1).chans.contains 0 = false := by decide +kernel

/-- A VDCREATE block for a VD that is there already, and one for VD 0. -/
theorem test_meets_KeeperClocksAndSetup_refused :
    let h := heap [(0, 1), (8, 3 * 2 ^ 48), (0x10, 0x100), (0x48, 2 ^ 40), (0x68, 6), (0x78, 2 ^ 38)]
    let t : State := { h with vds := [(1, some { vd := 1 })], mem := { h.mem with tags := [(0, some 0)] }, sct := { pcm := [(0, 9)] } }
    (match t.paRead 0 0 192 with
      | (u, .ok b) => ((vdOf 1 (u.homeDie (field b 0 8)) b).all fun v => !u.vdAdmitted v) && (u.vd? 1).any fun w => w.vd = 1
      | (_, .error _) => false) = true ∧ t.vd? 0 = none := by decide +kernel

/-- A NEGOTIATE_ALGORITHMS that offers DMTF measurements, SHA-256 and one extended algorithm, whichever number it has. -/
theorem test_meets_SpdmForms_offer :
    let b : List Byte := [0x13#8, 0xE3#8, 0#8, 0#8, 36#8, 0#8, 1#8, 0#8, 0#8, 0#8, 0#8, 0#8, 1#8] ++ bytesOf 15 0 ++ [1#8, 0#8, 0#8, 0#8] ++
      bytesOf 4 (Config.spdmAlgorithm % 2 ^ 32)
    field b 6 1 % 2 = 1 ∧ field b 12 4 % 2 = 1 ∧ (offeredAlgs b).contains (Config.spdmAlgorithm % 2 ^ 32) = true := by
  refine ⟨rfl, rfl, ?_⟩
  have n (x : Nat) (h : x < 2 ^ 32) : natOf (bytesOf 4 x) = x := by
    simp [natOf, bytesOf]
    omega
  exact List.contains_iff_mem.2 (List.mem_cons.2 (.inl (n _ (Nat.mod_lt _ (by decide))).symm))

end Sys2Proof.Tests
end

/-! SUPPORT. The words that the integer forms deliver (R100 to R104): each operator of the model as arithmetic on
`toNat` or `toInt`. -/
namespace Sys2Proof.Machine
open Sys2Proof

/-! ## Sums, comparisons and counts -/

theorem word_add_eq_ofNat (x y : Word) : x + y = BitVec.ofNat 64 (x.toNat + y.toNat) := by
  rw [BitVec.ofNat_add, BitVec.ofNat_toNat, BitVec.ofNat_toNat, BitVec.setWidth_eq, BitVec.setWidth_eq]

theorem word_sub_eq_ofInt (x y : Word) : x - y = BitVec.ofInt 64 (x.toNat - y.toNat) := by
  apply BitVec.eq_of_toNat_eq
  rw [BitVec.toNat_sub, BitVec.toNat_ofInt]
  omega

theorem sext_eq_ofInt {n : Nat} (x : BitVec n) (h : n ≤ 64) : sext x = BitVec.ofInt 64 x.toInt := by
  apply BitVec.eq_of_toInt_eq
  rw [BitVec.toInt_ofInt, ← BitVec.toInt_signExtend_of_le h, BitVec.toInt_bmod_cancel]

theorem bit01_eq_ite {b : Bool} {c : Prop} [Decidable c] (h : b = true ↔ c) : bit01 b = if c then 1#64 else 0#64 :=
  if_congr h rfl rfl

/-- The lesser of two words as signed numbers. -/
theorem ite_slt_eq_min (x y : Word) : (if x.slt y then x else y) = BitVec.ofInt 64 (min x.toInt y.toInt) := by
  by_cases h : x.toInt < y.toInt
  · rw [if_pos (BitVec.slt_iff_toInt_lt.2 h), min_eq_left h.le, BitVec.ofInt_toInt]
  · rw [if_neg (mt BitVec.slt_iff_toInt_lt.1 h), min_eq_right (not_lt.1 h), BitVec.ofInt_toInt]

/-- The greater of two words as signed numbers. -/
theorem ite_slt_eq_max (x y : Word) : (if x.slt y then y else x) = BitVec.ofInt 64 (max x.toInt y.toInt) := by
  by_cases h : x.toInt < y.toInt
  · rw [if_pos (BitVec.slt_iff_toInt_lt.2 h), max_eq_right h.le, BitVec.ofInt_toInt]
  · rw [if_neg (mt BitVec.slt_iff_toInt_lt.1 h), max_eq_left (not_lt.1 h), BitVec.ofInt_toInt]

theorem not_slt_iff_toInt_le (x y : Word) : (!x.slt y) = true ↔ y.toInt ≤ x.toInt := by
  rw [Bool.not_eq_true', ← Bool.not_eq_true, BitVec.slt_iff_toInt_lt, not_lt]

theorem not_ult_iff_toNat_le (x y : Word) : (!x.ult y) = true ↔ y.toNat ≤ x.toNat := by
  rw [Bool.not_eq_true', ← Bool.not_eq_true, BitVec.ult_iff_toNat_lt, not_lt]

section CountLeadingZeros
variable {w : Nat} (x : BitVec w)

theorem cntlz_le : cntlz w x ≤ w := by
  unfold cntlz
  split <;> omega

/-- Below the counted zeros stands the highest one bit. -/
theorem cntlz_eq_of_ne_zero (h : x ≠ 0#w) : x.toNat.log2 < w ∧ cntlz w x = w - 1 - x.toNat.log2 := by
  have h0 : x.toNat ≠ 0 := fun e => h (BitVec.eq_of_toNat_eq e)
  exact ⟨(Nat.log2_lt h0).2 x.isLt, if_neg h⟩

/-- The counted bits, and all past the width, are zero. -/
theorem getLsbD_of_cntlz_le {k : Nat} (hk : w - cntlz w x ≤ k) : x.getLsbD k = false := by
  by_cases h : x = 0#w
  · rw [h, BitVec.getLsbD_zero]
  · obtain ⟨hlt, hn⟩ := cntlz_eq_of_ne_zero x h
    have hpow : 2 ^ (x.toNat.log2 + 1) ≤ 2 ^ k := Nat.pow_le_pow_right (by decide) (by omega)
    exact Nat.testBit_lt_two_pow (Nat.lt_of_lt_of_le Nat.lt_log2_self hpow)

/-- The bit after the counted zeros is one. -/
theorem getLsbD_of_cntlz_lt (hk : cntlz w x < w) : x.getLsbD (w - 1 - cntlz w x) = true := by
  have h : x ≠ 0#w := fun e => by simp [cntlz, e] at hk
  obtain ⟨hlt, hn⟩ := cntlz_eq_of_ne_zero x h
  have hbit : w - 1 - cntlz w x = x.toNat.log2 := by omega
  rw [hbit]
  exact Nat.testBit_log2 fun e => h (BitVec.eq_of_toNat_eq e)

end CountLeadingZeros

/-! ## Shifts and fields -/

theorem shiftLeft_eq_ofNat (x : Word) (k : Nat) : x <<< k = BitVec.ofNat 64 (x.toNat * 2 ^ k) := by
  apply BitVec.eq_of_toNat_eq
  rw [BitVec.toNat_shiftLeft, Nat.shiftLeft_eq, BitVec.toNat_ofNat]

theorem ushiftRight_eq_ofNat (x : Word) (k : Nat) : x >>> k = BitVec.ofNat 64 (x.toNat / 2 ^ k) := by
  rw [← Nat.shiftRight_eq_div_pow, ← BitVec.toNat_ushiftRight, BitVec.ofNat_toNat, BitVec.setWidth_eq]

theorem sshiftRight_eq_ofInt (x : Word) (k : Nat) : x.sshiftRight k = BitVec.ofInt 64 (x.toInt / 2 ^ k) := by
  have h := Int.shiftRight_eq_div_pow x.toInt k
  push_cast at h
  rw [← h, ← BitVec.toInt_sshiftRight, BitVec.ofInt_toInt]

/-- LUI's word (R104). -/
theorem sext_shiftLeft_13_eq_ofInt {n : Nat} (x : BitVec n) (h : n ≤ 64) :
    sext x <<< 13 = BitVec.ofInt 64 (x.toInt * 2 ^ 13) := by
  have hpow : BitVec.ofInt 64 (2 ^ 13) = BitVec.twoPow 64 13 := by decide
  rw [BitVec.ofInt_mul, ← sext_eq_ofInt x h, hpow, BitVec.mul_twoPow_eq_shiftLeft]

/-- LCAT's word (R104): the immediate fills the bits that the shift has emptied. -/
theorem shiftLeft_or_zext_eq_ofNat (x : Word) {n : Nat} (i : BitVec n) :
    (x <<< n ||| zext i) = BitVec.ofNat 64 (x.toNat * 2 ^ n + i.toNat) := by
  apply BitVec.eq_of_toNat_eq
  rw [BitVec.toNat_or, BitVec.toNat_shiftLeft, BitVec.toNat_setWidth, ← Nat.or_mod_two_pow, BitVec.toNat_ofNat,
    ← Nat.shiftLeft_add_eq_or_of_lt i.isLt, Nat.shiftLeft_eq]

/-- EXTR and EXTRZ shift the field to the top first, where its bits stand at the end of the word (R103). -/
theorem getLsbD_fieldToTop (x : Word) {pos len k : Nat} (h : pos + len ≤ 64) (hk : k < len) :
    (x <<< (64 - (pos + len))).getLsbD (64 - len + k) = x.getLsbD (pos + k) := by
  have hin : 64 - len + k < 64 := by omega
  have hup : ¬ 64 - len + k < 64 - (pos + len) := by omega
  have hbit : 64 - len + k - (64 - (pos + len)) = pos + k := by omega
  simp only [BitVec.getLsbD_shiftLeft, hin, hup, hbit, decide_true, decide_false, Bool.not_false, Bool.true_and]

/-- EXTRZ's word (R103). -/
theorem extractField_unsigned (x : Word) {pos len : Nat} (h : pos + len ≤ 64) :
    extractField false x pos len = BitVec.ofNat 64 (x.toNat / 2 ^ pos % 2 ^ len) := by
  apply BitVec.eq_of_getLsbD_eq
  intro k hk
  have hbit : (extractField false x pos len).getLsbD k = (x <<< (64 - (pos + len))).getLsbD (64 - len + k) :=
    BitVec.getLsbD_ushiftRight ..
  rw [hbit, BitVec.getLsbD_ofNat, Nat.testBit_mod_two_pow, Nat.testBit_div_two_pow]
  by_cases hl : k < len
  · rw [getLsbD_fieldToTop x h hl, Nat.add_comm]
    simp [hk, hl, BitVec.getLsbD]
  · rw [BitVec.getLsbD_of_ge _ _ (by omega)]
    simp [hl]

/-- EXTR's word (R103). -/
theorem extractField_signed (x : Word) {pos len : Nat} (h : pos + len ≤ 64) (hlen : 0 < len) :
    extractField true x pos len = (x.extractLsb' pos len).signExtend 64 := by
  have hmsb : (x <<< (64 - (pos + len))).msb = (x.extractLsb' pos len).msb := by
    have htop : 64 - 1 = 64 - len + (len - 1) := by omega
    have hlast : len - 1 < len := by omega
    rw [BitVec.msb_eq_getLsbD_last, BitVec.msb_eq_getLsbD_last, htop, getLsbD_fieldToTop x h hlast,
      BitVec.getLsbD_extractLsb', decide_eq_true hlast, Bool.true_and]
  apply BitVec.eq_of_getLsbD_eq
  intro k hk
  have hbit : (extractField true x pos len).getLsbD k = ((x <<< (64 - (pos + len))).sshiftRight (64 - len)).getLsbD k := rfl
  rw [hbit, BitVec.getLsbD_sshiftRight, BitVec.getLsbD_signExtend, hmsb, BitVec.getLsbD_extractLsb']
  by_cases hl : k < len
  · have hin : 64 - len + k < 64 := by omega
    rw [if_pos hin, getLsbD_fieldToTop x h hl]
    simp only [hl, hk, Nat.not_le.2 hk, if_true, decide_true, decide_false, Bool.not_false, Bool.true_and]
  · have hin : ¬ 64 - len + k < 64 := by omega
    simp only [hin, hl, hk, Nat.not_le.2 hk, if_false, decide_true, decide_false, Bool.not_false]

/-- The bits of INSR's mask are those of the field (R103). -/
theorem getLsbD_fieldMask {pos len k : Nat} (h : pos + len ≤ 64) (hk : k < 64) :
    ((BitVec.allOnes 64 >>> (64 - len)) <<< pos).getLsbD k = decide (pos ≤ k ∧ k < pos + len) := by
  rw [BitVec.getLsbD_shiftLeft, BitVec.getLsbD_ushiftRight, BitVec.getLsbD_allOnes, Bool.eq_iff_iff]
  simp only [Bool.and_eq_true, Bool.not_eq_true', decide_eq_true_eq, decide_eq_false_iff_not]
  omega

/-- INSR's word, bit by bit (R103). -/
theorem getLsbD_insertField (t x : Word) {pos len k : Nat} (h : pos + len ≤ 64) (hk : k < 64) :
    (insertField t x pos len).getLsbD k = if pos ≤ k ∧ k < pos + len then x.getLsbD (k - pos) else t.getLsbD k := by
  rw [insertField, BitVec.getLsbD_or, BitVec.getLsbD_and, BitVec.getLsbD_and, BitVec.getLsbD_not,
    getLsbD_fieldMask h hk, BitVec.getLsbD_shiftLeft]
  split
  case isTrue hf => simp only [hf, hk, Nat.not_lt.2 hf.1, and_self, decide_true, decide_false, Bool.not_true, Bool.not_false,
      Bool.and_true, Bool.and_false, Bool.true_and, Bool.false_or]
  case isFalse hf => simp only [hf, hk, decide_true, decide_false, Bool.not_false, Bool.and_true, Bool.and_false, Bool.or_false]

/-! ## Products and quotients -/

theorem word_mul_eq_ofNat (x y : Word) : x * y = BitVec.ofNat 64 (x.toNat * y.toNat) := by
  rw [BitVec.ofNat_mul, BitVec.ofNat_toNat, BitVec.ofNat_toNat, BitVec.setWidth_eq, BitVec.setWidth_eq]

/-- Bits [127:64] of a number are those of its remainder modulo 2^128. -/
theorem setWidth_ofInt_ushiftRight (n : Int) :
    (BitVec.ofInt 128 n >>> 64).setWidth 64 = BitVec.ofInt 64 (n / 2 ^ 64) := by
  apply BitVec.eq_of_toNat_eq
  rw [BitVec.toNat_setWidth, BitVec.toNat_ushiftRight, Nat.shiftRight_eq_div_pow, BitVec.toNat_ofInt, BitVec.toNat_ofInt]
  omega

theorem mulHigh_signed (x y : Word) : mulHigh true x y = BitVec.ofInt 64 (x.toInt * y.toInt / 2 ^ 64) := by
  have wide (z : Word) : BitVec.ofInt 128 z.toInt = z.signExtend 128 := by
    rw [← BitVec.toInt_signExtend_of_le (v := 128) (by decide), BitVec.ofInt_toInt]
  rw [← setWidth_ofInt_ushiftRight, BitVec.ofInt_mul, wide, wide]
  rfl

theorem mulHigh_unsigned (x y : Word) : mulHigh false x y = BitVec.ofNat 64 (x.toNat * y.toNat / 2 ^ 64) := by
  have wide (z : Word) : BitVec.ofInt 128 z.toNat = z.setWidth 128 := by
    rw [BitVec.ofInt_natCast, BitVec.ofNat_toNat]
  rw [← BitVec.ofInt_natCast, Int.natCast_ediv, Nat.cast_mul, Nat.cast_pow, Nat.cast_ofNat]
  rw [← setWidth_ofInt_ushiftRight, BitVec.ofInt_mul, wide, wide]
  rfl

theorem quotS_of_ne_zero {y : Word} (x : Word) (h : y ≠ 0#64) : quotS x y = BitVec.ofInt 64 (x.toInt.tdiv y.toInt) := by
  rw [quotS, if_neg h]
  apply BitVec.eq_of_toInt_eq
  rw [BitVec.toInt_sdiv, BitVec.toInt_ofInt]

theorem remS_of_ne_zero {y : Word} (x : Word) (h : y ≠ 0#64) : remS x y = BitVec.ofInt 64 (x.toInt.tmod y.toInt) := by
  rw [remS, if_neg h, ← BitVec.toInt_srem, BitVec.ofInt_toInt]

theorem quotU_of_ne_zero {y : Word} (x : Word) (h : y ≠ 0#64) : quotU x y = BitVec.ofNat 64 (x.toNat / y.toNat) := by
  rw [quotU, if_neg h, ← BitVec.toNat_udiv, BitVec.ofNat_toNat, BitVec.setWidth_eq]

theorem remU_of_ne_zero {y : Word} (x : Word) (h : y ≠ 0#64) : remU x y = BitVec.ofNat 64 (x.toNat % y.toNat) := by
  rw [remU, if_neg h, ← BitVec.toNat_umod, BitVec.ofNat_toNat, BitVec.setWidth_eq]

end Sys2Proof.Machine

/-! SUPPORT. The arms of the dispatcher for R100 to R106, each as the shared way it issues. -/
namespace Sys2Proof.Machine
open Sys2Proof
variable (s : State) (d a b n l p : BitVec 6) (i : BitVec 13) (j : BitVec 19) (o : BitVec 25)

/-! ## The register forms (R100, R101) -/

theorem exec_add : exec (.add d a b) s = aluR s d a b 1 fun x y => x + y := rfl
theorem exec_sub : exec (.sub d a b) s = aluR s d a b 1 fun x y => x - y := rfl
theorem exec_and : exec (.and d a b) s = aluR s d a b 1 fun x y => x &&& y := rfl
theorem exec_or : exec (.or d a b) s = aluR s d a b 1 fun x y => x ||| y := rfl
theorem exec_xor : exec (.xor d a b) s = aluR s d a b 1 fun x y => x ^^^ y := rfl
theorem exec_andn : exec (.andn d a b) s = aluR s d a b 1 fun x y => x &&& ~~~y := rfl
theorem exec_seq : exec (.seq d a b) s = aluR s d a b 1 fun x y => bit01 (x == y) := rfl
theorem exec_min : exec (.min d a b) s = aluR s d a b 1 fun x y => if x.slt y then x else y := rfl
theorem exec_max : exec (.max d a b) s = aluR s d a b 1 fun x y => if x.slt y then y else x := rfl
theorem exec_slt : exec (.slt d a b) s = aluR s d a b 1 fun x y => bit01 (x.slt y) := rfl
theorem exec_sltu : exec (.sltu d a b) s = aluR s d a b 1 fun x y => bit01 (x.ult y) := rfl
theorem exec_shl : exec (.shl d a b) s = aluR s d a b 1 fun x y => x <<< shamt y := rfl
theorem exec_shr : exec (.shr d a b) s = aluR s d a b 1 fun x y => x >>> shamt y := rfl
theorem exec_sra : exec (.sra d a b) s = aluR s d a b 1 fun x y => x.sshiftRight (shamt y) := rfl
theorem exec_mul : exec (.mul d a b) s = aluR s d a b 3 fun x y => x * y := rfl
theorem exec_mulh : exec (.mulh d a b) s = aluR s d a b 3 fun x y => mulHigh true x y := rfl
theorem exec_mulhu : exec (.mulhu d a b) s = aluR s d a b 3 fun x y => mulHigh false x y := rfl
theorem exec_div : exec (.div d a b) s = aluR s d a b 24 fun x y => quotS x y := rfl
theorem exec_divu : exec (.divu d a b) s = aluR s d a b 24 fun x y => quotU x y := rfl
theorem exec_rem : exec (.rem d a b) s = aluR s d a b 24 fun x y => remS x y := rfl
theorem exec_remu : exec (.remu d a b) s = aluR s d a b 24 fun x y => remU x y := rfl
theorem exec_cntlz : exec (.cntlz d a) s = issueValue s [a] d 1 true fun q => BitVec.ofNat 64 (cntlz 64 (q.gr a)) := rfl
theorem exec_cntpop : exec (.cntpop d a) s = issueValue s [a] d 1 true fun q => BitVec.ofNat 64 (cntpop 64 (q.gr a)) := rfl

/-! ## The immediate and field forms (R102 to R104) -/

theorem exec_addi : exec (.addi d a i) s = aluI s d a i fun x y => x + y := rfl
theorem exec_andi : exec (.andi d a i) s = aluI s d a i fun x y => x &&& y := rfl
theorem exec_ori : exec (.ori d a i) s = aluI s d a i fun x y => x ||| y := rfl
theorem exec_xori : exec (.xori d a i) s = aluI s d a i fun x y => x ^^^ y := rfl
theorem exec_slti : exec (.slti d a i) s = aluI s d a i fun x y => bit01 (x.slt y) := rfl
theorem exec_shli : exec (.shli d a n) s = aluShift s d a n fun x k => x <<< k := rfl
theorem exec_shri : exec (.shri d a n) s = aluShift s d a n fun x k => x >>> k := rfl
theorem exec_srai : exec (.srai d a n) s = aluShift s d a n fun x k => x.sshiftRight k := rfl
theorem exec_lui : exec (.lui d j) s = issueValue s [] d 1 true fun _ => sext j <<< 13 := rfl
theorem exec_lcat : exec (.lcat d j) s = issueValue s [] d 1 true fun q => (q.gr d <<< 19) ||| zext j := rfl
theorem exec_extr : exec (.extr d a l p) s =
    issueValue s [a] d 1 (fieldOk l p) fun q => extractField true (q.gr a) p.toNat (l.toNat + 1) := rfl
theorem exec_extrz : exec (.extrz d a l p) s =
    issueValue s [a] d 1 (fieldOk l p) fun q => extractField false (q.gr a) p.toNat (l.toNat + 1) := rfl
theorem exec_insr : exec (.insr d a l p) s =
    issueValue s [a] d 1 (fieldOk l p) fun q => insertField (q.gr d) (q.gr a) p.toNat (l.toNat + 1) := rfl

/-! ## Branches and jumps (R105, R106) -/

theorem exec_beq : exec (.beq a b i) s = branch s a b i fun x y => x == y := rfl
theorem exec_bne : exec (.bne a b i) s = branch s a b i fun x y => x != y := rfl
theorem exec_blt : exec (.blt a b i) s = branch s a b i fun x y => x.slt y := rfl
theorem exec_bge : exec (.bge a b i) s = branch s a b i fun x y => !x.slt y := rfl
theorem exec_bltu : exec (.bltu a b i) s = branch s a b i fun x y => x.ult y := rfl
theorem exec_bgeu : exec (.bgeu a b i) s = branch s a b i fun x y => !x.ult y := rfl
theorem exec_j : exec (.j o) s = issueCtl s [] false true true fun q => jumpTo s ((q.pc : Int) + o.toInt) id := rfl
theorem exec_jl : exec (.jl o) s = issueCtl s [63#6] false true true fun q =>
    jumpTo s ((q.pc : Int) + o.toInt) fun r => r.setG 63#6 (BitVec.ofNat 64 (q.pc + 1)) (s.now + 1) := rfl
theorem exec_jlr : exec (.jlr d a i) s = issueCtl s [d, a] false true true fun q =>
    jumpTo s ((q.gr a + sext i).toNat : Int) fun r => r.setG d (BitVec.ofNat 64 (q.pc + 1)) (s.now + 1) := rfl

end Sys2Proof.Machine

/-! SUPPORT. The shared ways in which R100 to R106 issue: what a form of each group delivers, and where a transfer
goes. -/
namespace Sys2Proof.Machine
open Sys2Proof
variable {s : State} {i : Instr}

/-! ## Forms that deliver a value (R97, R100 to R104) -/

/-- An instruction that issues as a form with a value delivers it; `aluR`, `aluI` and `aluShift` are such forms. -/
theorem exec_delivers {regs : List (BitVec 6)} {d : BitVec 6} {lat : Nat} {legal : Bool} {f : Seq → Word} {v : Word}
    (hi : exec i s = issueValue s regs d lat legal f) (h : s.Clear (d :: regs) false) (hl : legal = true)
    (hv : f (s.seq s.cur) = v) : ∃ s', exec i s = .next s' ∧ s.Delivers s' d v lat (s.pcNow + 1) 1 := by
  rw [hi, ← hv]
  exact issueValue_delivers f hl h

/-- An illegal form with a value raises ILLEGAL_ENC (R68). -/
theorem exec_illegal {regs : List (BitVec 6)} {d : BitVec 6} {lat : Nat} {legal : Bool} {f : Seq → Word}
    (hi : exec i s = issueValue s regs d lat legal f) (h : s.Clear (d :: regs) false) (hl : legal = false) :
    exec i s = .next (s.raise illegalEnc 0#64) := by
  rw [hi, hl]
  exact issueCtl_illegal _ h

/-! ## Transfers (R105, R106) -/

/-- A jump within the program that links `v` in g[d]. -/
theorem jumpTo_delivers {j : Int} {t : Nat} (d : BitVec 6) (v : Word) (lat : Nat) (hj : j = t) (ht : t ≤ 16383) :
    ∃ s', jumpTo s j (fun r => r.setG d v (s.now + lat)) = .next s' ∧ s.Delivers s' d v lat t 3 := by
  subst hj
  exact ⟨_, jumpTo_inside _ (Int.natCast_nonneg t) (by exact_mod_cast ht), State.delivers_modSeq d v lat t 3⟩

/-- A jump within the program that links nothing. -/
theorem jumpTo_passes {j : Int} {t : Nat} (hj : j = t) (ht : t ≤ 16383) :
    ∃ s', jumpTo s j id = .next s' ∧ s.Passes s' t 3 := by
  subst hj
  exact ⟨_, jumpTo_inside _ (Int.natCast_nonneg t) (by exact_mod_cast ht), State.passes_modSeq t 3⟩

section Branch
variable {a b : BitVec 6} {o : BitVec 13} {taken : Word → Word → Bool} {c : Prop}

theorem branch_of_not (h : s.Clear [a, b] false) (hc : taken (s.g a) (s.g b) = true ↔ c) (hn : ¬ c) :
    ∃ s', branch s a b o taken = .next s' ∧ s.Passes s' (s.pcNow + 1) 1 := by
  refine ⟨_, ?_, State.passes_modSeq (s.pcNow + 1) 1⟩
  rw [branch, issueCtl_clear _ h, if_neg (mt hc.1 hn)]
  rfl

theorem branch_of_taken (h : s.Clear [a, b] false) (hc : taken (s.g a) (s.g b) = true ↔ c) (ht : c) :
    branch s a b o taken = jumpTo s ((s.pcNow : Int) + o.toInt) id := by
  rw [branch, issueCtl_clear _ h, if_pos (hc.2 ht)]

/-- The three ends of a branch on condition `c`. -/
theorem exec_branch (hi : exec i s = branch s a b o taken) (h : s.Clear [a, b] false)
    (hc : taken (s.g a) (s.g b) = true ↔ c) :
    (¬ c → ∃ s', exec i s = .next s' ∧ s.Passes s' (s.pcNow + 1) 1) ∧
    (∀ t : Nat, c → (s.pcNow : Int) + o.toInt = t → t ≤ 16383 → ∃ s', exec i s = .next s' ∧ s.Passes s' t 3) ∧
    (c → ((s.pcNow : Int) + o.toInt < 0 ∨ 16383 < (s.pcNow : Int) + o.toInt) →
      exec i s = .next (s.raise illegalEnc 0#64)) := by
  rw [hi]
  refine ⟨branch_of_not h hc, fun t ht hj hle => ?_, fun ht hout => ?_⟩
  · rw [branch_of_taken h hc ht]
    exact jumpTo_passes hj hle
  · rw [branch_of_taken h hc ht]
    exact jumpTo_outside id hout

end Branch

end Sys2Proof.Machine

/-! The statements on R100 to R106. -/
namespace Sys2Proof.Machine
open Sys2Proof

/-- Settles O8: each register form issues in one shared way, and its operator is the arithmetic of R100 and R101. -/
theorem registerForms : Obligations.RegisterForms := by
  refine ⟨fun s d a b h => ?logic, fun s d a b h => ?compare, fun s d a h => ?count, fun s d a b n => ?shift,
    fun s d a b h => ?product, fun s d a b h => ?quotient⟩
  case logic =>
    exact ⟨exec_delivers (exec_add ..) h rfl (word_add_eq_ofNat _ _),
      exec_delivers (exec_sub ..) h rfl (word_sub_eq_ofInt _ _), exec_delivers (exec_and ..) h rfl rfl,
      exec_delivers (exec_or ..) h rfl rfl, exec_delivers (exec_xor ..) h rfl rfl,
      exec_delivers (exec_andn ..) h rfl rfl, exec_delivers (exec_seq ..) h rfl (bit01_eq_ite beq_iff_eq)⟩
  case compare =>
    exact ⟨exec_delivers (exec_min ..) h rfl (ite_slt_eq_min _ _),
      exec_delivers (exec_max ..) h rfl (ite_slt_eq_max _ _),
      exec_delivers (exec_slt ..) h rfl (bit01_eq_ite BitVec.slt_iff_toInt_lt),
      exec_delivers (exec_sltu ..) h rfl (bit01_eq_ite BitVec.ult_iff_toNat_lt)⟩
  case count =>
    obtain ⟨s', hs, hd⟩ := exec_delivers (exec_cntlz s d a) h rfl rfl
    exact ⟨⟨s', cntlz 64 (s.g a), hs, hd, cntlz_le _, fun k => getLsbD_of_cntlz_le _, getLsbD_of_cntlz_lt _⟩,
      exec_delivers (exec_cntpop ..) h rfl (congrArg (BitVec.ofNat 64) List.countP_eq_length_filter)⟩
  case shift =>
    refine ⟨fun h => ⟨?_, ?_, ?_⟩, fun h => ⟨?_, ?_, ?_⟩⟩
    · exact exec_delivers (exec_shl ..) h rfl (shiftLeft_eq_ofNat _ _)
    · exact exec_delivers (exec_shr ..) h rfl (ushiftRight_eq_ofNat _ _)
    · exact exec_delivers (exec_sra ..) h rfl (sshiftRight_eq_ofInt _ _)
    · exact exec_delivers (exec_shli ..) h rfl (shiftLeft_eq_ofNat _ _)
    · exact exec_delivers (exec_shri ..) h rfl (ushiftRight_eq_ofNat _ _)
    · exact exec_delivers (exec_srai ..) h rfl (sshiftRight_eq_ofInt _ _)
  case product =>
    exact ⟨exec_delivers (exec_mul ..) h rfl (word_mul_eq_ofNat _ _),
      exec_delivers (exec_mulh ..) h rfl (mulHigh_signed _ _),
      exec_delivers (exec_mulhu ..) h rfl (mulHigh_unsigned _ _)⟩
  case quotient =>
    refine ⟨fun hz => ⟨?_, ?_, ?_, ?_⟩, fun hnz => ⟨?_, ?_, ?_, ?_⟩⟩
    · exact exec_delivers (exec_div ..) h rfl (if_pos hz)
    · exact exec_delivers (exec_divu ..) h rfl (if_pos hz)
    · exact exec_delivers (exec_rem ..) h rfl (if_pos hz)
    · exact exec_delivers (exec_remu ..) h rfl (if_pos hz)
    · exact exec_delivers (exec_div ..) h rfl (quotS_of_ne_zero _ hnz)
    · exact exec_delivers (exec_rem ..) h rfl (remS_of_ne_zero _ hnz)
    · exact exec_delivers (exec_divu ..) h rfl (quotU_of_ne_zero _ hnz)
    · exact exec_delivers (exec_remu ..) h rfl (remU_of_ne_zero _ hnz)

/-- Settles O9: the immediate is its signed number, and a field's bits are those of its quotient and remainder. -/
theorem immediateAndFieldForms : Obligations.ImmediateAndFieldForms := by
  refine ⟨fun s d a i j => ⟨fun h => ?immediate, fun h => ?upper⟩,
    fun s d a l p h => ⟨fun hin => ?field, fun hout => ?illegal⟩⟩
  case immediate =>
    have hx : sext i = BitVec.ofInt 64 i.toInt := sext_eq_ofInt i (by decide)
    have hlt : (s.g a).slt (sext i) = true ↔ (s.g a).toInt < i.toInt := by
      rw [BitVec.slt_iff_toInt_lt, BitVec.toInt_signExtend_of_le (by decide)]
    exact ⟨exec_delivers (exec_addi ..) h rfl (congrArg (s.g a + ·) hx),
      exec_delivers (exec_andi ..) h rfl (congrArg (s.g a &&& ·) hx),
      exec_delivers (exec_ori ..) h rfl (congrArg (s.g a ||| ·) hx),
      exec_delivers (exec_xori ..) h rfl (congrArg (s.g a ^^^ ·) hx),
      exec_delivers (exec_slti ..) h rfl (bit01_eq_ite hlt)⟩
  case upper =>
    exact ⟨exec_delivers (exec_lui ..) h rfl (sext_shiftLeft_13_eq_ofInt j (by decide)),
      exec_delivers (exec_lcat ..) h rfl (shiftLeft_or_zext_eq_ofNat _ j)⟩
  case field =>
    have hl : fieldOk l p = true := decide_eq_true hin
    exact ⟨exec_delivers (exec_extrz ..) h hl (extractField_unsigned _ hin),
      exec_delivers (exec_extr ..) h hl (extractField_signed _ hin (Nat.succ_pos _)),
      _, exec_delivers (exec_insr ..) h hl rfl, fun k => getLsbD_insertField _ _ hin⟩
  case illegal =>
    have hl : fieldOk l p = false := decide_eq_false (Nat.not_le.2 hout)
    simp only [List.forall_mem_cons]
    exact ⟨exec_illegal (exec_extr ..) h hl, exec_illegal (exec_extrz ..) h hl, exec_illegal (exec_insr ..) h hl,
      List.forall_mem_nil _⟩

/-- Settles O10: branches and jumps go through `jumpTo`, which leaves everything as it was outside the program. -/
theorem controlTransfers : Obligations.ControlTransfers := by
  refine ⟨fun s a b o h => ?branches, fun s => ⟨fun o h t hj ht => ?j, fun o h t hj ht => ?jl,
    fun d a i h => ?jlr, fun o hout => ⟨fun h => ?jOut, fun h => ?jlOut⟩⟩⟩
  case branches =>
    exact ⟨exec_branch (exec_beq ..) h beq_iff_eq, exec_branch (exec_bne ..) h bne_iff_ne,
      exec_branch (exec_blt ..) h BitVec.slt_iff_toInt_lt, exec_branch (exec_bge ..) h (not_slt_iff_toInt_le _ _),
      exec_branch (exec_bltu ..) h BitVec.ult_iff_toNat_lt, exec_branch (exec_bgeu ..) h (not_ult_iff_toNat_le _ _)⟩
  case j =>
    rw [exec_j, issueCtl_clear _ h]
    exact jumpTo_passes hj ht
  case jl =>
    rw [exec_jl, issueCtl_clear _ h]
    exact jumpTo_delivers _ _ 1 hj ht
  case jlr =>
    rw [exec_jlr, issueCtl_clear _ h, sext_eq_ofInt i (by decide)]
    exact ⟨jumpTo_delivers d _ 1 rfl, fun hout => jumpTo_outside _ (.inr (by exact_mod_cast hout))⟩
  case jOut =>
    rw [exec_j, issueCtl_clear _ h]
    exact jumpTo_outside _ hout
  case jlOut =>
    rw [exec_jl, issueCtl_clear _ h]
    exact jumpTo_outside _ hout

end Sys2Proof.Machine
